-- ==== Sys2Proof/Word.lean ====
section
/-! DEFINITION. Word: the bit-vector types of the machine and their plainest arithmetic (spec R10, R11). -/

namespace Sys2Proof

/-- A 32-bit word: a register, an address, a memory word (R7). -/
abbrev Word := BitVec 32
/-- A byte of memory (R400). -/
abbrev Byte := BitVec 8
/-- A 16-bit halfword. -/
abbrev Half := BitVec 16
/-- A 64-bit value: a double-precision number, a DMA word (R400). -/
abbrev Dword := BitVec 64

/-- One bit of a vector as a one-bit vector. -/
def bit {w : Nat} (x : BitVec w) (i : Nat) : BitVec 1 := x.extractLsb' i 1

/-- A Bool as a one-bit vector. -/
def flag (b : Bool) : BitVec 1 := if b then 1#1 else 0#1

end Sys2Proof
end

