-- ==== Sys2Proof/Syntax.lean ====
section
/-! DEFINITION. Syntax: the 184 instructions of spec/opcode_table.json (MIPS32 Release 1, spec R3), one constructor per row.
A constructor's arguments are the row's operand fields, from the most significant to the least. -/

namespace Sys2Proof

/-- Number of a general register (R20). -/
abbrev GprNum := BitVec 5
/-- Number of a floating-point register (R50, R51). -/
abbrev FprNum := BitVec 5

/-- An instruction of the CPU (R499). The comment before each constructor names the rule of its row. -/
inductive Instr where
  /-- ADD, R522. -/
  | add (rs rt rd : GprNum)
  /-- ADDI, R523. -/
  | addi (rs rt : GprNum) (imm : BitVec 16)
  /-- ADDIU, R524. -/
  | addiu (rs rt : GprNum) (imm : BitVec 16)
  /-- ADDU, R525. -/
  | addu (rs rt rd : GprNum)
  /-- SUB, R526. -/
  | sub (rs rt rd : GprNum)
  /-- SUBU, R527. -/
  | subu (rs rt rd : GprNum)
  /-- SLT, R528. -/
  | slt (rs rt rd : GprNum)
  /-- SLTI, R529. -/
  | slti (rs rt : GprNum) (imm : BitVec 16)
  /-- SLTIU, R530. -/
  | sltiu (rs rt : GprNum) (imm : BitVec 16)
  /-- SLTU, R531. -/
  | sltu (rs rt rd : GprNum)
  /-- AND, R532. -/
  | andr (rs rt rd : GprNum)
  /-- ANDI, R533. -/
  | andi (rs rt : GprNum) (imm : BitVec 16)
  /-- OR, R534. -/
  | orr (rs rt rd : GprNum)
  /-- ORI, R535. -/
  | ori (rs rt : GprNum) (imm : BitVec 16)
  /-- XOR, R536. -/
  | xorr (rs rt rd : GprNum)
  /-- XORI, R537. -/
  | xori (rs rt : GprNum) (imm : BitVec 16)
  /-- NOR, R538. -/
  | norr (rs rt rd : GprNum)
  /-- LUI, R539. -/
  | lui (rt : GprNum) (imm : BitVec 16)
  /-- SLL, R540. -/
  | sll (rt rd : GprNum) (sa : BitVec 5)
  /-- SRL, R541. -/
  | srl (rt rd : GprNum) (sa : BitVec 5)
  /-- SRA, R542. -/
  | sra (rt rd : GprNum) (sa : BitVec 5)
  /-- SLLV, R543. -/
  | sllv (rs rt rd : GprNum)
  /-- SRLV, R544. -/
  | srlv (rs rt rd : GprNum)
  /-- SRAV, R545. -/
  | srav (rs rt rd : GprNum)
  /-- MULT, R547. -/
  | mult (rs rt : GprNum)
  /-- MULTU, R548. -/
  | multu (rs rt : GprNum)
  /-- MUL, R549. -/
  | mul (rs rt rd : GprNum)
  /-- MADD, R550. -/
  | madd (rs rt : GprNum)
  /-- MADDU, R551. -/
  | maddu (rs rt : GprNum)
  /-- MSUB, R552. -/
  | msub (rs rt : GprNum)
  /-- MSUBU, R553. -/
  | msubu (rs rt : GprNum)
  /-- DIV, R554. -/
  | div (rs rt : GprNum)
  /-- DIVU, R555. -/
  | divu (rs rt : GprNum)
  /-- MFHI, R556. -/
  | mfhi (rd : GprNum)
  /-- MFLO, R557. -/
  | mflo (rd : GprNum)
  /-- MTHI, R558. -/
  | mthi (rs : GprNum)
  /-- MTLO, R559. -/
  | mtlo (rs : GprNum)
  /-- CLZ, R560. -/
  | clz (rs rt rd : GprNum)
  /-- CLO, R561. -/
  | clo (rs rt rd : GprNum)
  /-- MOVN, R562. -/
  | movn (rs rt rd : GprNum)
  /-- MOVZ, R563. -/
  | movz (rs rt rd : GprNum)
  /-- MOVF, R564. -/
  | movf (rs : GprNum) (cc : BitVec 3) (rd : GprNum)
  /-- MOVT, R565. -/
  | movt (rs : GprNum) (cc : BitVec 3) (rd : GprNum)
  /-- J, R610. -/
  | j (index : BitVec 26)
  /-- JAL, R611. -/
  | jal (index : BitVec 26)
  /-- JR, R612. -/
  | jr (rs : GprNum) (hint : BitVec 5)
  /-- JALR, R613. -/
  | jalr (rs rd : GprNum) (hint : BitVec 5)
  /-- BEQ, R614. -/
  | beq (rs rt : GprNum) (offset : BitVec 16)
  /-- BNE, R615. -/
  | bne (rs rt : GprNum) (offset : BitVec 16)
  /-- BLEZ, R616. -/
  | blez (rs : GprNum) (offset : BitVec 16)
  /-- BGTZ, R617. -/
  | bgtz (rs : GprNum) (offset : BitVec 16)
  /-- BLTZ, R618. -/
  | bltz (rs : GprNum) (offset : BitVec 16)
  /-- BGEZ, R619. -/
  | bgez (rs : GprNum) (offset : BitVec 16)
  /-- BLTZAL, R620. -/
  | bltzal (rs : GprNum) (offset : BitVec 16)
  /-- BGEZAL, R621. -/
  | bgezal (rs : GprNum) (offset : BitVec 16)
  /-- BEQL, R623. -/
  | beql (rs rt : GprNum) (offset : BitVec 16)
  /-- BNEL, R624. -/
  | bnel (rs rt : GprNum) (offset : BitVec 16)
  /-- BLEZL, R625. -/
  | blezl (rs : GprNum) (offset : BitVec 16)
  /-- BGTZL, R626. -/
  | bgtzl (rs : GprNum) (offset : BitVec 16)
  /-- BLTZL, R627. -/
  | bltzl (rs : GprNum) (offset : BitVec 16)
  /-- BGEZL, R628. -/
  | bgezl (rs : GprNum) (offset : BitVec 16)
  /-- BLTZALL, R629. -/
  | bltzall (rs : GprNum) (offset : BitVec 16)
  /-- BGEZALL, R630. -/
  | bgezall (rs : GprNum) (offset : BitVec 16)
  /-- LB, R655. -/
  | lb (base rt : GprNum) (offset : BitVec 16)
  /-- LBU, R656. -/
  | lbu (base rt : GprNum) (offset : BitVec 16)
  /-- LH, R657. -/
  | lh (base rt : GprNum) (offset : BitVec 16)
  /-- LHU, R658. -/
  | lhu (base rt : GprNum) (offset : BitVec 16)
  /-- LW, R659. -/
  | lw (base rt : GprNum) (offset : BitVec 16)
  /-- LWL, R660. -/
  | lwl (base rt : GprNum) (offset : BitVec 16)
  /-- LWR, R661. -/
  | lwr (base rt : GprNum) (offset : BitVec 16)
  /-- SB, R662. -/
  | sb (base rt : GprNum) (offset : BitVec 16)
  /-- SH, R663. -/
  | sh (base rt : GprNum) (offset : BitVec 16)
  /-- SW, R664. -/
  | sw (base rt : GprNum) (offset : BitVec 16)
  /-- SWL, R665. -/
  | swl (base rt : GprNum) (offset : BitVec 16)
  /-- SWR, R666. -/
  | swr (base rt : GprNum) (offset : BitVec 16)
  /-- LL, R668. -/
  | ll (base rt : GprNum) (offset : BitVec 16)
  /-- SC, R669. -/
  | sc (base rt : GprNum) (offset : BitVec 16)
  /-- PREF, R670. -/
  | pref (base : GprNum) (hint : BitVec 5) (offset : BitVec 16)
  /-- SYNC, R671. -/
  | sync (stype : BitVec 5)
  /-- SYSCALL, R701. -/
  | syscall (code : BitVec 20)
  /-- BREAK, R702. -/
  | brk (code : BitVec 20)
  /-- TEQ, R704. -/
  | teq (rs rt : GprNum) (code : BitVec 10)
  /-- TNE, R705. -/
  | tne (rs rt : GprNum) (code : BitVec 10)
  /-- TGE, R706. -/
  | tge (rs rt : GprNum) (code : BitVec 10)
  /-- TGEU, R707. -/
  | tgeu (rs rt : GprNum) (code : BitVec 10)
  /-- TLT, R708. -/
  | tlt (rs rt : GprNum) (code : BitVec 10)
  /-- TLTU, R709. -/
  | tltu (rs rt : GprNum) (code : BitVec 10)
  /-- TEQI, R710. -/
  | teqi (rs : GprNum) (imm : BitVec 16)
  /-- TNEI, R711. -/
  | tnei (rs : GprNum) (imm : BitVec 16)
  /-- TGEI, R712. -/
  | tgei (rs : GprNum) (imm : BitVec 16)
  /-- TGEIU, R713. -/
  | tgeiu (rs : GprNum) (imm : BitVec 16)
  /-- TLTI, R714. -/
  | tlti (rs : GprNum) (imm : BitVec 16)
  /-- TLTIU, R715. -/
  | tltiu (rs : GprNum) (imm : BitVec 16)
  /-- MFC0, R716. -/
  | mfc0 (rt : GprNum) (rd : BitVec 5) (sel : BitVec 3)
  /-- ERET, R717. -/
  | eret
  /-- MTC0, R718. -/
  | mtc0 (rt : GprNum) (rd : BitVec 5) (sel : BitVec 3)
  /-- TLBP, R720. -/
  | tlbp
  /-- TLBR, R721. -/
  | tlbr
  /-- TLBWI, R722. -/
  | tlbwi
  /-- TLBWR, R723. -/
  | tlbwr
  /-- CACHE, R730. -/
  | cache (base : GprNum) (op : BitVec 5) (offset : BitVec 16)
  /-- WAIT, R731. -/
  | wait (code : BitVec 19)
  /-- ADD.S, R765. -/
  | addS (ft fs fd : FprNum)
  /-- ADD.D, R766. -/
  | addD (ft fs fd : FprNum)
  /-- SUB.S, R767. -/
  | subS (ft fs fd : FprNum)
  /-- SUB.D, R768. -/
  | subD (ft fs fd : FprNum)
  /-- MUL.S, R769. -/
  | mulS (ft fs fd : FprNum)
  /-- MUL.D, R770. -/
  | mulD (ft fs fd : FprNum)
  /-- DIV.S, R771. -/
  | divS (ft fs fd : FprNum)
  /-- DIV.D, R772. -/
  | divD (ft fs fd : FprNum)
  /-- SQRT.S, R773. -/
  | sqrtS (fs fd : FprNum)
  /-- SQRT.D, R774. -/
  | sqrtD (fs fd : FprNum)
  /-- ABS.S, R775. -/
  | absS (fs fd : FprNum)
  /-- ABS.D, R776. -/
  | absD (fs fd : FprNum)
  /-- NEG.S, R777. -/
  | negS (fs fd : FprNum)
  /-- NEG.D, R778. -/
  | negD (fs fd : FprNum)
  /-- MOV.S, R779. -/
  | movS (fs fd : FprNum)
  /-- MOV.D, R780. -/
  | movD (fs fd : FprNum)
  /-- CVT.S.D, R781. -/
  | cvtSD (fs fd : FprNum)
  /-- CVT.S.W, R782. -/
  | cvtSW (fs fd : FprNum)
  /-- CVT.D.S, R783. -/
  | cvtDS (fs fd : FprNum)
  /-- CVT.D.W, R784. -/
  | cvtDW (fs fd : FprNum)
  /-- CVT.W.S, R785. -/
  | cvtWS (fs fd : FprNum)
  /-- CVT.W.D, R786. -/
  | cvtWD (fs fd : FprNum)
  /-- ROUND.W.S, R791. -/
  | roundWS (fs fd : FprNum)
  /-- ROUND.W.D, R792. -/
  | roundWD (fs fd : FprNum)
  /-- TRUNC.W.S, R793. -/
  | truncWS (fs fd : FprNum)
  /-- TRUNC.W.D, R794. -/
  | truncWD (fs fd : FprNum)
  /-- CEIL.W.S, R795. -/
  | ceilWS (fs fd : FprNum)
  /-- CEIL.W.D, R796. -/
  | ceilWD (fs fd : FprNum)
  /-- FLOOR.W.S, R797. -/
  | floorWS (fs fd : FprNum)
  /-- FLOOR.W.D, R798. -/
  | floorWD (fs fd : FprNum)
  /-- MFC1, R799. -/
  | mfc1 (rt : GprNum) (fs : FprNum)
  /-- MTC1, R800. -/
  | mtc1 (rt : GprNum) (fs : FprNum)
  /-- CFC1, R801. -/
  | cfc1 (rt : GprNum) (fs : FprNum)
  /-- CTC1, R802. -/
  | ctc1 (rt : GprNum) (fs : FprNum)
  /-- LWC1, R806. -/
  | lwc1 (base : GprNum) (ft : FprNum) (offset : BitVec 16)
  /-- SWC1, R807. -/
  | swc1 (base : GprNum) (ft : FprNum) (offset : BitVec 16)
  /-- LDC1, R808. -/
  | ldc1 (base : GprNum) (ft : FprNum) (offset : BitVec 16)
  /-- SDC1, R809. -/
  | sdc1 (base : GprNum) (ft : FprNum) (offset : BitVec 16)
  /-- MOVF.S, R817. -/
  | movfS (cc : BitVec 3) (fs fd : FprNum)
  /-- MOVF.D, R818. -/
  | movfD (cc : BitVec 3) (fs fd : FprNum)
  /-- MOVT.S, R819. -/
  | movtS (cc : BitVec 3) (fs fd : FprNum)
  /-- MOVT.D, R820. -/
  | movtD (cc : BitVec 3) (fs fd : FprNum)
  /-- MOVN.S, R821. -/
  | movnS (rt : GprNum) (fs fd : FprNum)
  /-- MOVN.D, R822. -/
  | movnD (rt : GprNum) (fs fd : FprNum)
  /-- MOVZ.S, R823. -/
  | movzS (rt : GprNum) (fs fd : FprNum)
  /-- MOVZ.D, R824. -/
  | movzD (rt : GprNum) (fs fd : FprNum)
  /-- BC1F, R812. -/
  | bc1f (cc : BitVec 3) (offset : BitVec 16)
  /-- BC1T, R813. -/
  | bc1t (cc : BitVec 3) (offset : BitVec 16)
  /-- BC1FL, R814. -/
  | bc1fl (cc : BitVec 3) (offset : BitVec 16)
  /-- BC1TL, R815. -/
  | bc1tl (cc : BitVec 3) (offset : BitVec 16)
  /-- C.F.S, R826. -/
  | cFS (ft fs : FprNum) (cc : BitVec 3)
  /-- C.F.D, R826. -/
  | cFD (ft fs : FprNum) (cc : BitVec 3)
  /-- C.UN.S, R827. -/
  | cUnS (ft fs : FprNum) (cc : BitVec 3)
  /-- C.UN.D, R827. -/
  | cUnD (ft fs : FprNum) (cc : BitVec 3)
  /-- C.EQ.S, R828. -/
  | cEqS (ft fs : FprNum) (cc : BitVec 3)
  /-- C.EQ.D, R828. -/
  | cEqD (ft fs : FprNum) (cc : BitVec 3)
  /-- C.UEQ.S, R829. -/
  | cUeqS (ft fs : FprNum) (cc : BitVec 3)
  /-- C.UEQ.D, R829. -/
  | cUeqD (ft fs : FprNum) (cc : BitVec 3)
  /-- C.OLT.S, R830. -/
  | cOltS (ft fs : FprNum) (cc : BitVec 3)
  /-- C.OLT.D, R830. -/
  | cOltD (ft fs : FprNum) (cc : BitVec 3)
  /-- C.ULT.S, R831. -/
  | cUltS (ft fs : FprNum) (cc : BitVec 3)
  /-- C.ULT.D, R831. -/
  | cUltD (ft fs : FprNum) (cc : BitVec 3)
  /-- C.OLE.S, R832. -/
  | cOleS (ft fs : FprNum) (cc : BitVec 3)
  /-- C.OLE.D, R832. -/
  | cOleD (ft fs : FprNum) (cc : BitVec 3)
  /-- C.ULE.S, R833. -/
  | cUleS (ft fs : FprNum) (cc : BitVec 3)
  /-- C.ULE.D, R833. -/
  | cUleD (ft fs : FprNum) (cc : BitVec 3)
  /-- C.SF.S, R834. -/
  | cSfS (ft fs : FprNum) (cc : BitVec 3)
  /-- C.SF.D, R834. -/
  | cSfD (ft fs : FprNum) (cc : BitVec 3)
  /-- C.NGLE.S, R835. -/
  | cNgleS (ft fs : FprNum) (cc : BitVec 3)
  /-- C.NGLE.D, R835. -/
  | cNgleD (ft fs : FprNum) (cc : BitVec 3)
  /-- C.SEQ.S, R836. -/
  | cSeqS (ft fs : FprNum) (cc : BitVec 3)
  /-- C.SEQ.D, R836. -/
  | cSeqD (ft fs : FprNum) (cc : BitVec 3)
  /-- C.NGL.S, R837. -/
  | cNglS (ft fs : FprNum) (cc : BitVec 3)
  /-- C.NGL.D, R837. -/
  | cNglD (ft fs : FprNum) (cc : BitVec 3)
  /-- C.LT.S, R838. -/
  | cLtS (ft fs : FprNum) (cc : BitVec 3)
  /-- C.LT.D, R838. -/
  | cLtD (ft fs : FprNum) (cc : BitVec 3)
  /-- C.NGE.S, R839. -/
  | cNgeS (ft fs : FprNum) (cc : BitVec 3)
  /-- C.NGE.D, R839. -/
  | cNgeD (ft fs : FprNum) (cc : BitVec 3)
  /-- C.LE.S, R840. -/
  | cLeS (ft fs : FprNum) (cc : BitVec 3)
  /-- C.LE.D, R840. -/
  | cLeD (ft fs : FprNum) (cc : BitVec 3)
  /-- C.NGT.S, R841. -/
  | cNgtS (ft fs : FprNum) (cc : BitVec 3)
  /-- C.NGT.D, R841. -/
  | cNgtD (ft fs : FprNum) (cc : BitVec 3)
  deriving DecidableEq, Repr

end Sys2Proof
end

