-- ==== Sys2Proof/WellFormed.lean ====
section
/-! DEFINITION. WellFormed: the operand restrictions the spec puts on single instructions: a link register that is not the
source (R604b), even floating-point registers (R753). Every other operand value is allowed. -/

namespace Sys2Proof

/-- An even floating-point register number (R51, R753). -/
def evenFpr (r : FprNum) : Bool := r.extractLsb' 0 1 == 0#1

/-- The operand restrictions of R604(b) and R753. -/
def Instr.wellFormed : Instr → Bool
  | .add _ _ _ => true
  | .addi _ _ _ => true
  | .addiu _ _ _ => true
  | .addu _ _ _ => true
  | .sub _ _ _ => true
  | .subu _ _ _ => true
  | .slt _ _ _ => true
  | .slti _ _ _ => true
  | .sltiu _ _ _ => true
  | .sltu _ _ _ => true
  | .andr _ _ _ => true
  | .andi _ _ _ => true
  | .orr _ _ _ => true
  | .ori _ _ _ => true
  | .xorr _ _ _ => true
  | .xori _ _ _ => true
  | .norr _ _ _ => true
  | .lui _ _ => true
  | .sll _ _ _ => true
  | .srl _ _ _ => true
  | .sra _ _ _ => true
  | .sllv _ _ _ => true
  | .srlv _ _ _ => true
  | .srav _ _ _ => true
  | .mult _ _ => true
  | .multu _ _ => true
  | .mul _ _ _ => true
  | .madd _ _ => true
  | .maddu _ _ => true
  | .msub _ _ => true
  | .msubu _ _ => true
  | .div _ _ => true
  | .divu _ _ => true
  | .mfhi _ => true
  | .mflo _ => true
  | .mthi _ => true
  | .mtlo _ => true
  | .clz _ _ _ => true
  | .clo _ _ _ => true
  | .movn _ _ _ => true
  | .movz _ _ _ => true
  | .movf _ _ _ => true
  | .movt _ _ _ => true
  | .j _ => true
  | .jal _ => true
  | .jr _ _ => true
  | .jalr rs rd _ => rs != rd
  | .beq _ _ _ => true
  | .bne _ _ _ => true
  | .blez _ _ => true
  | .bgtz _ _ => true
  | .bltz _ _ => true
  | .bgez _ _ => true
  | .bltzal rs _ => rs != 31#5
  | .bgezal rs _ => rs != 31#5
  | .beql _ _ _ => true
  | .bnel _ _ _ => true
  | .blezl _ _ => true
  | .bgtzl _ _ => true
  | .bltzl _ _ => true
  | .bgezl _ _ => true
  | .bltzall rs _ => rs != 31#5
  | .bgezall rs _ => rs != 31#5
  | .lb _ _ _ => true
  | .lbu _ _ _ => true
  | .lh _ _ _ => true
  | .lhu _ _ _ => true
  | .lw _ _ _ => true
  | .lwl _ _ _ => true
  | .lwr _ _ _ => true
  | .sb _ _ _ => true
  | .sh _ _ _ => true
  | .sw _ _ _ => true
  | .swl _ _ _ => true
  | .swr _ _ _ => true
  | .ll _ _ _ => true
  | .sc _ _ _ => true
  | .pref _ _ _ => true
  | .sync _ => true
  | .syscall _ => true
  | .brk _ => true
  | .teq _ _ _ => true
  | .tne _ _ _ => true
  | .tge _ _ _ => true
  | .tgeu _ _ _ => true
  | .tlt _ _ _ => true
  | .tltu _ _ _ => true
  | .teqi _ _ => true
  | .tnei _ _ => true
  | .tgei _ _ => true
  | .tgeiu _ _ => true
  | .tlti _ _ => true
  | .tltiu _ _ => true
  | .mfc0 _ _ _ => true
  | .eret => true
  | .mtc0 _ _ _ => true
  | .tlbp => true
  | .tlbr => true
  | .tlbwi => true
  | .tlbwr => true
  | .cache _ _ _ => true
  | .wait _ => true
  | .addS ft fs fd => evenFpr ft && evenFpr fs && evenFpr fd
  | .addD ft fs fd => evenFpr ft && evenFpr fs && evenFpr fd
  | .subS ft fs fd => evenFpr ft && evenFpr fs && evenFpr fd
  | .subD ft fs fd => evenFpr ft && evenFpr fs && evenFpr fd
  | .mulS ft fs fd => evenFpr ft && evenFpr fs && evenFpr fd
  | .mulD ft fs fd => evenFpr ft && evenFpr fs && evenFpr fd
  | .divS ft fs fd => evenFpr ft && evenFpr fs && evenFpr fd
  | .divD ft fs fd => evenFpr ft && evenFpr fs && evenFpr fd
  | .sqrtS fs fd => evenFpr fs && evenFpr fd
  | .sqrtD fs fd => evenFpr fs && evenFpr fd
  | .absS fs fd => evenFpr fs && evenFpr fd
  | .absD fs fd => evenFpr fs && evenFpr fd
  | .negS fs fd => evenFpr fs && evenFpr fd
  | .negD fs fd => evenFpr fs && evenFpr fd
  | .movS fs fd => evenFpr fs && evenFpr fd
  | .movD fs fd => evenFpr fs && evenFpr fd
  | .cvtSD fs fd => evenFpr fs && evenFpr fd
  | .cvtSW fs fd => evenFpr fs && evenFpr fd
  | .cvtDS fs fd => evenFpr fs && evenFpr fd
  | .cvtDW fs fd => evenFpr fs && evenFpr fd
  | .cvtWS fs fd => evenFpr fs && evenFpr fd
  | .cvtWD fs fd => evenFpr fs && evenFpr fd
  | .roundWS fs fd => evenFpr fs && evenFpr fd
  | .roundWD fs fd => evenFpr fs && evenFpr fd
  | .truncWS fs fd => evenFpr fs && evenFpr fd
  | .truncWD fs fd => evenFpr fs && evenFpr fd
  | .ceilWS fs fd => evenFpr fs && evenFpr fd
  | .ceilWD fs fd => evenFpr fs && evenFpr fd
  | .floorWS fs fd => evenFpr fs && evenFpr fd
  | .floorWD fs fd => evenFpr fs && evenFpr fd
  | .mfc1 _ _ => true
  | .mtc1 _ _ => true
  | .cfc1 _ _ => true
  | .ctc1 _ _ => true
  | .lwc1 _ _ _ => true
  | .swc1 _ _ _ => true
  | .ldc1 _ ft _ => evenFpr ft
  | .sdc1 _ ft _ => evenFpr ft
  | .movfS _ fs fd => evenFpr fs && evenFpr fd
  | .movfD _ fs fd => evenFpr fs && evenFpr fd
  | .movtS _ fs fd => evenFpr fs && evenFpr fd
  | .movtD _ fs fd => evenFpr fs && evenFpr fd
  | .movnS _ fs fd => evenFpr fs && evenFpr fd
  | .movnD _ fs fd => evenFpr fs && evenFpr fd
  | .movzS _ fs fd => evenFpr fs && evenFpr fd
  | .movzD _ fs fd => evenFpr fs && evenFpr fd
  | .bc1f _ _ => true
  | .bc1t _ _ => true
  | .bc1fl _ _ => true
  | .bc1tl _ _ => true
  | .cFS ft fs _ => evenFpr ft && evenFpr fs
  | .cFD ft fs _ => evenFpr ft && evenFpr fs
  | .cUnS ft fs _ => evenFpr ft && evenFpr fs
  | .cUnD ft fs _ => evenFpr ft && evenFpr fs
  | .cEqS ft fs _ => evenFpr ft && evenFpr fs
  | .cEqD ft fs _ => evenFpr ft && evenFpr fs
  | .cUeqS ft fs _ => evenFpr ft && evenFpr fs
  | .cUeqD ft fs _ => evenFpr ft && evenFpr fs
  | .cOltS ft fs _ => evenFpr ft && evenFpr fs
  | .cOltD ft fs _ => evenFpr ft && evenFpr fs
  | .cUltS ft fs _ => evenFpr ft && evenFpr fs
  | .cUltD ft fs _ => evenFpr ft && evenFpr fs
  | .cOleS ft fs _ => evenFpr ft && evenFpr fs
  | .cOleD ft fs _ => evenFpr ft && evenFpr fs
  | .cUleS ft fs _ => evenFpr ft && evenFpr fs
  | .cUleD ft fs _ => evenFpr ft && evenFpr fs
  | .cSfS ft fs _ => evenFpr ft && evenFpr fs
  | .cSfD ft fs _ => evenFpr ft && evenFpr fs
  | .cNgleS ft fs _ => evenFpr ft && evenFpr fs
  | .cNgleD ft fs _ => evenFpr ft && evenFpr fs
  | .cSeqS ft fs _ => evenFpr ft && evenFpr fs
  | .cSeqD ft fs _ => evenFpr ft && evenFpr fs
  | .cNglS ft fs _ => evenFpr ft && evenFpr fs
  | .cNglD ft fs _ => evenFpr ft && evenFpr fs
  | .cLtS ft fs _ => evenFpr ft && evenFpr fs
  | .cLtD ft fs _ => evenFpr ft && evenFpr fs
  | .cNgeS ft fs _ => evenFpr ft && evenFpr fs
  | .cNgeD ft fs _ => evenFpr ft && evenFpr fs
  | .cLeS ft fs _ => evenFpr ft && evenFpr fs
  | .cLeD ft fs _ => evenFpr ft && evenFpr fs
  | .cNgtS ft fs _ => evenFpr ft && evenFpr fs
  | .cNgtD ft fs _ => evenFpr ft && evenFpr fs

end Sys2Proof
end

