-- ==== Sys2Proof/Decode.lean ====
section
/-! DEFINITION. Decode: a total decoder of instruction words, rejecting by name, and the encoder after it
(spec R482 to R498; the must-be-zero fields are checked, R496). -/

namespace Sys2Proof

/-- Why bytes are no instruction: the blank cells of R485 to R490, the must-be-zero fields of R496, the absent
coprocessors of R498, and too few bytes. -/
inductive DecodeError where
  | reservedOpcode
  | reservedSpecial
  | reservedRegimm
  | reservedSpecial2
  | reservedCop0
  | reservedCop1
  | mustBeZero
  | coprocessorTwo
  | coprocessorThree
  | truncated
  deriving DecidableEq, Repr

/-- Bits 31:26, the primary opcode (R483). -/
def opOf (w : Word) : BitVec 6 := w.extractLsb' 26 6
/-- Bits 25:21 (R483). -/
def rsOf (w : Word) : BitVec 5 := w.extractLsb' 21 5
/-- Bits 20:16 (R483). -/
def rtOf (w : Word) : BitVec 5 := w.extractLsb' 16 5
/-- Bits 15:11 (R483). -/
def rdOf (w : Word) : BitVec 5 := w.extractLsb' 11 5
/-- Bits 10:6 (R483). -/
def saOf (w : Word) : BitVec 5 := w.extractLsb' 6 5
/-- Bits 5:0, the function field (R483). -/
def fnOf (w : Word) : BitVec 6 := w.extractLsb' 0 6
/-- Bits 15:0, the immediate or offset (R483). -/
def immOf (w : Word) : BitVec 16 := w.extractLsb' 0 16
/-- Bits 25:0, the jump index (R483). -/
def idxOf (w : Word) : BitVec 26 := w.extractLsb' 0 26
/-- Bits 15:6, the code of a register trap (R703). -/
def codeOf10 (w : Word) : BitVec 10 := rdOf w ++ saOf w
/-- Bits 25:6, the code of SYSCALL and BREAK (R701). -/
def codeOf20 (w : Word) : BitVec 20 := rsOf w ++ rtOf w ++ rdOf w ++ saOf w
/-- Bits 24:6, the code of WAIT (R731). -/
def codeOf19 (w : Word) : BitVec 19 := (rsOf w).extractLsb' 0 4 ++ rtOf w ++ rdOf w ++ saOf w

/-- The instruction when its must-be-zero fields are zero (R496). -/
def checked (c : Bool) (i : Instr) : Except DecodeError Instr :=
  if c then .ok i else .error .mustBeZero

/-- The SPECIAL map, selected by the function field (R486). -/
def decodeSpecial (w : Word) : Except DecodeError Instr :=
  match fnOf w with
  | 0x20#6 => checked ((saOf w == 0x00#5)) (.add (rsOf w) (rtOf w) (rdOf w))
  | 0x21#6 => checked ((saOf w == 0x00#5)) (.addu (rsOf w) (rtOf w) (rdOf w))
  | 0x22#6 => checked ((saOf w == 0x00#5)) (.sub (rsOf w) (rtOf w) (rdOf w))
  | 0x23#6 => checked ((saOf w == 0x00#5)) (.subu (rsOf w) (rtOf w) (rdOf w))
  | 0x2A#6 => checked ((saOf w == 0x00#5)) (.slt (rsOf w) (rtOf w) (rdOf w))
  | 0x2B#6 => checked ((saOf w == 0x00#5)) (.sltu (rsOf w) (rtOf w) (rdOf w))
  | 0x24#6 => checked ((saOf w == 0x00#5)) (.andr (rsOf w) (rtOf w) (rdOf w))
  | 0x25#6 => checked ((saOf w == 0x00#5)) (.orr (rsOf w) (rtOf w) (rdOf w))
  | 0x26#6 => checked ((saOf w == 0x00#5)) (.xorr (rsOf w) (rtOf w) (rdOf w))
  | 0x27#6 => checked ((saOf w == 0x00#5)) (.norr (rsOf w) (rtOf w) (rdOf w))
  | 0x00#6 => checked ((rsOf w == 0x00#5)) (.sll (rtOf w) (rdOf w) (saOf w))
  | 0x02#6 => checked ((rsOf w == 0x00#5)) (.srl (rtOf w) (rdOf w) (saOf w))
  | 0x03#6 => checked ((rsOf w == 0x00#5)) (.sra (rtOf w) (rdOf w) (saOf w))
  | 0x04#6 => checked ((saOf w == 0x00#5)) (.sllv (rsOf w) (rtOf w) (rdOf w))
  | 0x06#6 => checked ((saOf w == 0x00#5)) (.srlv (rsOf w) (rtOf w) (rdOf w))
  | 0x07#6 => checked ((saOf w == 0x00#5)) (.srav (rsOf w) (rtOf w) (rdOf w))
  | 0x18#6 => checked ((rdOf w == 0x00#5) && (saOf w == 0x00#5)) (.mult (rsOf w) (rtOf w))
  | 0x19#6 => checked ((rdOf w == 0x00#5) && (saOf w == 0x00#5)) (.multu (rsOf w) (rtOf w))
  | 0x1A#6 => checked ((rdOf w == 0x00#5) && (saOf w == 0x00#5)) (.div (rsOf w) (rtOf w))
  | 0x1B#6 => checked ((rdOf w == 0x00#5) && (saOf w == 0x00#5)) (.divu (rsOf w) (rtOf w))
  | 0x10#6 => checked ((rsOf w == 0x00#5) && (rtOf w == 0x00#5) && (saOf w == 0x00#5)) (.mfhi (rdOf w))
  | 0x12#6 => checked ((rsOf w == 0x00#5) && (rtOf w == 0x00#5) && (saOf w == 0x00#5)) (.mflo (rdOf w))
  | 0x11#6 => checked ((rtOf w == 0x00#5) && (rdOf w == 0x00#5) && (saOf w == 0x00#5)) (.mthi (rsOf w))
  | 0x13#6 => checked ((rtOf w == 0x00#5) && (rdOf w == 0x00#5) && (saOf w == 0x00#5)) (.mtlo (rsOf w))
  | 0x0B#6 => checked ((saOf w == 0x00#5)) (.movn (rsOf w) (rtOf w) (rdOf w))
  | 0x0A#6 => checked ((saOf w == 0x00#5)) (.movz (rsOf w) (rtOf w) (rdOf w))
  | 0x08#6 => checked ((rtOf w == 0x00#5) && (rdOf w == 0x00#5)) (.jr (rsOf w) (saOf w))
  | 0x09#6 => checked ((rtOf w == 0x00#5)) (.jalr (rsOf w) (rdOf w) (saOf w))
  | 0x0F#6 => checked ((rsOf w == 0x00#5) && (rtOf w == 0x00#5) && (rdOf w == 0x00#5)) (.sync (saOf w))
  | 0x0C#6 => .ok (.syscall (codeOf20 w))
  | 0x0D#6 => .ok (.brk (codeOf20 w))
  | 0x34#6 => .ok (.teq (rsOf w) (rtOf w) (codeOf10 w))
  | 0x36#6 => .ok (.tne (rsOf w) (rtOf w) (codeOf10 w))
  | 0x30#6 => .ok (.tge (rsOf w) (rtOf w) (codeOf10 w))
  | 0x31#6 => .ok (.tgeu (rsOf w) (rtOf w) (codeOf10 w))
  | 0x32#6 => .ok (.tlt (rsOf w) (rtOf w) (codeOf10 w))
  | 0x33#6 => .ok (.tltu (rsOf w) (rtOf w) (codeOf10 w))
  | 0x01#6 => checked ((rtOf w &&& 0x02#5 == 0x00#5) && (saOf w == 0x00#5)) (if rtOf w &&& 0x01#5 == 0x00#5 then .movf (rsOf w) ((rtOf w).extractLsb' 2 3) (rdOf w) else .movt (rsOf w) ((rtOf w).extractLsb' 2 3) (rdOf w))
  | _ => .error .reservedSpecial

/-- The REGIMM map, selected by the rt field (R487). -/
def decodeRegimm (w : Word) : Except DecodeError Instr :=
  match rtOf w with
  | 0x00#5 => .ok (.bltz (rsOf w) (immOf w))
  | 0x01#5 => .ok (.bgez (rsOf w) (immOf w))
  | 0x10#5 => .ok (.bltzal (rsOf w) (immOf w))
  | 0x11#5 => .ok (.bgezal (rsOf w) (immOf w))
  | 0x02#5 => .ok (.bltzl (rsOf w) (immOf w))
  | 0x03#5 => .ok (.bgezl (rsOf w) (immOf w))
  | 0x12#5 => .ok (.bltzall (rsOf w) (immOf w))
  | 0x13#5 => .ok (.bgezall (rsOf w) (immOf w))
  | 0x0C#5 => .ok (.teqi (rsOf w) (immOf w))
  | 0x0E#5 => .ok (.tnei (rsOf w) (immOf w))
  | 0x08#5 => .ok (.tgei (rsOf w) (immOf w))
  | 0x09#5 => .ok (.tgeiu (rsOf w) (immOf w))
  | 0x0A#5 => .ok (.tlti (rsOf w) (immOf w))
  | 0x0B#5 => .ok (.tltiu (rsOf w) (immOf w))
  | _ => .error .reservedRegimm

/-- The SPECIAL2 map, selected by the function field (R488). -/
def decodeSpecial2 (w : Word) : Except DecodeError Instr :=
  match fnOf w with
  | 0x02#6 => checked ((saOf w == 0x00#5)) (.mul (rsOf w) (rtOf w) (rdOf w))
  | 0x00#6 => checked ((rdOf w == 0x00#5) && (saOf w == 0x00#5)) (.madd (rsOf w) (rtOf w))
  | 0x01#6 => checked ((rdOf w == 0x00#5) && (saOf w == 0x00#5)) (.maddu (rsOf w) (rtOf w))
  | 0x04#6 => checked ((rdOf w == 0x00#5) && (saOf w == 0x00#5)) (.msub (rsOf w) (rtOf w))
  | 0x05#6 => checked ((rdOf w == 0x00#5) && (saOf w == 0x00#5)) (.msubu (rsOf w) (rtOf w))
  | 0x20#6 => checked ((saOf w == 0x00#5)) (.clz (rsOf w) (rtOf w) (rdOf w))
  | 0x21#6 => checked ((saOf w == 0x00#5)) (.clo (rsOf w) (rtOf w) (rdOf w))
  | _ => .error .reservedSpecial2

/-- COP0 words with bit 25 = 1, selected by the function field (R489). -/
def decodeCop0Co (w : Word) : Except DecodeError Instr :=
  match fnOf w with
  | 0x18#6 => checked ((rsOf w == 0x10#5) && (rtOf w == 0x00#5) && (rdOf w == 0x00#5) && (saOf w == 0x00#5)) (.eret)
  | 0x08#6 => checked ((rsOf w == 0x10#5) && (rtOf w == 0x00#5) && (rdOf w == 0x00#5) && (saOf w == 0x00#5)) (.tlbp)
  | 0x01#6 => checked ((rsOf w == 0x10#5) && (rtOf w == 0x00#5) && (rdOf w == 0x00#5) && (saOf w == 0x00#5)) (.tlbr)
  | 0x02#6 => checked ((rsOf w == 0x10#5) && (rtOf w == 0x00#5) && (rdOf w == 0x00#5) && (saOf w == 0x00#5)) (.tlbwi)
  | 0x06#6 => checked ((rsOf w == 0x10#5) && (rtOf w == 0x00#5) && (rdOf w == 0x00#5) && (saOf w == 0x00#5)) (.tlbwr)
  | 0x20#6 => .ok (.wait (codeOf19 w))
  | _ => .error .reservedCop0

/-- The COP0 map, selected by the rs field (R489). -/
def decodeCop0 (w : Word) : Except DecodeError Instr :=
  match rsOf w with
  | 0x00#5 => checked ((saOf w == 0x00#5) && (fnOf w &&& 0x38#6 == 0x00#6)) (.mfc0 (rtOf w) (rdOf w) ((fnOf w).extractLsb' 0 3))
  | 0x04#5 => checked ((saOf w == 0x00#5) && (fnOf w &&& 0x38#6 == 0x00#6)) (.mtc0 (rtOf w) (rdOf w) ((fnOf w).extractLsb' 0 3))
  | _ => if rsOf w &&& 0x10#5 == 0x10#5 then decodeCop0Co w else .error .reservedCop0

/-- COP1 words of format S, selected by the function field (R490). -/
def decodeCop1S (w : Word) : Except DecodeError Instr :=
  match fnOf w with
  | 0x00#6 => .ok (.addS (rtOf w) (rdOf w) (saOf w))
  | 0x01#6 => .ok (.subS (rtOf w) (rdOf w) (saOf w))
  | 0x02#6 => .ok (.mulS (rtOf w) (rdOf w) (saOf w))
  | 0x03#6 => .ok (.divS (rtOf w) (rdOf w) (saOf w))
  | 0x04#6 => checked ((rtOf w == 0x00#5)) (.sqrtS (rdOf w) (saOf w))
  | 0x05#6 => checked ((rtOf w == 0x00#5)) (.absS (rdOf w) (saOf w))
  | 0x07#6 => checked ((rtOf w == 0x00#5)) (.negS (rdOf w) (saOf w))
  | 0x06#6 => checked ((rtOf w == 0x00#5)) (.movS (rdOf w) (saOf w))
  | 0x21#6 => checked ((rtOf w == 0x00#5)) (.cvtDS (rdOf w) (saOf w))
  | 0x24#6 => checked ((rtOf w == 0x00#5)) (.cvtWS (rdOf w) (saOf w))
  | 0x0C#6 => checked ((rtOf w == 0x00#5)) (.roundWS (rdOf w) (saOf w))
  | 0x0D#6 => checked ((rtOf w == 0x00#5)) (.truncWS (rdOf w) (saOf w))
  | 0x0E#6 => checked ((rtOf w == 0x00#5)) (.ceilWS (rdOf w) (saOf w))
  | 0x0F#6 => checked ((rtOf w == 0x00#5)) (.floorWS (rdOf w) (saOf w))
  | 0x11#6 => checked (rtOf w &&& 0x02#5 == 0x00#5) (if rtOf w &&& 0x01#5 == 0x00#5 then .movfS ((rtOf w).extractLsb' 2 3) (rdOf w) (saOf w) else .movtS ((rtOf w).extractLsb' 2 3) (rdOf w) (saOf w))
  | 0x13#6 => .ok (.movnS (rtOf w) (rdOf w) (saOf w))
  | 0x12#6 => .ok (.movzS (rtOf w) (rdOf w) (saOf w))
  | 0x30#6 => checked ((saOf w &&& 0x03#5 == 0x00#5)) (.cFS (rtOf w) (rdOf w) ((saOf w).extractLsb' 2 3))
  | 0x31#6 => checked ((saOf w &&& 0x03#5 == 0x00#5)) (.cUnS (rtOf w) (rdOf w) ((saOf w).extractLsb' 2 3))
  | 0x32#6 => checked ((saOf w &&& 0x03#5 == 0x00#5)) (.cEqS (rtOf w) (rdOf w) ((saOf w).extractLsb' 2 3))
  | 0x33#6 => checked ((saOf w &&& 0x03#5 == 0x00#5)) (.cUeqS (rtOf w) (rdOf w) ((saOf w).extractLsb' 2 3))
  | 0x34#6 => checked ((saOf w &&& 0x03#5 == 0x00#5)) (.cOltS (rtOf w) (rdOf w) ((saOf w).extractLsb' 2 3))
  | 0x35#6 => checked ((saOf w &&& 0x03#5 == 0x00#5)) (.cUltS (rtOf w) (rdOf w) ((saOf w).extractLsb' 2 3))
  | 0x36#6 => checked ((saOf w &&& 0x03#5 == 0x00#5)) (.cOleS (rtOf w) (rdOf w) ((saOf w).extractLsb' 2 3))
  | 0x37#6 => checked ((saOf w &&& 0x03#5 == 0x00#5)) (.cUleS (rtOf w) (rdOf w) ((saOf w).extractLsb' 2 3))
  | 0x38#6 => checked ((saOf w &&& 0x03#5 == 0x00#5)) (.cSfS (rtOf w) (rdOf w) ((saOf w).extractLsb' 2 3))
  | 0x39#6 => checked ((saOf w &&& 0x03#5 == 0x00#5)) (.cNgleS (rtOf w) (rdOf w) ((saOf w).extractLsb' 2 3))
  | 0x3A#6 => checked ((saOf w &&& 0x03#5 == 0x00#5)) (.cSeqS (rtOf w) (rdOf w) ((saOf w).extractLsb' 2 3))
  | 0x3B#6 => checked ((saOf w &&& 0x03#5 == 0x00#5)) (.cNglS (rtOf w) (rdOf w) ((saOf w).extractLsb' 2 3))
  | 0x3C#6 => checked ((saOf w &&& 0x03#5 == 0x00#5)) (.cLtS (rtOf w) (rdOf w) ((saOf w).extractLsb' 2 3))
  | 0x3D#6 => checked ((saOf w &&& 0x03#5 == 0x00#5)) (.cNgeS (rtOf w) (rdOf w) ((saOf w).extractLsb' 2 3))
  | 0x3E#6 => checked ((saOf w &&& 0x03#5 == 0x00#5)) (.cLeS (rtOf w) (rdOf w) ((saOf w).extractLsb' 2 3))
  | 0x3F#6 => checked ((saOf w &&& 0x03#5 == 0x00#5)) (.cNgtS (rtOf w) (rdOf w) ((saOf w).extractLsb' 2 3))
  | _ => .error .reservedCop1

/-- COP1 words of format D, selected by the function field (R490). -/
def decodeCop1D (w : Word) : Except DecodeError Instr :=
  match fnOf w with
  | 0x00#6 => .ok (.addD (rtOf w) (rdOf w) (saOf w))
  | 0x01#6 => .ok (.subD (rtOf w) (rdOf w) (saOf w))
  | 0x02#6 => .ok (.mulD (rtOf w) (rdOf w) (saOf w))
  | 0x03#6 => .ok (.divD (rtOf w) (rdOf w) (saOf w))
  | 0x04#6 => checked ((rtOf w == 0x00#5)) (.sqrtD (rdOf w) (saOf w))
  | 0x05#6 => checked ((rtOf w == 0x00#5)) (.absD (rdOf w) (saOf w))
  | 0x07#6 => checked ((rtOf w == 0x00#5)) (.negD (rdOf w) (saOf w))
  | 0x06#6 => checked ((rtOf w == 0x00#5)) (.movD (rdOf w) (saOf w))
  | 0x20#6 => checked ((rtOf w == 0x00#5)) (.cvtSD (rdOf w) (saOf w))
  | 0x24#6 => checked ((rtOf w == 0x00#5)) (.cvtWD (rdOf w) (saOf w))
  | 0x0C#6 => checked ((rtOf w == 0x00#5)) (.roundWD (rdOf w) (saOf w))
  | 0x0D#6 => checked ((rtOf w == 0x00#5)) (.truncWD (rdOf w) (saOf w))
  | 0x0E#6 => checked ((rtOf w == 0x00#5)) (.ceilWD (rdOf w) (saOf w))
  | 0x0F#6 => checked ((rtOf w == 0x00#5)) (.floorWD (rdOf w) (saOf w))
  | 0x11#6 => checked (rtOf w &&& 0x02#5 == 0x00#5) (if rtOf w &&& 0x01#5 == 0x00#5 then .movfD ((rtOf w).extractLsb' 2 3) (rdOf w) (saOf w) else .movtD ((rtOf w).extractLsb' 2 3) (rdOf w) (saOf w))
  | 0x13#6 => .ok (.movnD (rtOf w) (rdOf w) (saOf w))
  | 0x12#6 => .ok (.movzD (rtOf w) (rdOf w) (saOf w))
  | 0x30#6 => checked ((saOf w &&& 0x03#5 == 0x00#5)) (.cFD (rtOf w) (rdOf w) ((saOf w).extractLsb' 2 3))
  | 0x31#6 => checked ((saOf w &&& 0x03#5 == 0x00#5)) (.cUnD (rtOf w) (rdOf w) ((saOf w).extractLsb' 2 3))
  | 0x32#6 => checked ((saOf w &&& 0x03#5 == 0x00#5)) (.cEqD (rtOf w) (rdOf w) ((saOf w).extractLsb' 2 3))
  | 0x33#6 => checked ((saOf w &&& 0x03#5 == 0x00#5)) (.cUeqD (rtOf w) (rdOf w) ((saOf w).extractLsb' 2 3))
  | 0x34#6 => checked ((saOf w &&& 0x03#5 == 0x00#5)) (.cOltD (rtOf w) (rdOf w) ((saOf w).extractLsb' 2 3))
  | 0x35#6 => checked ((saOf w &&& 0x03#5 == 0x00#5)) (.cUltD (rtOf w) (rdOf w) ((saOf w).extractLsb' 2 3))
  | 0x36#6 => checked ((saOf w &&& 0x03#5 == 0x00#5)) (.cOleD (rtOf w) (rdOf w) ((saOf w).extractLsb' 2 3))
  | 0x37#6 => checked ((saOf w &&& 0x03#5 == 0x00#5)) (.cUleD (rtOf w) (rdOf w) ((saOf w).extractLsb' 2 3))
  | 0x38#6 => checked ((saOf w &&& 0x03#5 == 0x00#5)) (.cSfD (rtOf w) (rdOf w) ((saOf w).extractLsb' 2 3))
  | 0x39#6 => checked ((saOf w &&& 0x03#5 == 0x00#5)) (.cNgleD (rtOf w) (rdOf w) ((saOf w).extractLsb' 2 3))
  | 0x3A#6 => checked ((saOf w &&& 0x03#5 == 0x00#5)) (.cSeqD (rtOf w) (rdOf w) ((saOf w).extractLsb' 2 3))
  | 0x3B#6 => checked ((saOf w &&& 0x03#5 == 0x00#5)) (.cNglD (rtOf w) (rdOf w) ((saOf w).extractLsb' 2 3))
  | 0x3C#6 => checked ((saOf w &&& 0x03#5 == 0x00#5)) (.cLtD (rtOf w) (rdOf w) ((saOf w).extractLsb' 2 3))
  | 0x3D#6 => checked ((saOf w &&& 0x03#5 == 0x00#5)) (.cNgeD (rtOf w) (rdOf w) ((saOf w).extractLsb' 2 3))
  | 0x3E#6 => checked ((saOf w &&& 0x03#5 == 0x00#5)) (.cLeD (rtOf w) (rdOf w) ((saOf w).extractLsb' 2 3))
  | 0x3F#6 => checked ((saOf w &&& 0x03#5 == 0x00#5)) (.cNgtD (rtOf w) (rdOf w) ((saOf w).extractLsb' 2 3))
  | _ => .error .reservedCop1

/-- COP1 words of format W, selected by the function field (R490). -/
def decodeCop1W (w : Word) : Except DecodeError Instr :=
  match fnOf w with
  | 0x20#6 => checked ((rtOf w == 0x00#5)) (.cvtSW (rdOf w) (saOf w))
  | 0x21#6 => checked ((rtOf w == 0x00#5)) (.cvtDW (rdOf w) (saOf w))
  | _ => .error .reservedCop1

/-- The COP1 map, selected by the rs field: moves, branches, the three formats (R490). -/
def decodeCop1 (w : Word) : Except DecodeError Instr :=
  match rsOf w with
  | 0x00#5 => checked ((saOf w == 0x00#5) && (fnOf w == 0x00#6)) (.mfc1 (rtOf w) (rdOf w))
  | 0x04#5 => checked ((saOf w == 0x00#5) && (fnOf w == 0x00#6)) (.mtc1 (rtOf w) (rdOf w))
  | 0x02#5 => checked ((saOf w == 0x00#5) && (fnOf w == 0x00#6)) (.cfc1 (rtOf w) (rdOf w))
  | 0x06#5 => checked ((saOf w == 0x00#5) && (fnOf w == 0x00#6)) (.ctc1 (rtOf w) (rdOf w))
  | 0x08#5 =>
    let cc := (rtOf w).extractLsb' 2 3
    match (rtOf w).extractLsb' 0 2 with
    | 0#2 => .ok (.bc1f cc (immOf w))
    | 1#2 => .ok (.bc1t cc (immOf w))
    | 2#2 => .ok (.bc1fl cc (immOf w))
    | _ => .ok (.bc1tl cc (immOf w))
  | 0x10#5 => decodeCop1S w
  | 0x11#5 => decodeCop1D w
  | 0x14#5 => decodeCop1W w
  | _ => .error .reservedCop1

/-- The instruction of a word, or the reason it is none (R485, R495 steps 2 and 3). -/
def decode (w : Word) : Except DecodeError Instr :=
  match opOf w with
  | 0x00#6 => decodeSpecial w
  | 0x01#6 => decodeRegimm w
  | 0x10#6 => decodeCop0 w
  | 0x11#6 => decodeCop1 w
  | 0x1C#6 => decodeSpecial2 w
  | 0x08#6 => .ok (.addi (rsOf w) (rtOf w) (immOf w))
  | 0x09#6 => .ok (.addiu (rsOf w) (rtOf w) (immOf w))
  | 0x0A#6 => .ok (.slti (rsOf w) (rtOf w) (immOf w))
  | 0x0B#6 => .ok (.sltiu (rsOf w) (rtOf w) (immOf w))
  | 0x0C#6 => .ok (.andi (rsOf w) (rtOf w) (immOf w))
  | 0x0D#6 => .ok (.ori (rsOf w) (rtOf w) (immOf w))
  | 0x0E#6 => .ok (.xori (rsOf w) (rtOf w) (immOf w))
  | 0x0F#6 => checked ((rsOf w == 0x00#5)) (.lui (rtOf w) (immOf w))
  | 0x02#6 => .ok (.j (idxOf w))
  | 0x03#6 => .ok (.jal (idxOf w))
  | 0x04#6 => .ok (.beq (rsOf w) (rtOf w) (immOf w))
  | 0x05#6 => .ok (.bne (rsOf w) (rtOf w) (immOf w))
  | 0x06#6 => checked ((rtOf w == 0x00#5)) (.blez (rsOf w) (immOf w))
  | 0x07#6 => checked ((rtOf w == 0x00#5)) (.bgtz (rsOf w) (immOf w))
  | 0x14#6 => .ok (.beql (rsOf w) (rtOf w) (immOf w))
  | 0x15#6 => .ok (.bnel (rsOf w) (rtOf w) (immOf w))
  | 0x16#6 => checked ((rtOf w == 0x00#5)) (.blezl (rsOf w) (immOf w))
  | 0x17#6 => checked ((rtOf w == 0x00#5)) (.bgtzl (rsOf w) (immOf w))
  | 0x20#6 => .ok (.lb (rsOf w) (rtOf w) (immOf w))
  | 0x24#6 => .ok (.lbu (rsOf w) (rtOf w) (immOf w))
  | 0x21#6 => .ok (.lh (rsOf w) (rtOf w) (immOf w))
  | 0x25#6 => .ok (.lhu (rsOf w) (rtOf w) (immOf w))
  | 0x23#6 => .ok (.lw (rsOf w) (rtOf w) (immOf w))
  | 0x22#6 => .ok (.lwl (rsOf w) (rtOf w) (immOf w))
  | 0x26#6 => .ok (.lwr (rsOf w) (rtOf w) (immOf w))
  | 0x28#6 => .ok (.sb (rsOf w) (rtOf w) (immOf w))
  | 0x29#6 => .ok (.sh (rsOf w) (rtOf w) (immOf w))
  | 0x2B#6 => .ok (.sw (rsOf w) (rtOf w) (immOf w))
  | 0x2A#6 => .ok (.swl (rsOf w) (rtOf w) (immOf w))
  | 0x2E#6 => .ok (.swr (rsOf w) (rtOf w) (immOf w))
  | 0x30#6 => .ok (.ll (rsOf w) (rtOf w) (immOf w))
  | 0x38#6 => .ok (.sc (rsOf w) (rtOf w) (immOf w))
  | 0x33#6 => .ok (.pref (rsOf w) (rtOf w) (immOf w))
  | 0x2F#6 => .ok (.cache (rsOf w) (rtOf w) (immOf w))
  | 0x31#6 => .ok (.lwc1 (rsOf w) (rtOf w) (immOf w))
  | 0x39#6 => .ok (.swc1 (rsOf w) (rtOf w) (immOf w))
  | 0x35#6 => .ok (.ldc1 (rsOf w) (rtOf w) (immOf w))
  | 0x3D#6 => .ok (.sdc1 (rsOf w) (rtOf w) (immOf w))
  | 0x12#6 => .error .coprocessorTwo
  | 0x32#6 => .error .coprocessorTwo
  | 0x36#6 => .error .coprocessorTwo
  | 0x3A#6 => .error .coprocessorTwo
  | 0x3E#6 => .error .coprocessorTwo
  | 0x13#6 => .error .coprocessorThree
  | _ => .error .reservedOpcode

/-- A word from the six fields of the R format (R483). -/
def packR (op : BitVec 6) (rs rt rd sa : BitVec 5) (fn : BitVec 6) : Word :=
  op ++ rs ++ rt ++ rd ++ sa ++ fn
/-- A word from the four fields of the I format (R483). -/
def packI (op : BitVec 6) (rs rt : BitVec 5) (imm : BitVec 16) : Word :=
  op ++ rs ++ rt ++ imm
/-- A word from the two fields of the J format (R483). -/
def packJ (op : BitVec 6) (idx : BitVec 26) : Word := op ++ idx

/-- The word of an instruction (R485 to R490; fields that must be zero are zero, R496). -/
def encode : Instr → Word
  | .add rs rt rd => packR 0x00#6 rs rt rd 0x00#5 0x20#6
  | .addi rs rt imm => packI 0x08#6 rs rt imm
  | .addiu rs rt imm => packI 0x09#6 rs rt imm
  | .addu rs rt rd => packR 0x00#6 rs rt rd 0x00#5 0x21#6
  | .sub rs rt rd => packR 0x00#6 rs rt rd 0x00#5 0x22#6
  | .subu rs rt rd => packR 0x00#6 rs rt rd 0x00#5 0x23#6
  | .slt rs rt rd => packR 0x00#6 rs rt rd 0x00#5 0x2A#6
  | .slti rs rt imm => packI 0x0A#6 rs rt imm
  | .sltiu rs rt imm => packI 0x0B#6 rs rt imm
  | .sltu rs rt rd => packR 0x00#6 rs rt rd 0x00#5 0x2B#6
  | .andr rs rt rd => packR 0x00#6 rs rt rd 0x00#5 0x24#6
  | .andi rs rt imm => packI 0x0C#6 rs rt imm
  | .orr rs rt rd => packR 0x00#6 rs rt rd 0x00#5 0x25#6
  | .ori rs rt imm => packI 0x0D#6 rs rt imm
  | .xorr rs rt rd => packR 0x00#6 rs rt rd 0x00#5 0x26#6
  | .xori rs rt imm => packI 0x0E#6 rs rt imm
  | .norr rs rt rd => packR 0x00#6 rs rt rd 0x00#5 0x27#6
  | .lui rt imm => packI 0x0F#6 0x00#5 rt imm
  | .sll rt rd sa => packR 0x00#6 0x00#5 rt rd sa 0x00#6
  | .srl rt rd sa => packR 0x00#6 0x00#5 rt rd sa 0x02#6
  | .sra rt rd sa => packR 0x00#6 0x00#5 rt rd sa 0x03#6
  | .sllv rs rt rd => packR 0x00#6 rs rt rd 0x00#5 0x04#6
  | .srlv rs rt rd => packR 0x00#6 rs rt rd 0x00#5 0x06#6
  | .srav rs rt rd => packR 0x00#6 rs rt rd 0x00#5 0x07#6
  | .mult rs rt => packR 0x00#6 rs rt 0x00#5 0x00#5 0x18#6
  | .multu rs rt => packR 0x00#6 rs rt 0x00#5 0x00#5 0x19#6
  | .mul rs rt rd => packR 0x1C#6 rs rt rd 0x00#5 0x02#6
  | .madd rs rt => packR 0x1C#6 rs rt 0x00#5 0x00#5 0x00#6
  | .maddu rs rt => packR 0x1C#6 rs rt 0x00#5 0x00#5 0x01#6
  | .msub rs rt => packR 0x1C#6 rs rt 0x00#5 0x00#5 0x04#6
  | .msubu rs rt => packR 0x1C#6 rs rt 0x00#5 0x00#5 0x05#6
  | .div rs rt => packR 0x00#6 rs rt 0x00#5 0x00#5 0x1A#6
  | .divu rs rt => packR 0x00#6 rs rt 0x00#5 0x00#5 0x1B#6
  | .mfhi rd => packR 0x00#6 0x00#5 0x00#5 rd 0x00#5 0x10#6
  | .mflo rd => packR 0x00#6 0x00#5 0x00#5 rd 0x00#5 0x12#6
  | .mthi rs => packR 0x00#6 rs 0x00#5 0x00#5 0x00#5 0x11#6
  | .mtlo rs => packR 0x00#6 rs 0x00#5 0x00#5 0x00#5 0x13#6
  | .clz rs rt rd => packR 0x1C#6 rs rt rd 0x00#5 0x20#6
  | .clo rs rt rd => packR 0x1C#6 rs rt rd 0x00#5 0x21#6
  | .movn rs rt rd => packR 0x00#6 rs rt rd 0x00#5 0x0B#6
  | .movz rs rt rd => packR 0x00#6 rs rt rd 0x00#5 0x0A#6
  | .movf rs cc rd => packR 0x00#6 rs (cc ++ 0#2) rd 0x00#5 0x01#6
  | .movt rs cc rd => packR 0x00#6 rs (cc ++ 1#2) rd 0x00#5 0x01#6
  | .j index => packJ 0x02#6 index
  | .jal index => packJ 0x03#6 index
  | .jr rs hint => packR 0x00#6 rs 0x00#5 0x00#5 hint 0x08#6
  | .jalr rs rd hint => packR 0x00#6 rs 0x00#5 rd hint 0x09#6
  | .beq rs rt offset => packI 0x04#6 rs rt offset
  | .bne rs rt offset => packI 0x05#6 rs rt offset
  | .blez rs offset => packI 0x06#6 rs 0x00#5 offset
  | .bgtz rs offset => packI 0x07#6 rs 0x00#5 offset
  | .bltz rs offset => packI 0x01#6 rs 0x00#5 offset
  | .bgez rs offset => packI 0x01#6 rs 0x01#5 offset
  | .bltzal rs offset => packI 0x01#6 rs 0x10#5 offset
  | .bgezal rs offset => packI 0x01#6 rs 0x11#5 offset
  | .beql rs rt offset => packI 0x14#6 rs rt offset
  | .bnel rs rt offset => packI 0x15#6 rs rt offset
  | .blezl rs offset => packI 0x16#6 rs 0x00#5 offset
  | .bgtzl rs offset => packI 0x17#6 rs 0x00#5 offset
  | .bltzl rs offset => packI 0x01#6 rs 0x02#5 offset
  | .bgezl rs offset => packI 0x01#6 rs 0x03#5 offset
  | .bltzall rs offset => packI 0x01#6 rs 0x12#5 offset
  | .bgezall rs offset => packI 0x01#6 rs 0x13#5 offset
  | .lb base rt offset => packI 0x20#6 base rt offset
  | .lbu base rt offset => packI 0x24#6 base rt offset
  | .lh base rt offset => packI 0x21#6 base rt offset
  | .lhu base rt offset => packI 0x25#6 base rt offset
  | .lw base rt offset => packI 0x23#6 base rt offset
  | .lwl base rt offset => packI 0x22#6 base rt offset
  | .lwr base rt offset => packI 0x26#6 base rt offset
  | .sb base rt offset => packI 0x28#6 base rt offset
  | .sh base rt offset => packI 0x29#6 base rt offset
  | .sw base rt offset => packI 0x2B#6 base rt offset
  | .swl base rt offset => packI 0x2A#6 base rt offset
  | .swr base rt offset => packI 0x2E#6 base rt offset
  | .ll base rt offset => packI 0x30#6 base rt offset
  | .sc base rt offset => packI 0x38#6 base rt offset
  | .pref base hint offset => packI 0x33#6 base hint offset
  | .sync stype => packR 0x00#6 0x00#5 0x00#5 0x00#5 stype 0x0F#6
  | .syscall code => packR 0x00#6 (code.extractLsb' 15 5) (code.extractLsb' 10 5) (code.extractLsb' 5 5) (code.extractLsb' 0 5) 0x0C#6
  | .brk code => packR 0x00#6 (code.extractLsb' 15 5) (code.extractLsb' 10 5) (code.extractLsb' 5 5) (code.extractLsb' 0 5) 0x0D#6
  | .teq rs rt code => packR 0x00#6 rs rt (code.extractLsb' 5 5) (code.extractLsb' 0 5) 0x34#6
  | .tne rs rt code => packR 0x00#6 rs rt (code.extractLsb' 5 5) (code.extractLsb' 0 5) 0x36#6
  | .tge rs rt code => packR 0x00#6 rs rt (code.extractLsb' 5 5) (code.extractLsb' 0 5) 0x30#6
  | .tgeu rs rt code => packR 0x00#6 rs rt (code.extractLsb' 5 5) (code.extractLsb' 0 5) 0x31#6
  | .tlt rs rt code => packR 0x00#6 rs rt (code.extractLsb' 5 5) (code.extractLsb' 0 5) 0x32#6
  | .tltu rs rt code => packR 0x00#6 rs rt (code.extractLsb' 5 5) (code.extractLsb' 0 5) 0x33#6
  | .teqi rs imm => packI 0x01#6 rs 0x0C#5 imm
  | .tnei rs imm => packI 0x01#6 rs 0x0E#5 imm
  | .tgei rs imm => packI 0x01#6 rs 0x08#5 imm
  | .tgeiu rs imm => packI 0x01#6 rs 0x09#5 imm
  | .tlti rs imm => packI 0x01#6 rs 0x0A#5 imm
  | .tltiu rs imm => packI 0x01#6 rs 0x0B#5 imm
  | .mfc0 rt rd sel => packR 0x10#6 0x00#5 rt rd 0x00#5 (0#3 ++ sel)
  | .eret => packR 0x10#6 0x10#5 0x00#5 0x00#5 0x00#5 0x18#6
  | .mtc0 rt rd sel => packR 0x10#6 0x04#5 rt rd 0x00#5 (0#3 ++ sel)
  | .tlbp => packR 0x10#6 0x10#5 0x00#5 0x00#5 0x00#5 0x08#6
  | .tlbr => packR 0x10#6 0x10#5 0x00#5 0x00#5 0x00#5 0x01#6
  | .tlbwi => packR 0x10#6 0x10#5 0x00#5 0x00#5 0x00#5 0x02#6
  | .tlbwr => packR 0x10#6 0x10#5 0x00#5 0x00#5 0x00#5 0x06#6
  | .cache base op offset => packI 0x2F#6 base op offset
  | .wait code => packR 0x10#6 (1#1 ++ (code.extractLsb' 15 4)) (code.extractLsb' 10 5) (code.extractLsb' 5 5) (code.extractLsb' 0 5) 0x20#6
  | .addS ft fs fd => packR 0x11#6 0x10#5 ft fs fd 0x00#6
  | .addD ft fs fd => packR 0x11#6 0x11#5 ft fs fd 0x00#6
  | .subS ft fs fd => packR 0x11#6 0x10#5 ft fs fd 0x01#6
  | .subD ft fs fd => packR 0x11#6 0x11#5 ft fs fd 0x01#6
  | .mulS ft fs fd => packR 0x11#6 0x10#5 ft fs fd 0x02#6
  | .mulD ft fs fd => packR 0x11#6 0x11#5 ft fs fd 0x02#6
  | .divS ft fs fd => packR 0x11#6 0x10#5 ft fs fd 0x03#6
  | .divD ft fs fd => packR 0x11#6 0x11#5 ft fs fd 0x03#6
  | .sqrtS fs fd => packR 0x11#6 0x10#5 0x00#5 fs fd 0x04#6
  | .sqrtD fs fd => packR 0x11#6 0x11#5 0x00#5 fs fd 0x04#6
  | .absS fs fd => packR 0x11#6 0x10#5 0x00#5 fs fd 0x05#6
  | .absD fs fd => packR 0x11#6 0x11#5 0x00#5 fs fd 0x05#6
  | .negS fs fd => packR 0x11#6 0x10#5 0x00#5 fs fd 0x07#6
  | .negD fs fd => packR 0x11#6 0x11#5 0x00#5 fs fd 0x07#6
  | .movS fs fd => packR 0x11#6 0x10#5 0x00#5 fs fd 0x06#6
  | .movD fs fd => packR 0x11#6 0x11#5 0x00#5 fs fd 0x06#6
  | .cvtSD fs fd => packR 0x11#6 0x11#5 0x00#5 fs fd 0x20#6
  | .cvtSW fs fd => packR 0x11#6 0x14#5 0x00#5 fs fd 0x20#6
  | .cvtDS fs fd => packR 0x11#6 0x10#5 0x00#5 fs fd 0x21#6
  | .cvtDW fs fd => packR 0x11#6 0x14#5 0x00#5 fs fd 0x21#6
  | .cvtWS fs fd => packR 0x11#6 0x10#5 0x00#5 fs fd 0x24#6
  | .cvtWD fs fd => packR 0x11#6 0x11#5 0x00#5 fs fd 0x24#6
  | .roundWS fs fd => packR 0x11#6 0x10#5 0x00#5 fs fd 0x0C#6
  | .roundWD fs fd => packR 0x11#6 0x11#5 0x00#5 fs fd 0x0C#6
  | .truncWS fs fd => packR 0x11#6 0x10#5 0x00#5 fs fd 0x0D#6
  | .truncWD fs fd => packR 0x11#6 0x11#5 0x00#5 fs fd 0x0D#6
  | .ceilWS fs fd => packR 0x11#6 0x10#5 0x00#5 fs fd 0x0E#6
  | .ceilWD fs fd => packR 0x11#6 0x11#5 0x00#5 fs fd 0x0E#6
  | .floorWS fs fd => packR 0x11#6 0x10#5 0x00#5 fs fd 0x0F#6
  | .floorWD fs fd => packR 0x11#6 0x11#5 0x00#5 fs fd 0x0F#6
  | .mfc1 rt fs => packR 0x11#6 0x00#5 rt fs 0x00#5 0x00#6
  | .mtc1 rt fs => packR 0x11#6 0x04#5 rt fs 0x00#5 0x00#6
  | .cfc1 rt fs => packR 0x11#6 0x02#5 rt fs 0x00#5 0x00#6
  | .ctc1 rt fs => packR 0x11#6 0x06#5 rt fs 0x00#5 0x00#6
  | .lwc1 base ft offset => packI 0x31#6 base ft offset
  | .swc1 base ft offset => packI 0x39#6 base ft offset
  | .ldc1 base ft offset => packI 0x35#6 base ft offset
  | .sdc1 base ft offset => packI 0x3D#6 base ft offset
  | .movfS cc fs fd => packR 0x11#6 0x10#5 (cc ++ 0#2) fs fd 0x11#6
  | .movfD cc fs fd => packR 0x11#6 0x11#5 (cc ++ 0#2) fs fd 0x11#6
  | .movtS cc fs fd => packR 0x11#6 0x10#5 (cc ++ 1#2) fs fd 0x11#6
  | .movtD cc fs fd => packR 0x11#6 0x11#5 (cc ++ 1#2) fs fd 0x11#6
  | .movnS rt fs fd => packR 0x11#6 0x10#5 rt fs fd 0x13#6
  | .movnD rt fs fd => packR 0x11#6 0x11#5 rt fs fd 0x13#6
  | .movzS rt fs fd => packR 0x11#6 0x10#5 rt fs fd 0x12#6
  | .movzD rt fs fd => packR 0x11#6 0x11#5 rt fs fd 0x12#6
  | .bc1f cc offset => packI 0x11#6 0x08#5 (cc ++ 0#2) offset
  | .bc1t cc offset => packI 0x11#6 0x08#5 (cc ++ 1#2) offset
  | .bc1fl cc offset => packI 0x11#6 0x08#5 (cc ++ 2#2) offset
  | .bc1tl cc offset => packI 0x11#6 0x08#5 (cc ++ 3#2) offset
  | .cFS ft fs cc => packR 0x11#6 0x10#5 ft fs (cc ++ 0#2) 0x30#6
  | .cFD ft fs cc => packR 0x11#6 0x11#5 ft fs (cc ++ 0#2) 0x30#6
  | .cUnS ft fs cc => packR 0x11#6 0x10#5 ft fs (cc ++ 0#2) 0x31#6
  | .cUnD ft fs cc => packR 0x11#6 0x11#5 ft fs (cc ++ 0#2) 0x31#6
  | .cEqS ft fs cc => packR 0x11#6 0x10#5 ft fs (cc ++ 0#2) 0x32#6
  | .cEqD ft fs cc => packR 0x11#6 0x11#5 ft fs (cc ++ 0#2) 0x32#6
  | .cUeqS ft fs cc => packR 0x11#6 0x10#5 ft fs (cc ++ 0#2) 0x33#6
  | .cUeqD ft fs cc => packR 0x11#6 0x11#5 ft fs (cc ++ 0#2) 0x33#6
  | .cOltS ft fs cc => packR 0x11#6 0x10#5 ft fs (cc ++ 0#2) 0x34#6
  | .cOltD ft fs cc => packR 0x11#6 0x11#5 ft fs (cc ++ 0#2) 0x34#6
  | .cUltS ft fs cc => packR 0x11#6 0x10#5 ft fs (cc ++ 0#2) 0x35#6
  | .cUltD ft fs cc => packR 0x11#6 0x11#5 ft fs (cc ++ 0#2) 0x35#6
  | .cOleS ft fs cc => packR 0x11#6 0x10#5 ft fs (cc ++ 0#2) 0x36#6
  | .cOleD ft fs cc => packR 0x11#6 0x11#5 ft fs (cc ++ 0#2) 0x36#6
  | .cUleS ft fs cc => packR 0x11#6 0x10#5 ft fs (cc ++ 0#2) 0x37#6
  | .cUleD ft fs cc => packR 0x11#6 0x11#5 ft fs (cc ++ 0#2) 0x37#6
  | .cSfS ft fs cc => packR 0x11#6 0x10#5 ft fs (cc ++ 0#2) 0x38#6
  | .cSfD ft fs cc => packR 0x11#6 0x11#5 ft fs (cc ++ 0#2) 0x38#6
  | .cNgleS ft fs cc => packR 0x11#6 0x10#5 ft fs (cc ++ 0#2) 0x39#6
  | .cNgleD ft fs cc => packR 0x11#6 0x11#5 ft fs (cc ++ 0#2) 0x39#6
  | .cSeqS ft fs cc => packR 0x11#6 0x10#5 ft fs (cc ++ 0#2) 0x3A#6
  | .cSeqD ft fs cc => packR 0x11#6 0x11#5 ft fs (cc ++ 0#2) 0x3A#6
  | .cNglS ft fs cc => packR 0x11#6 0x10#5 ft fs (cc ++ 0#2) 0x3B#6
  | .cNglD ft fs cc => packR 0x11#6 0x11#5 ft fs (cc ++ 0#2) 0x3B#6
  | .cLtS ft fs cc => packR 0x11#6 0x10#5 ft fs (cc ++ 0#2) 0x3C#6
  | .cLtD ft fs cc => packR 0x11#6 0x11#5 ft fs (cc ++ 0#2) 0x3C#6
  | .cNgeS ft fs cc => packR 0x11#6 0x10#5 ft fs (cc ++ 0#2) 0x3D#6
  | .cNgeD ft fs cc => packR 0x11#6 0x11#5 ft fs (cc ++ 0#2) 0x3D#6
  | .cLeS ft fs cc => packR 0x11#6 0x10#5 ft fs (cc ++ 0#2) 0x3E#6
  | .cLeD ft fs cc => packR 0x11#6 0x11#5 ft fs (cc ++ 0#2) 0x3E#6
  | .cNgtS ft fs cc => packR 0x11#6 0x10#5 ft fs (cc ++ 0#2) 0x3F#6
  | .cNgtD ft fs cc => packR 0x11#6 0x11#5 ft fs (cc ++ 0#2) 0x3F#6

/-- Little-endian bytes of a word (R400). -/
def wordBytes (w : Word) : List Byte :=
  [w.extractLsb' 0 8, w.extractLsb' 8 8, w.extractLsb' 16 8, w.extractLsb' 24 8]

/-- The word of four bytes, the first at the lowest address (R400). -/
def bytesWord (b0 b1 b2 b3 : Byte) : Word := b3 ++ b2 ++ b1 ++ b0

/-- The instruction at the head of a byte sequence, and the bytes after it. -/
def decodeBytes : List Byte → Except DecodeError (Instr × List Byte)
  | b0 :: b1 :: b2 :: b3 :: rest =>
    match decode (bytesWord b0 b1 b2 b3) with
    | .ok i => .ok (i, rest)
    | .error e => .error e
  | _ => .error .truncated

/-- The bytes of an instruction as memory holds them. -/
def encodeBytes (i : Instr) : List Byte := wordBytes (encode i)

/-- The instruction word of `nbits` bits `w`, the bits above them zero. -/
def tableWord (nbits w : Nat) : Word := BitVec.ofNat 32 (w % 2 ^ nbits)

/-- What the decoder reads from an instruction of the opcode table laid out in memory. -/
def decodeTableWord (nbits w : Nat) : Option Instr :=
  match decodeBytes (wordBytes (tableWord nbits w)) with
  | .ok (i, _) => some i
  | .error _ => none

end Sys2Proof
end

