-- ==== Sys2Proof/Config.lean ====
section
/-! DEFINITION. Config: the free values of the model (log 11) and the data types of the parameters that spec R9 leaves to
the user of the model. A free value is an opaque constant applied to the counter State.freeCtr: nothing fixes it. -/

namespace Sys2Proof

/-- The n-th free word: an "any value" of 93_implementation_defined.md (log 11). -/
opaque Config.freeWord : Nat → Word
/-- The n-th free bit (log 11). -/
opaque Config.freeBit : Nat → Bool
/-- Is AC1 the high half of the accumulator pair of MAC and MACL (R105; log 25)? -/
opaque Config.dspHighIsAc1 : Bool
/-- Are the products of MAC and MACL fractions, doubled before they are added (R853; log 25)? -/
opaque Config.dspFraction : Bool
/-- Do PC-relative DSP targets count from the next instruction (R882; log 25)? -/
opaque Config.dspRelNext : Bool
/-- By how much the pipeline has advanced Random before its n-th use (R29, D17; log 19). -/
opaque Config.pipelineAdvances : Nat → Nat

/-- Does a character of the loop that finds no room wait for a further one to start, as R309 says, or make its receive move at once, as
R1171 says (log 32)? By the CLK tick of its end. -/
opaque Config.uartWaits : Nat → Bool

/-- `hazard_profile` (R1230). -/
inductive HazardProfile where
  | strict
  | architectural
  deriving DecidableEq, Repr

/-- `nan_encoding` (R754): which value of the fraction's top bit is a signalling NaN. -/
inductive NanEncoding where
  | legacy
  | ieee2008
  deriving DecidableEq, Repr

/-- `fpu_denormal_result` (R756). -/
inductive DenormalResult where
  | unimplemented
  | ieee
  deriving DecidableEq, Repr

/-- `fpu_denormal_operand` (R756, U61). -/
inductive DenormalOperand where
  | unimplemented
  | ieee
  | flush
  deriving DecidableEq, Repr

/-- What stands behind an external address (`ext_mem`, R416, R1153). -/
inductive ExtKind where
  /-- stores change it -/
  | ram
  /-- stores are discarded -/
  | rom
  /-- loads are unspecified, stores are discarded; it never drives ACK (R1215) -/
  | absent
  /-- a memory that never drives ACK -/
  | noAck
  deriving DecidableEq, Repr

/-- A range of external physical addresses, both ends included. -/
structure ExtRegion where
  first : Nat
  last : Nat
  kind : ExtKind
  deriving DecidableEq, Repr

/-- The open parameters of R9 that are constant during a run. External addresses in no region are RAM (log 22). -/
structure Params where
  hazardProfile : HazardProfile
  nanEncoding : NanEncoding
  denormalResult : DenormalResult
  denormalOperand : DenormalOperand
  /-- `BYTE_pin`: 1 = the nCS[3] block is 8 bits wide. -/
  bytePin : Bool
  /-- `PLL_EN_pin`. -/
  pllEnPin : Bool
  /-- A sixteenth of f_XTI, in the unit of fRtc (R182, R1051). -/
  fXti : Nat
  /-- f_RTCXTI; 0 is a clock that stands still. -/
  fRtc : Nat
  /-- f_XTI2, the clock of the transmit PLLs of the SpaceWire controllers, in the unit of fRtc (R320, R326). -/
  fXti2 : Nat
  extMap : List ExtRegion
  /-- Which controller guards CRAM: false, CRAMA the accesses of the CPU and CRAMB those of DMA (R280); true, CRAMA the lower half and
  CRAMB the upper one (R412). The two rules disagree (DESIGN CHOICE, log 23). -/
  cramHalves : Bool
  deriving DecidableEq, Repr

/-- The parameters after reset: the spec's defaults where it names them (R754, R756, R1230), else log 10, 18, 22. -/
def Params.default : Params :=
  { hazardProfile := .strict, nanEncoding := .legacy, denormalResult := .unimplemented,
    denormalOperand := .unimplemented, bytePin := false, pllEnPin := true, fXti := 7, fRtc := 16, fXti2 := 28, extMap := [],
    cramHalves := false }

end Sys2Proof
end

