-- ==== Sys2Proof/Machine/State.lean ====
section
/-! DEFINITION. State: every piece of state the spec gives the machine, as plain data, the reasons a step can stop, and the
state after reset (spec R1200 to R1206). INVENTORY.md lists the rule of each field. -/

namespace Sys2Proof.Machine

open Sys2Proof

/-! ## Reasons to stop -/

/-- The machine is in a configuration whose behaviour the spec leaves undefined and treats as `refuse`
(93_implementation_defined.md, log 26). Every one is safe: the model stops where the hardware does something unknown. -/
inductive Fault where
  /-- U4, R33: a TLB search met a PageMask value outside the seven. Raised by address translation and TLBP. Safe. -/
  | illegalPageMask
  /-- U6, R39: Status.ERL = 1 while executing from useg/kuseg. Raised by the fetch. Safe. -/
  | errorLevelInKuseg
  /-- U41, R241: two enabled chip-select windows match an external address. Raised by any external access. Safe. -/
  | chipSelectOverlap
  /-- U44, U35, R283: a memory is accessed through a Hamming controller in mode 11. Safe. -/
  | eccModeReserved
  /-- U46, R246: an SDRAM block is accessed with a page-size code 101 to 111. Safe. -/
  | sdramPageSizeReserved
  /-- U48, R187: a cached fetch while CSR.TST_CACHE = 1. Safe. -/
  | cacheTestMode
  /-- U52, R352: an MFBSP port moves or is accessed as a data port with LEN = 1 and SPI_I2S_EN = 1. Safe. -/
  | mfbspModeClash
  /-- U62, R1121: a DMA channel with EN64 = 1 between memories that allow no 64-bit exchange. Safe. -/
  | dmaWidthPair
  /-- U62, R1130: a store to CP with bit 0 = 1 while the channel is moving data. Safe. -/
  | dmaRestartWhileMoving
  /-- U64, R1177: a transmit descriptor of type 00 or 11 or with bit 31 = 0. Safe. -/
  | swicDescriptor
  /-- U30, R866: a scaled DSP operation with PDNR.SC = 3. Safe. -/
  | dspScaleReserved
  /-- U32, R851: the DSP executes at a PC above 0x0FFF. Safe. -/
  | dspPcRange
  /-- U33, R127: the integral flags are needed in SIMD mode with SR.SRSI = 11. Safe. -/
  | dspSrsiReserved
  /-- U36, R875: an address register is updated with a reserved modifier or a step above the modulus. Safe. -/
  | dspModifierReserved
  deriving DecidableEq, Repr

/-- The instruction stream is outside the model: the spec refuses it (log 26). -/
inductive Refusal where
  /-- The instruction has no meaning yet. Safe. -/
  | notModelled (mnemonic : String)
  /-- U58, R604(a): a jump, branch, ERET or WAIT in a delay slot. Raised by those instructions. Safe. -/
  | controlInDelaySlot
  /-- U58, R604(b): an and-link instruction whose link register is its source. Safe. -/
  | linkIsSource
  /-- U7, R753: an odd register number in an FPU arithmetic, conversion, compare or move, LDC1 or SDC1. Safe. -/
  | oddFpr
  /-- D22, R146: a sub-word store into the DSP range. Raised by stores. Safe. -/
  | dspSubWordStore
  /-- R1231, `strict` only: a delay slot that holds no NOP. Raised by the step. Safe. -/
  | hazardDelaySlot
  /-- R1232, `strict` only: the instruction after a load reads the loaded register. Raised by the step. Safe. -/
  | hazardLoadUse
  /-- R1233, `strict` only: a load directly after a store. Raised by the step. Safe. -/
  | hazardStoreLoad
  /-- R1236, `strict` only: an instruction that depends on a CP0 write of the last three. Raised by the step. Safe. -/
  | hazardCp0
  /-- R1237, `strict` only: an interrupt handler that accesses memory or transfers control before it has flushed the instruction
  cache and loaded CSR back. Raised by the step. Safe. -/
  | hazardFlush
  /-- R1186, R1238: no NOP behind the store that stopped the core clock. Raised when the clock comes on again. Safe. -/
  | clockOffNoNop
  deriving DecidableEq, Repr

/-- The outcome of one step or one instruction. -/
abbrev Outcome := Host.Outcome
/-- A cell of memory. -/
abbrev Cell := Host.Cell

/-! ## The CPU -/

/-- The sequencing state `slot` (R70, R600). -/
inductive Slot where
  | none
  /-- the instruction at PC is the delay slot of a taken branch or jump to the target -/
  | taken (target : Word)
  /-- the instruction at PC is the delay slot of a branch that was not taken -/
  | fall
  deriving DecidableEq, Repr

/-- CP0 (R25 to R46). Random and Wired hold their four bits, Config its three writable fields, LLAddr its 28 bits. -/
structure Cp0 where
  index : Word
  random : BitVec 4
  entryLo0 : Word
  entryLo1 : Word
  context : Word
  pageMask : Word
  wired : BitVec 4
  badVAddr : Word
  count : Word
  entryHi : Word
  compare : Word
  status : Word
  /-- The stored bits of Cause: BD, IV, IP[1:0], ID, ExcCode (R40). -/
  cause : Word
  epc : Word
  k23 : BitVec 3
  ku : BitVec 3
  k0 : BitVec 3
  llAddr : BitVec 28
  errorEpc : Word
  /-- The Count/Compare latch, Cause.IP[7] (R1066). -/
  timerLatch : Bool
  deriving DecidableEq, Repr

/-- One page of a TLB entry (R65). -/
structure TlbPage where
  pfn : BitVec 20
  c : BitVec 3
  d : Bool
  v : Bool
  deriving DecidableEq, Repr

/-- A TLB entry with its hidden initialisation bit (R65, R66). -/
structure TlbEntry where
  init : Bool
  mask : BitVec 12
  vpn2 : BitVec 19
  g : Bool
  asid : BitVec 8
  page0 : TlbPage
  page1 : TlbPage
  deriving DecidableEq, Repr

/-- A line of the instruction cache (R67) with the check-bit block of its four words (R283); lines not listed in the state
are invalid with zero tag, data and check bits. -/
structure CacheLine where
  line : Nat
  valid : Bool
  tag : BitVec 18
  d0 : Word
  d1 : Word
  d2 : Word
  d3 : Word
  h0 : BitVec 7
  h1 : BitVec 7
  h2 : BitVec 7
  h3 : BitVec 7
  deriving DecidableEq, Repr

/-- What a recent CP0 write changed, for the window of R1236 under `strict` (log 17). -/
inductive Cp0Write where
  | tlb
  | entryHi
  | status (old : Word)
  | cause (old : Word)
  /-- a write to Compare, or one to Count while no timer interrupt stood -/
  | compare
  | config
  | reg (n : BitVec 5)
  deriving DecidableEq, Repr

/-- What an interrupt handler still owes to R1237: nothing, the store to CSR with FLUSH = 1, or its loading back. -/
inductive FlushDuty where
  | none
  | store
  | load
  deriving DecidableEq, Repr

/-- What the previous instructions did, for R1231 to R1237 under `strict` (log 17). -/
structure HazardTrack where
  loadedGpr : Option (BitVec 5)
  loadedFpr : List (BitVec 5)
  stored : Bool
  cp0Writes : List (Cp0Write × Nat)
  flush : FlushDuty
  /-- the duties of handlers that another entry has interrupted, with the PC to which they return -/
  owed : List (Word × FlushDuty)
  deriving DecidableEq, Repr

/-! ## Memory faults and Hamming controllers -/

/-- An injected error in a memory word (`ecc_faults`, R284): the code of R285 and the bits of the data it flips. -/
structure EccFault where
  addr : Nat
  code : BitVec 2
  flips : Word
  deriving DecidableEq, Repr

/-- An injected error in the instruction cache: the word index PC[13:2], the flipped data bits and the codes of R286. -/
structure CacheFault where
  index : BitVec 12
  flips : Word
  dataCode : BitVec 2
  tagCode : BitVec 2
  deriving DecidableEq, Repr

/-- A Hamming controller (R281, R282, R151): its control word without NEMPTY, and its error FIFO, oldest first. -/
structure EccCtl where
  csr : Word
  fifo : List Word
  deriving DecidableEq, Repr

/-- The Hamming controllers of the chip (R280, R150). -/
structure Ecc where
  cramA : EccCtl
  cramB : EccCtl
  icache : EccCtl
  ext : EccCtl
  /-- He, Hx0, Hx1, Hy0, Hy1, Hp0, Hp1. -/
  dsp : Vector EccCtl 7
  faults : List EccFault
  cacheFaults : List CacheFault
  deriving DecidableEq, Repr

/-! ## System registers, timers, memory port -/

/-- Clock control, CSR, interrupt controller and pins (R182 to R196, R1052). -/
structure Sys where
  crPll : Word
  clkEn : Word
  coreClockOn : Bool
  csr : Word
  maskr : Vector Word 4
  irqMode : BitVec 4
  irqLatch : BitVec 4
  /-- levels of pins nIRQ[3:0] -/
  nIrq : BitVec 4
  /-- levels of pins nDMAR[3:0] -/
  nDmar : BitVec 4
  /-- level of pin NMI -/
  nmiPin : Bool
  deriving DecidableEq, Repr

/-- Interval timer (R200 to R202). -/
structure ItTimer where
  en : Bool
  int : Bool
  period : Word
  count : Word
  scale : Byte
  scount : Byte
  deriving DecidableEq, Repr

/-- Real-time timer with its write buffer (R205 to R207). -/
structure RtTimer where
  en : Bool
  int : Bool
  period : Word
  count : Word
  pending : Option Word
  deriving DecidableEq, Repr

/-- Watchdog timer (R210 to R213). -/
structure WdTimer where
  key : Byte
  en : Bool
  int : Bool
  mode : Bool
  rld : Bool
  intCtr : BitVec 2
  period : Word
  count : Word
  scale : Byte
  scount : Byte
  key1 : Bool
  timeout : Bool
  deriving DecidableEq, Repr

/-- External memory port (R240 to R249). -/
structure Mport where
  /-- CSCON0 to CSCON4; bit 24 of CSCON3 follows the pin BYTE and is not stored -/
  cscon : Vector Word 5
  flyWs : Word
  /-- SDRCON with CL_written in bits 6:4 -/
  sdrcon : Word
  clInstalled : BitVec 3
  sdrtmr : Word
  sdrFlags : BitVec 5
  sdrBusy : Bool
  sdrCmd : BitVec 5
  /-- INIT has completed (R1151) -/
  sdrReady : Bool
  /-- CPU steps until SDRAM may be touched after a store of EXIT, that of the store included (R1238) -/
  sdrWait : Nat
  /-- the bytes of SDRAM written since its data were last lost, each with value 1; 2^32 above the address of a word stands its
  check bits (R1151, log 22) -/
  sdrHeld : List Cell
  /-- the bytes that SDRAM has lost, in the same form: through any chip select they hold no known value (R1206, R1150) -/
  sdrLost : List Cell
  deriving DecidableEq, Repr

/-- A DMA channel (R220 to R230). Port channels use ir0 as IR and neither ir1, offsets nor y. burstLeft counts the words a
burst still has to move and outward is its direction, memory to port (R1051); loadPending marks a parameter block to load
(R1111), midBlock a block of which words have moved, whose row length wcxBuf holds (R1123). -/
structure DmaChannel where
  csr : Word
  cp : Word
  ir0 : Word
  ir1 : Word
  offsets : Word
  y : Word
  wcxBuf : Half
  midBlock : Bool
  dmarEdge : Bool
  burstPending : Bool
  stopPending : Bool
  outward : Bool
  burstLeft : Nat
  /-- a store has turned the burst under way towards a slave that another one holds (R1055, log 13) -/
  turned : Bool
  loadPending : Bool
  deriving DecidableEq, Repr

/-- The DMA controller: channels SWIC0 0 to 3, SWIC1 4 to 7, MFBSP 8 to 11, MEM 12 to 15 (R220), the rotation order of each
class (R1110) and the Flyby devices (R1126). -/
structure Dma where
  channels : Vector DmaChannel 16
  order : Vector (List (BitVec 2)) 4
  flyIn : Vector (List Word) 4
  flyOut : Vector (List Word) 4
  deriving DecidableEq, Repr

/-! ## Serial ports -/

/-- A received character with its error flags (R302). -/
structure UartChar where
  data : Byte
  pe : Bool
  fe : Bool
  bi : Bool
  deriving DecidableEq, Repr

/-- The receiver shift register (R302): whether a character is coming in, whether a whole one waits in it, and the last one. -/
structure UartShift where
  busy : Bool
  full : Bool
  last : UartChar
  deriving DecidableEq, Repr

/-- A character sent: tick of its end, line format and divisor in force, and whether the line was held in break; or the
beginning of a break, with data 0 (R302, R1170). -/
structure UartSent where
  time : Nat
  data : Byte
  lcr : Byte
  divisor : Half
  brk : Bool
  deriving DecidableEq, Repr

/-- The UART (R300 to R312). In character mode THR is the transmit FIFO with at most one entry, and RBR the head of the receive
FIFO while rdr, LSR.RDR of that mode, is set; rbr holds the last value read. -/
structure Uart where
  ier : BitVec 4
  fewo : Bool
  rftl : BitVec 2
  lcr : Byte
  loop : Bool
  dll : Byte
  dlm : Byte
  sclr : Byte
  spr : Byte
  rbr : Byte
  rdr : Bool
  rxSr : UartShift
  oe : Bool
  /-- the overrun still raises RLSI: no load of LSR and no reset of the receive FIFO has come since (R306) -/
  oeInt : Bool
  pe : Bool
  fe : Bool
  bi : Bool
  rxFifo : List UartChar
  txFifo : List Byte
  /-- the character being sent and the CLK ticks left -/
  txSr : Option (Byte × Nat)
  rxTimeout : Nat
  cti : Bool
  threInt : Bool
  sent : List UartSent
  deriving DecidableEq, Repr

/-- An item of a SpaceWire stream (R320): data, end of packet, error end, control code. -/
inductive SwicItem where
  | data (b : Byte)
  | eop
  | eep
  | code (c : Byte)
  deriving DecidableEq, Repr

/-- An event the far end of a SpaceWire link causes (R320, R1175). -/
inductive SwicEvent where
  | item (i : SwicItem)
  | linkUp
  | firstBit
  /-- 0 disconnect, 1 parity, 2 escape, 3 credit -/
  | linkError (kind : BitVec 2)
  /-- the measured rate, RX_SPEED (R328) -/
  | rate (v : Byte)
  deriving DecidableEq, Repr

/-- A SpaceWire controller (R320 to R335). Entries of rxFifo are 9 bits: bit 8 marks EOP (value 1) or EEP (value 2). -/
structure Swic where
  bcc01 : Bool
  bcc11 : Bool
  gotPoll : Bool
  gotInt : Bool
  gotTime : Bool
  connected : Bool
  gotFirstBit : Bool
  linkCause : Bool
  flControl : Bool
  dsState : BitVec 3
  /-- CREDIT_ERR, ESC_ERR, P_ERR, DC_ERR -/
  errors : BitVec 4
  rxCode : Word
  modeCr : Word
  txSpeed : Word
  txCode : Byte
  rxSpeed : Byte
  cntRx : Word
  cntRx0 : Word
  isr : Dword
  lastTime : BitVec 6
  rxFifo : List (BitVec 9)
  rxDesc : List Word
  nChar : Nat
  txFifo : List Byte
  txByte : BitVec 25
  /-- type field of the packet being sent -/
  txType : Option (BitVec 2)
  sent : List (Nat × SwicItem)
  deriving DecidableEq, Repr

/-- A multifunction serial port (R350 to R368). -/
structure Mfbsp where
  csr : Word
  dir : BitVec 10
  gpio : BitVec 10
  pins : BitVec 10
  sampled : BitVec 10
  tctr : Word
  rctr : Word
  /-- writable fields of TSR: TSS_RATE, TCLK_RATE[9:5], TERR, TLEV -/
  tsr : Word
  /-- writable fields of RSR: RSS_RATE, RCLK_RATE[9:5], RERR, RLEV -/
  rsr : Word
  lrerr : Bool
  txBuf : List Word
  txSync : List Word
  rxBuf : List Word
  rxSync : List Word
  lBuf : List Word
  lSync : List Word
  rxHalf : Option Half
  txHalf : Option Half
  txArmed : Bool
  txSeen : Nat
  rxArmed : Bool
  rxSeen : Nat
  /-- the word being sent (R362, TRUN) -/
  txShift : Option Word
  /-- a word is being received (R361) -/
  rxRun : Bool
  /-- words sent that a receiver in step with the transmitter has not matched yet (R359) -/
  rxCredit : Nat
  sent : List (Nat × Word)
  deriving DecidableEq, Repr

/-! ## The DSP -/

/-- The registers of one SIMD section (R103 to R116). -/
structure DspSection where
  rf : Vector Word 32
  ac0 : Word
  ac1 : Word
  pdnr : Half
  ccr : Half
  agAt : Half
  agIt : Half
  agMt : Half
  agDt : Half
  deriving DecidableEq, Repr

/-- The addressable 16-bit registers of the DSP (R105 to R120); sec false is section 0. -/
inductive DspReg where
  | a (n : BitVec 3)
  | i (n : BitVec 3)
  | m (n : BitVec 3)
  | agAt (sec : Bool)
  | agIt (sec : Bool)
  | agMt (sec : Bool)
  | agDt (sec : Bool)
  | dcsr
  | sr
  | idr
  | dmar
  | pc
  | ss
  | la
  | csl
  | lc
  | csh
  | sp
  | sar (n : BitVec 3)
  | cntr
  | ccr (sec : Bool)
  | pdnr (sec : Bool)
  deriving DecidableEq, Repr

/-- The operand format of a DSP computation: 32 bits, 16 bits, or complex, two 16-bit halves (R853). -/
inductive DspFmt where
  | long
  | short
  | complex
  deriving DecidableEq, Repr

/-- The additive operations of an OP1 (R853). -/
inductive DspAu where
  | abs
  | neg
  | add
  | sub
  | adc
  | sbc
  deriving DecidableEq, Repr

/-- What is rounded to 16 bits: a register (RNDL), a sum (ADDLR, ADDLRTR), a difference (SUBLR, SUBLRTR), or the 32-bit value of
FTRL, which no source states (R864). What the suffix TR adds is not stated either: ADDLRTR and SUBLRTR act as ADDLR and SUBLR (DESIGN
CHOICE, log 25). -/
inductive DspRound where
  | value
  | sum
  | difference
  | unstated
  deriving DecidableEq, Repr

/-- The shifts and rotations of an OP2 (R862). -/
inductive DspShift where
  | asl
  | asr
  /-- ASRLE: the manual gives its name only -/
  | asrle
  | lsl
  | lsr
  | rol
  | ror
  deriving DecidableEq, Repr

/-- A shift count: an immediate, whose width no source gives and which has six unsigned bits here (DESIGN CHOICE, log 25), or a 16-bit
register (R103). -/
inductive DspCount where
  | imm (n : BitVec 6)
  | reg (n : BitVec 5)
  deriving DecidableEq, Repr

/-- A computational operation of type OP1 (R853). scale is field M of format 8 (R866). -/
inductive DspOp1 where
  | au (op : DspAu) (fmt : DspFmt) (dst src1 src2 : BitVec 5) (scale : Bool)
  /-- ADDSUB, ADDSUBL, ADDSUBX: the sum in dst, the difference in dst2 (DESIGN CHOICE, log 25) -/
  | addSub (fmt : DspFmt) (dst dst2 src1 src2 : BitVec 5) (scale : Bool)
  | round (op : DspRound) (dst src1 src2 : BitVec 5) (scale : Bool)
  /-- ADC16L, AD1, ASH, SAH: scaled and saturated results of functions no source states; sets says which of U, N, Z,
  V, C it fills -/
  | auOther (fmt : DspFmt) (dst : BitVec 5) (dst2 : Option (BitVec 5)) (sets : BitVec 5) (scale : Bool)
  /-- CMPE: the exponent flag (R863) -/
  | cmpe
  /-- PDN, PDNL, PDNX: the denormalisation parameter (R868), in a 16-bit register (DESIGN CHOICE, log 25) -/
  | pdn (fmt : DspFmt) (dst src : BitVec 5)
  /-- FASU and logical operations: a result no source states, always of 32 bits (DESIGN CHOICE, log 25); the exponent of a 32E16 number goes to the 16-bit register dst2 -/
  | other (dst : BitVec 5) (dst2 : Option (BitVec 5)) (sets : BitVec 5)
  deriving DecidableEq, Repr

/-- A computational operation of type OP2 (R853). -/
inductive DspOp2 where
  | shift (op : DspShift) (fmt : DspFmt) (dst src : BitVec 5) (count : DspCount)
  /-- MAC (16-bit operands) and MACL (32-bit): a product added to the accumulator pair; no source gives the widths of the operands
  (DESIGN CHOICE, log 25) -/
  | mac (long : Bool) (src1 src2 : BitVec 5)
  /-- MPX: a complex product whose format no source states -/
  | mpx (dst : BitVec 5)
  /-- MAC2, MACX, SAC2: both accumulators -/
  | macOther
  /-- FIN, FINR, floating-point multiplication: a 32-bit result no source states -/
  | other (dst : BitVec 5)
  deriving DecidableEq, Repr

/-- The control registers of space C as an instruction names them: those of a section stand for that of each section that
computes (R101, R855). -/
inductive DspCtl where
  | a (n : BitVec 3)
  | i (n : BitVec 3)
  | m (n : BitVec 3)
  | agAt
  | agIt
  | agMt
  | agDt
  | dcsr
  | sr
  | idr
  | dmar
  | pc
  | ss
  | la
  | csl
  | lc
  | csh
  | sp
  | sar (n : BitVec 3)
  | cntr
  | ccr
  | pdnr
  | ac (one : Bool)
  deriving DecidableEq, Repr

/-- A MOVE over the bus GDB (R853): an immediate or a data register to a control register, or back, or between two data
registers. -/
inductive DspGdb where
  | imm (dst : DspCtl) (v : Half)
  | put (dst : DspCtl) (src : BitVec 5)
  | get (dst : BitVec 5) (src : DspCtl)
  | copy (fmt : DspFmt) (dst src : BitVec 5)
  deriving DecidableEq, Repr

/-- The first move of an instruction: a transfer through the AGU with register number, address register, mode, displacement
and flag "u" (R878), or a GDB move. Data memory is moved to or from a 32-bit register Rn.L alone, and an immediate to a control register
alone (R852 does not say which registers these moves can name; DESIGN CHOICE, log 25). -/
inductive DspMove1 where
  | load (dst : BitVec 5) (n : BitVec 3) (mode : BitVec 3) (dspl : Half) (noMove : Bool)
  | store (src : BitVec 5) (n : BitVec 3) (mode : BitVec 3) (dspl : Half) (noMove : Bool)
  | gdb (g : DspGdb)
  deriving DecidableEq, Repr

/-- The second move: Y memory to a 32-bit register through AGU-Y (R881), or a GDB move. -/
inductive DspMove2 where
  | loadY (dst : BitVec 5) (code : BitVec 2)
  | gdb (g : DspGdb)
  deriving DecidableEq, Repr

/-- A program address (R882). -/
inductive DspTarget where
  | abs (v : Half)
  | reg (n : BitVec 3)
  | rel (v : Half)
  | relReg (n : BitVec 3)
  deriving DecidableEq, Repr

/-- Program flow (R853): J, JD, B, BD; JS, BS; RTS; DO, DO_R, DOR, DOR_R, DOFOR with their repeat count; ENDDO; REPEAT; STOP. The
source only names JD and BD: they jump as J and B do; nor does it say where the count comes from (R892; DESIGN CHOICE, log 25). -/
inductive DspFlow where
  | jump (t : DspTarget)
  | call (t : DspTarget)
  | ret
  | doLoop (forLoop : Bool) (count : BitVec 14) (last : DspTarget)
  | endDo
  /-- REPEAT: the source gives its name only (R895) -/
  | rep
  | stop
  deriving DecidableEq, Repr

/-- One DSP instruction (R852): at most one OP1, one OP2 and two moves, program flow, its length (R851), and for a conditional
one the values of SR[7:0] under which it executes (R855). -/
structure DspInstr where
  op1 : Option DspOp1
  op2 : Option DspOp2
  move1 : Option DspMove1
  move2 : Option DspMove2
  flow : Option DspFlow
  wide : Bool
  cond : Option (BitVec 256)
  deriving DecidableEq, Repr

/-- The DSP (R100 to R140). sr holds bits 15:8; bits 7:0 are a view (R127). -/
structure Dsp where
  sec0 : DspSection
  sec1 : DspSection
  a : Vector Half 8
  i : Vector Half 8
  m : Vector Half 8
  dcsr : Half
  /-- RUN is undetermined until software writes DCSR (U31) -/
  runOpen : Bool
  sr : Half
  dmar : Half
  pc : Half
  ss : Vector Half 16
  la : Half
  csl : Vector Half 8
  csh : Vector Half 8
  lc : Half
  sp : Half
  sar : Vector Half 8
  cntr : Half
  /-- instructions executed since the start (R897) -/
  steps : Nat
  maskr : Word
  /-- the instruction in execution, when it is not done in one move (R148, log 24) -/
  inFlight : Option DspInstr
  /-- data pages X1, X2, Y1, Y2 that it reads -/
  pageReads : BitVec 4
  /-- and those it writes -/
  pageWrites : BitVec 4
  /-- data pages the CPU or DMA read while it is in execution -/
  extReads : BitVec 4
  /-- and those they wrote -/
  extWrites : BitVec 4
  deriving DecidableEq, Repr

/-! ## The schedule -/

/-- A move of an agent other than the CPU (R1050), or a further CLK tick (log 13, log 14). -/
inductive Move where
  /-- one CLK tick of the timers -/
  | clk
  /-- one RTCXTI tick -/
  | rtt
  /-- the SDRAM mode command in progress completes -/
  | sdrDone
  /-- one word of a burst of a DMA channel, or the load of one parameter block -/
  | dma (c : BitVec 4)
  /-- the DMA moves that fall between the two accesses of an LDC1 or SDC1 executed next (R1055) -/
  | between (l : List (BitVec 4))
  /-- one DSP instruction, done at once -/
  | dsp (i : DspInstr)
  /-- a DSP instruction begins: what happens until dspEnd happens at the same time (R148, log 24) -/
  | dspBegin (i : DspInstr)
  /-- the DSP instruction in execution is done -/
  | dspEnd
  /-- a character begins to arrive at the UART -/
  | uartStart
  /-- a character arrives at the UART; one that finds no room makes its receive move at once (R1171), or `waits` in the shift register
  for room or for a further one to start (R309, log 32) -/
  | uartRx (c : UartChar) (waits : Bool)
  /-- an event of a SpaceWire link -/
  | swicIn (n : Bool) (e : SwicEvent)
  /-- a SpaceWire controller sends one item -/
  | swicTx (n : Bool)
  /-- an MFBSP port begins to send a word -/
  | mfbspTxStart (p : BitVec 2)
  /-- an MFBSP port begins to receive a word -/
  | mfbspRxStart (p : BitVec 2)
  /-- an MFBSP port has sent one word -/
  | mfbspTx (p : BitVec 2)
  /-- a word arrives at an MFBSP port -/
  | mfbspRx (p : BitVec 2) (w : Word)
  /-- a word arrives incomplete at a link port (LRERR) -/
  | mfbspBad (p : BitVec 2)
  /-- levels of the pins of an MFBSP port -/
  | mfbspPins (p : BitVec 2) (v : BitVec 10)
  /-- levels of nIRQ[3:0] -/
  | nIrq (v : BitVec 4)
  /-- level of NMI -/
  | nmi (v : Bool)
  /-- levels of nDMAR[3:0] -/
  | nDmar (v : BitVec 4)
  /-- a word offered by the Flyby device of a MEM channel -/
  | flyIn (n : BitVec 2) (w : Word)
  /-- an injected memory fault -/
  | eccFault (f : EccFault)
  /-- an injected instruction-cache fault -/
  | cacheFault (f : CacheFault)
  /-- hardware reset -/
  | reset
  deriving DecidableEq, Repr

/-! ## The whole state -/

/-- The state of the chip. -/
structure State where
  gpr : Vector Word 32
  hi : Word
  lo : Word
  pc : Word
  slot : Slot
  waiting : Bool
  nmiPending : Bool
  llbit : Bool
  cp0 : Cp0
  fgr : Vector Word 32
  fcsr : Word
  tlb : Vector TlbEntry 16
  icache : List CacheLine
  mem : List Cell
  /-- check-bit blocks of the protected memories, by word address (R283) -/
  checkBits : List Cell
  ecc : Ecc
  sys : Sys
  itimer : ItTimer
  rtimer : RtTimer
  wdt : WdTimer
  /-- CLK ticks since reset -/
  clk : Nat
  /-- how far RTCXTI is into its period, as a part of `rttSpan` (R1051) -/
  rttGap : Nat
  dma : Dma
  mport : Mport
  uart : Uart
  swic0 : Swic
  swic1 : Swic
  mfbsp : Vector Mfbsp 4
  dsp : Dsp
  params : Params
  /-- model's own: the schedule (log 13) -/
  moves : List Move
  /-- model's own: the DMA moves between the accesses of the next LDC1 or SDC1 (R1055, log 13) -/
  between : List (BitVec 4)
  /-- model's own: counter of the free values (log 11) -/
  freeCtr : Nat
  /-- model's own: a synchronous exception was taken (log 12) -/
  excTaken : Bool
  /-- model's own: HI and LO hold a product or quotient not read yet (U56, log 20) -/
  mduUnread : Bool
  /-- model's own: tracking of the strict profile (log 17) -/
  hazard : HazardTrack
  deriving DecidableEq, Repr

/-! ## Reset -/

/-- CP0 after reset (R1201); values the spec leaves undefined are 0 (log 3). -/
def Cp0.reset : Cp0 :=
  { index := 0, random := 15, entryLo0 := 0, entryLo1 := 0, context := 0, pageMask := 0, wired := 0, badVAddr := 0,
    count := 0, entryHi := 0, compare := 0, status := 0x00400004, cause := 0, epc := 0, k23 := 2, ku := 2, k0 := 2,
    llAddr := 0, errorEpc := 0, timerLatch := false }

/-- A TLB entry after reset: not initialised (R66), contents 0 (log 5). -/
def TlbEntry.reset : TlbEntry :=
  { init := false, mask := 0, vpn2 := 0, g := false, asid := 0,
    page0 := { pfn := 0, c := 0, d := false, v := false }, page1 := { pfn := 0, c := 0, d := false, v := false } }

/-- No hazard pending. -/
def HazardTrack.clear : HazardTrack :=
  { loadedGpr := none, loadedFpr := [], stored := false, cp0Writes := [], flush := .none, owed := [] }

/-- A Hamming controller after reset (R281, R1202). -/
def EccCtl.reset : EccCtl := { csr := 0x00FF0000, fifo := [] }

/-- The Hamming controllers after reset (R289, R1203). -/
def Ecc.reset : Ecc :=
  { cramA := .reset, cramB := .reset, icache := .reset, ext := { csr := 0x00FF0010, fifo := [] },
    dsp := Vector.replicate 7 .reset, faults := [], cacheFaults := [] }

/-- System registers after reset (R1203), pins inactive (log 10). -/
def Sys.reset : Sys :=
  { crPll := 0x00000101, clkEn := 0x03000001, coreClockOn := true, csr := 1, maskr := Vector.replicate 4 0,
    irqMode := 0, irqLatch := 0, nIrq := 0xF, nDmar := 0xF, nmiPin := false }

/-- Interval timer after reset (R200). -/
def ItTimer.reset : ItTimer :=
  { en := false, int := false, period := 0xFFFFFFFF, count := 0, scale := 0, scount := 0 }

/-- Real-time timer after reset (R205). -/
def RtTimer.reset : RtTimer := { en := false, int := false, period := 0x00007FFF, count := 0, pending := none }

/-- Watchdog timer after reset (R210). -/
def WdTimer.reset : WdTimer :=
  { key := 0, en := false, int := false, mode := false, rld := false, intCtr := 0, period := 0xFFFFFFFF, count := 0,
    scale := 0, scount := 0, key1 := false, timeout := false }

/-- External memory port after reset (R1203). -/
def Mport.reset : Mport :=
  { cscon := Vector.replicate 5 0x000F0000, flyWs := 0, sdrcon := 0x20, clInstalled := 2, sdrtmr := 0, sdrFlags := 0,
    sdrBusy := false, sdrCmd := 0, sdrReady := false, sdrWait := 0, sdrHeld := [], sdrLost := [] }

/-- A DMA channel after reset: CSR[15:0] = 0 (R220), the rest 0 (log 8). -/
def DmaChannel.reset : DmaChannel :=
  { csr := 0, cp := 0, ir0 := 0, ir1 := 0, offsets := 0, y := 0, wcxBuf := 0, midBlock := false, dmarEdge := false,
    burstPending := false, stopPending := false, outward := false, burstLeft := 0, turned := false, loadPending := false }

/-- The DMA controller after reset (R230). -/
def Dma.reset : Dma :=
  { channels := Vector.replicate 16 .reset, order := Vector.replicate 4 [0, 1, 2, 3],
    flyIn := Vector.replicate 4 [], flyOut := Vector.replicate 4 [] }

/-- The UART after reset (R1204); RBR, SPR and the latch thre_int are 0 (log 9). -/
def Uart.reset : Uart :=
  { ier := 0, fewo := false, rftl := 0, lcr := 0, loop := false, dll := 0, dlm := 0, sclr := 0, spr := 0, rbr := 0,
    rdr := false, rxSr := { busy := false, full := false, last := { data := 0, pe := false, fe := false, bi := false } },
    oe := false, oeInt := false, pe := false, fe := false, bi := false, rxFifo := [], txFifo := [], txSr := none, rxTimeout := 0,
    cti := false, threInt := false, sent := [] }

/-- A SpaceWire controller after reset (R1204, D48). -/
def Swic.reset : Swic :=
  { bcc01 := false, bcc11 := false, gotPoll := false, gotInt := false, gotTime := false, connected := false,
    gotFirstBit := false, linkCause := false, flControl := false, dsState := 0, errors := 0, rxCode := 0, modeCr := 0,
    txSpeed := 0x00A00000, txCode := 0, rxSpeed := 0, cntRx := 0, cntRx0 := 0, isr := 0, lastTime := 0, rxFifo := [],
    rxDesc := [], nChar := 0, txFifo := [], txByte := 0, txType := none, sent := [] }

/-- A multifunction port after reset (R1204). -/
def Mfbsp.reset : Mfbsp :=
  { csr := 0x00018400, dir := 0, gpio := 0, pins := 0, sampled := 0, tctr := 0x00080000, rctr := 0x00080000, tsr := 0,
    rsr := 0x70, lrerr := false, txBuf := [], txSync := [], rxBuf := [], rxSync := [], lBuf := [], lSync := [],
    rxHalf := none, txHalf := none, txArmed := false, txSeen := 0, rxArmed := false, rxSeen := 0, txShift := none,
    rxRun := false, rxCredit := 0, sent := [] }

/-- A DSP section after reset (R142); RF, IT and DT are 0 (log 7). -/
def DspSection.reset : DspSection :=
  { rf := Vector.replicate 32 0, ac0 := 0, ac1 := 0, pdnr := 0, ccr := 0, agAt := 0, agIt := 0, agMt := 0xFFFF,
    agDt := 0 }

/-- The DSP after reset (R142, R1202); I0 to I7, LA and the stacks are 0 (log 7). -/
def Dsp.reset : Dsp :=
  { sec0 := .reset, sec1 := .reset, a := Vector.replicate 8 0, i := Vector.replicate 8 0,
    m := Vector.replicate 8 0xFFFF, dcsr := 0, runOpen := false, sr := 0, dmar := 0, pc := 0,
    ss := Vector.replicate 16 0, la := 0, csl := Vector.replicate 8 0, csh := Vector.replicate 8 0, lc := 0, sp := 0,
    sar := Vector.replicate 8 0xFFFF, cntr := 0, steps := 0, maskr := 0, inFlight := none,
    pageReads := 0, pageWrites := 0, extReads := 0, extWrites := 0 }

/-- The machine right after reset (R1200 to R1206). -/
def State.reset : State :=
  { gpr := Vector.replicate 32 0, hi := 0, lo := 0, pc := 0xBFC00000, slot := .none, waiting := false,
    nmiPending := false, llbit := false, cp0 := .reset, fgr := Vector.replicate 32 0, fcsr := 0,
    tlb := Vector.replicate 16 .reset, icache := [], mem := [], checkBits := [], ecc := .reset, sys := .reset,
    itimer := .reset, rtimer := .reset, wdt := .reset, clk := 0, rttGap := 0, dma := .reset, mport := .reset, uart := .reset,
    swic0 := .reset, swic1 := .reset, mfbsp := Vector.replicate 4 .reset, dsp := .reset, params := .default,
    moves := [], between := [], freeCtr := 0, excTaken := false, mduUnread := false, hazard := .clear }

end Sys2Proof.Machine
end

