-- ==== Sys2Proof/Machine/Bits.lean ====
section
/-! DEFINITION. Bits: bit fields, lanes of a word, sign extension and bit reversal, shared by every unit. -/

namespace Sys2Proof.Machine

open Sys2Proof

/-- Is bit i of x set (R10)? -/
def isSet {w : Nat} (x : BitVec w) (i : Nat) : Bool := x.getLsbD i

/-- x with bit i made b. -/
def putBit {w : Nat} (x : BitVec w) (i : Nat) (b : Bool) : BitVec w :=
  if b then x ||| BitVec.twoPow w i else x &&& ~~~BitVec.twoPow w i

/-- The field of len bits of x from bit lo up (R10). -/
def fieldOf {w : Nat} (x : BitVec w) (lo len : Nat) : BitVec len := x.extractLsb' lo len

/-- x with the field of len bits from bit lo up made v. -/
def putField {w : Nat} (x : BitVec w) (lo : Nat) {len : Nat} (v : BitVec len) : BitVec w :=
  (x &&& ~~~((BitVec.allOnes len).setWidth w <<< lo)) ||| (v.setWidth w <<< lo)

/-- The bits of new where mask is 1, of old elsewhere. -/
def mergeBits {w : Nat} (mask new old : BitVec w) : BitVec w := (new &&& mask) ||| (old &&& ~~~mask)

/-- sext (R11). -/
def sext {n : Nat} (x : BitVec n) : Word := x.signExtend 32
/-- zext (R11). -/
def zext {n : Nat} (x : BitVec n) : Word := x.setWidth 32

/-- A Bool as bit i of a word. -/
def bitAt (b : Bool) (i : Nat) : Word := if b then BitVec.twoPow 32 i else 0

/-- The 32 mask bits of the byte lanes of a word, lane 0 the lowest address (R400). -/
def laneMask (lanes : BitVec 4) : Word :=
  (if isSet lanes 3 then 0xFF#8 else 0#8) ++ (if isSet lanes 2 then 0xFF#8 else 0#8) ++
  (if isSet lanes 1 then 0xFF#8 else 0#8) ++ (if isSet lanes 0 then 0xFF#8 else 0#8)

/-- The bits of a vector in opposite order (R1122, R875). -/
def reverseBits {w : Nat} (x : BitVec w) : BitVec w := x.reverse

/-- The address of the word that holds a byte address. -/
def wordAddr (pa : Word) : Nat := pa.toNat / 4 * 4

/-- Byte k of a word. -/
def byteOf (w : Word) (k : Nat) : Byte := w.extractLsb' (8 * k) 8

end Sys2Proof.Machine
end

