-- ==== Sys2Proof/Machine/Float.lean ====
section
/-! DEFINITION. Float: IEEE 754 arithmetic as the FPU performs it (spec R752 to R756, R761 to R764, R787, R825): exact on
integers, then one rounding. Bit patterns are natural numbers here. -/

namespace Sys2Proof.Machine

open Sys2Proof

/-! ## Formats and values (R752) -/

/-- A binary format: bits of the exponent and of the fraction. -/
structure FpFmt where
  expBits : Nat
  fracBits : Nat
  deriving DecidableEq, Repr

/-- Format S. -/
def FpFmt.single : FpFmt := { expBits := 8, fracBits := 23 }
/-- Format D. -/
def FpFmt.double : FpFmt := { expBits := 11, fracBits := 52 }
/-- The exponent bias, also the largest exponent. -/
def FpFmt.bias (f : FpFmt) : Nat := 2 ^ (f.expBits - 1) - 1
/-- E_min. -/
def FpFmt.eMin (f : FpFmt) : Int := 1 - (f.bias : Int)
/-- The place of the sign bit. -/
def FpFmt.signBit (f : FpFmt) : Nat := f.expBits + f.fracBits
/-- The exponent field of infinities and NaNs. -/
def FpFmt.expMax (f : FpFmt) : Nat := 2 ^ f.expBits - 1

/-- A value: finite values are (-1)^neg * m * 2^e, zeros among them (m = 0). -/
inductive FpVal where
  | nan (signalling : Bool)
  | inf (neg : Bool)
  | fin (neg : Bool) (m : Nat) (e : Int)
  deriving DecidableEq, Repr

/-- What the FPU takes from FCSR and the parameters for one operation. -/
structure FpEnv where
  rm : BitVec 2
  fs : Bool
  enableO : Bool
  enableU : Bool
  nanEncoding : NanEncoding
  denormalResult : DenormalResult
  denormalOperand : DenormalOperand
  deriving DecidableEq, Repr

/-- The result of an operation: the conditions E, V, Z, O, U, I (bits 5 to 0) and the bit pattern (R760). -/
structure FpResult where
  conds : BitVec 6
  bits : Nat
  deriving DecidableEq, Repr

/-- Condition E. -/
def condE : BitVec 6 := 0x20
/-- Condition V. -/
def condV : BitVec 6 := 0x10
/-- Condition Z. -/
def condZ : BitVec 6 := 0x08
/-- Condition O. -/
def condO : BitVec 6 := 0x04
/-- Condition U. -/
def condU : BitVec 6 := 0x02
/-- Condition I. -/
def condI : BitVec 6 := 0x01

/-- The fraction field of a pattern. -/
def FpFmt.frac (f : FpFmt) (x : Nat) : Nat := x % 2 ^ f.fracBits
/-- The exponent field of a pattern. -/
def FpFmt.exp (f : FpFmt) (x : Nat) : Nat := x / 2 ^ f.fracBits % 2 ^ f.expBits
/-- The sign of a pattern. -/
def FpFmt.neg (f : FpFmt) (x : Nat) : Bool := x.testBit f.signBit

/-- Is a pattern a denormal number (R752)? -/
def FpFmt.isDenormal (f : FpFmt) (x : Nat) : Bool := f.exp x == 0 && f.frac x != 0

/-- Is a NaN pattern signalling (R754)? -/
def FpFmt.signalling (f : FpFmt) (n : NanEncoding) (x : Nat) : Bool :=
  match n with
  | .legacy => x.testBit (f.fracBits - 1)
  | .ieee2008 => !x.testBit (f.fracBits - 1)

/-- The value of a pattern (R752). -/
def FpFmt.unpack (f : FpFmt) (n : NanEncoding) (x : Nat) : FpVal :=
  if f.exp x = f.expMax then (if f.frac x = 0 then .inf (f.neg x) else .nan (f.signalling n x))
  else if f.exp x = 0 then .fin (f.neg x) (f.frac x) (f.eMin - f.fracBits)
  else .fin (f.neg x) (2 ^ f.fracBits + f.frac x) (f.eMin - f.fracBits + (f.exp x - 1 : Nat))

/-- The sign as its bit of a pattern. -/
def FpFmt.signOf (f : FpFmt) (neg : Bool) : Nat := if neg then 2 ^ f.signBit else 0
/-- The pattern of an infinity. -/
def FpFmt.infinity (f : FpFmt) (neg : Bool) : Nat := f.signOf neg + f.expMax * 2 ^ f.fracBits
/-- The pattern of a zero. -/
def FpFmt.zero (f : FpFmt) (neg : Bool) : Nat := f.signOf neg
/-- The pattern of the largest finite number. -/
def FpFmt.largest (f : FpFmt) (neg : Bool) : Nat := f.infinity neg - 1
/-- The default QNaN (R754). -/
def FpFmt.qnan (f : FpFmt) (n : NanEncoding) : Nat :=
  match n with
  | .legacy => f.infinity false + 2 ^ (f.fracBits - 1) - 1
  | .ieee2008 => f.infinity false + 2 ^ (f.fracBits - 1)

/-! ## Rounding (R57, R755, R763) -/

/-- Is a magnitude rounded away from zero? rem, half and sticky describe what lies below the last place kept (R57). -/
def roundsUp (rm : BitVec 2) (neg odd : Bool) (rem half : Nat) (sticky : Bool) : Bool :=
  match rm with
  | 0#2 => decide (half < rem) || (rem == half && half != 0 && (sticky || odd))
  | 1#2 => false
  | 2#2 => !neg && (rem != 0 || sticky)
  | _ => neg && (rem != 0 || sticky)

/-- A magnitude m * 2^-sh rounded to an integer; the exact magnitude is a little larger when sticky. The second component
says whether the result is inexact. -/
def roundShift (rm : BitVec 2) (neg : Bool) (m sh : Nat) (sticky : Bool) : Nat × Bool :=
  let q := m / 2 ^ sh
  let rem := m % 2 ^ sh
  (if roundsUp rm neg (q % 2 == 1) rem (2 ^ sh / 2) sticky then q + 1 else q, rem != 0 || sticky)

/-- The pattern of a magnitude q * 2^e that fits the format's normal or denormal range: q < 2^(fracBits+1), and e is the
smallest exponent when q < 2^fracBits. -/
def FpFmt.pack (f : FpFmt) (neg : Bool) (q : Nat) (e : Int) : Nat :=
  f.signOf neg +
    (if q < 2 ^ f.fracBits then q else (e - (f.eMin - f.fracBits) + 1).toNat * 2 ^ f.fracBits + (q - 2 ^ f.fracBits))

/-- The untrapped result of an overflow (R763). -/
def FpFmt.overflowResult (f : FpFmt) (rm : BitVec 2) (neg : Bool) : Nat :=
  match rm with
  | 0#2 => f.infinity neg
  | 1#2 => f.largest neg
  | 2#2 => if neg then f.largest neg else f.infinity neg
  | _ => if neg then f.infinity neg else f.largest neg

/-- Delivery of a nonzero tiny result (R756, R763): exact magnitude m * 2^e, a little larger when sticky. FS = 1 flushes it to zero
under both values of fpu_denormal_result, which R756 does not say of `ieee` (DESIGN CHOICE, log 27). -/
def FpFmt.tiny (f : FpFmt) (v : FpEnv) (neg : Bool) (m : Nat) (e : Int) (sticky : Bool) : FpResult :=
  if v.fs then { conds := condU ||| condI, bits := f.zero neg }
  else match v.denormalResult with
    | .unimplemented => { conds := condE, bits := f.zero neg }
    | .ieee =>
      let sh := f.eMin - f.fracBits - e
      let r := if 0 ≤ sh then roundShift v.rm neg m sh.toNat sticky else (m * 2 ^ (-sh).toNat, sticky)
      { conds := (if r.2 then condI else 0) ||| (if r.2 || v.enableU then condU else 0)
        bits := f.pack neg r.1 (f.eMin - f.fracBits) }

/-- Round and the conditions O, U, I (R755, R763) of an exact nonzero value (-1)^neg * m * 2^e, a little larger in magnitude
when sticky; then m has more bits than the format. -/
def FpFmt.round (f : FpFmt) (v : FpEnv) (neg : Bool) (m : Nat) (e : Int) (sticky : Bool) : FpResult :=
  let len := Nat.log2 m + 1
  let p := f.fracBits + 1
  let r : Nat × Bool := if len ≤ p then (m * 2 ^ (p - len), sticky) else roundShift v.rm neg m (len - p) sticky
  let e1 : Int := e + len - p
  let q := if r.1 = 2 ^ p then 2 ^ f.fracBits else r.1
  let e2 : Int := if r.1 = 2 ^ p then e1 + 1 else e1
  let top : Int := e2 + f.fracBits
  if (f.bias : Int) < top then
    if v.enableO then { conds := condO, bits := f.overflowResult v.rm neg }
    else { conds := condO ||| condI, bits := f.overflowResult v.rm neg }
  else if top < f.eMin then f.tiny v neg m e sticky
  else { conds := if r.2 then condI else 0, bits := f.pack neg q e2 }

/-! ## Operands (R754, R756) -/

/-- The value an arithmetic instruction takes from a pattern: a denormal as `fpu_denormal_operand` says (U61). With `flush` R756 says
only that it is zero when FS = 1; with FS = 0 it counts as its value, and with FS = 1 the zero keeps its sign and signals nothing
(DESIGN CHOICE, log 18). -/
def FpFmt.operand (f : FpFmt) (v : FpEnv) (x : Nat) : FpVal :=
  if f.isDenormal x && v.denormalOperand == .flush && v.fs then .fin (f.neg x) 0 0 else f.unpack v.nanEncoding x

/-- Does a denormal operand stop the operation with condition E (R756)? -/
def FpFmt.stopsOn (f : FpFmt) (v : FpEnv) (x : Nat) : Bool := f.isDenormal x && v.denormalOperand == .unimplemented

/-- Is a value a NaN? -/
def FpVal.isNan : FpVal → Bool
  | .nan _ => true
  | _ => false
/-- Is a value a signalling NaN? -/
def FpVal.isSnan : FpVal → Bool
  | .nan s => s
  | _ => false

/-- The result of Invalid Operation (R761). -/
def FpFmt.invalid (f : FpFmt) (v : FpEnv) : FpResult := { conds := condV, bits := f.qnan v.nanEncoding }
/-- The result for NaN operands: V for a signalling one, and the default QNaN (R754, U60). -/
def FpFmt.nanResult (f : FpFmt) (v : FpEnv) (signalling : Bool) : FpResult :=
  { conds := if signalling then condV else 0, bits := f.qnan v.nanEncoding }
/-- Unimplemented Operation (R764). -/
def FpResult.unimplemented : FpResult := { conds := condE, bits := 0 }
/-- A result without condition. -/
def FpResult.exact (x : Nat) : FpResult := { conds := 0, bits := x }

/-! ## Arithmetic (R765 to R778) -/

/-- Sign of an exact zero sum of operands with different signs (R755). -/
def zeroSumNeg (rm : BitVec 2) : Bool := rm == 3

/-- a + b on finite values. -/
def FpFmt.addFinite (f : FpFmt) (v : FpEnv) (na : Bool) (ma : Nat) (ea : Int) (nb : Bool) (mb : Nat) (eb : Int) : FpResult :=
  let e := min ea eb
  let ia : Int := (ma * 2 ^ (ea - e).toNat : Nat)
  let ib : Int := (mb * 2 ^ (eb - e).toNat : Nat)
  let sum := (if na then -ia else ia) + (if nb then -ib else ib)
  if sum = 0 then .exact (f.zero (if na = nb then na else zeroSumNeg v.rm))
  else f.round v (decide (sum < 0)) sum.natAbs e false

/-- a + b (R765); with negB, a - b (R767). -/
def FpFmt.add (f : FpFmt) (v : FpEnv) (negB : Bool) (x y : Nat) : FpResult :=
  if f.stopsOn v x || f.stopsOn v y then .unimplemented
  else match f.operand v x, f.operand v y with
    | .nan s, b => f.nanResult v (s || b.isSnan)
    | a, .nan s => f.nanResult v (s || a.isSnan)
    | .inf na, .inf nb => if na = (nb ^^ negB) then .exact (f.infinity na) else f.invalid v
    | .inf na, .fin _ _ _ => .exact (f.infinity na)
    | .fin _ _ _, .inf nb => .exact (f.infinity (nb ^^ negB))
    | .fin na ma ea, .fin nb mb eb => f.addFinite v na ma ea (nb ^^ negB) mb eb

/-- a * b (R769). -/
def FpFmt.mul (f : FpFmt) (v : FpEnv) (x y : Nat) : FpResult :=
  if f.stopsOn v x || f.stopsOn v y then .unimplemented
  else match f.operand v x, f.operand v y with
    | .nan s, b => f.nanResult v (s || b.isSnan)
    | a, .nan s => f.nanResult v (s || a.isSnan)
    | .inf na, .inf nb => .exact (f.infinity (na ^^ nb))
    | .inf na, .fin nb mb _ => if mb = 0 then f.invalid v else .exact (f.infinity (na ^^ nb))
    | .fin na ma _, .inf nb => if ma = 0 then f.invalid v else .exact (f.infinity (na ^^ nb))
    | .fin na ma ea, .fin nb mb eb =>
      if ma = 0 ∨ mb = 0 then .exact (f.zero (na ^^ nb)) else f.round v (na ^^ nb) (ma * mb) (ea + eb) false

/-- A nonzero quotient ma / mb * 2^e, with three bits more than the format keeps. -/
def FpFmt.divFinite (f : FpFmt) (v : FpEnv) (neg : Bool) (ma mb : Nat) (e : Int) : FpResult :=
  let k := f.fracBits + Nat.log2 mb + 5
  let n := ma * 2 ^ k
  f.round v neg (n / mb) (e - k) (n % mb != 0)

/-- a / b (R771, R762). -/
def FpFmt.div (f : FpFmt) (v : FpEnv) (x y : Nat) : FpResult :=
  if f.stopsOn v x || f.stopsOn v y then .unimplemented
  else match f.operand v x, f.operand v y with
    | .nan s, b => f.nanResult v (s || b.isSnan)
    | a, .nan s => f.nanResult v (s || a.isSnan)
    | .inf _, .inf _ => f.invalid v
    | .inf na, .fin nb _ _ => .exact (f.infinity (na ^^ nb))
    | .fin na _ _, .inf nb => .exact (f.zero (na ^^ nb))
    | .fin na ma ea, .fin nb mb eb =>
      if mb = 0 then
        if ma = 0 then f.invalid v else { conds := condZ, bits := f.infinity (na ^^ nb) }
      else if ma = 0 then .exact (f.zero (na ^^ nb))
      else f.divFinite v (na ^^ nb) ma mb (ea - eb)

/-- The integer square root, by bits from bit i - 1 down. -/
def isqrtFrom (m : Nat) : Nat → Nat → Nat
  | 0, r => r
  | i + 1, r => isqrtFrom m i (if (r + 2 ^ i) * (r + 2 ^ i) ≤ m then r + 2 ^ i else r)

/-- The integer square root. -/
def isqrt (m : Nat) : Nat := isqrtFrom m (Nat.log2 m / 2 + 1) 0

/-- sqrt(a) (R773). -/
def FpFmt.sqrt (f : FpFmt) (v : FpEnv) (x : Nat) : FpResult :=
  if f.stopsOn v x then .unimplemented
  else match f.operand v x with
    | .nan s => f.nanResult v s
    | .inf neg => if neg then f.invalid v else .exact (f.infinity false)
    | .fin neg m e =>
      if m = 0 then .exact (f.zero neg)
      else if neg then f.invalid v
      else
        let k0 := 2 * f.fracBits + 6
        let k := if (e - k0) % 2 = 0 then k0 else k0 + 1
        let n := m * 2 ^ k
        let r := isqrt n
        f.round v false r ((e - k) / 2) (r * r != n)

/-- ABS and NEG (R775, R777): the pattern with its sign replaced; NaN operands as in R754. -/
def FpFmt.resign (f : FpFmt) (v : FpEnv) (x : Nat) (neg : Bool) : FpResult :=
  match f.unpack v.nanEncoding x with
  | .nan s => f.nanResult v s
  | _ => .exact (f.signOf neg + x % 2 ^ f.signBit)

/-- ABS (R775). -/
def FpFmt.abs (f : FpFmt) (v : FpEnv) (x : Nat) : FpResult := f.resign v x false
/-- NEG (R777). -/
def FpFmt.negate (f : FpFmt) (v : FpEnv) (x : Nat) : FpResult := f.resign v x (!f.neg x)

/-! ## Conversions (R781 to R790) -/

/-- Conversion of a floating-point number to another format (R781, R783). -/
def FpFmt.convert (src dst : FpFmt) (v : FpEnv) (x : Nat) : FpResult :=
  if src.stopsOn v x then .unimplemented
  else match src.operand v x with
    | .nan s => dst.nanResult v s
    | .inf neg => .exact (dst.infinity neg)
    | .fin neg m e => if m = 0 then .exact (dst.zero neg) else dst.round v neg m e false

/-- Conversion of a fixed-point word (R782, R784). -/
def FpFmt.ofWord (f : FpFmt) (v : FpEnv) (x : Word) : FpResult :=
  if x = 0 then .exact (f.zero false) else f.round v (x.toInt < 0) x.toInt.natAbs 0 false

/-- The untrapped result of an invalid conversion to fixed point (R761). -/
def invalidWord : FpResult := { conds := condV, bits := 0x7FFFFFFF }

/-- ToW (R787). -/
def FpFmt.toWord (f : FpFmt) (v : FpEnv) (rm : BitVec 2) (x : Nat) : FpResult :=
  if f.stopsOn v x then .unimplemented
  else match f.operand v x with
    | .nan _ => invalidWord
    | .inf _ => invalidWord
    | .fin neg m e =>
      let r : Nat × Bool := if 0 ≤ e then (m * 2 ^ e.toNat, false) else roundShift rm neg m (-e).toNat false
      let n : Int := if neg then -(r.1 : Int) else r.1
      if n < -(2 ^ 31) ∨ (2 ^ 31 : Int) ≤ n then invalidWord
      else { conds := if r.2 then condI else 0, bits := (BitVec.ofInt 32 n).toNat }

/-! ## Compares (R825) -/

/-- Is a finite or infinite value below another? NaNs compare as not below. -/
def FpVal.lt (a b : FpVal) : Bool :=
  match a, b with
  | .nan _, _ => false
  | _, .nan _ => false
  | .inf na, .inf nb => na && !nb
  | .inf na, .fin _ _ _ => na
  | .fin _ _ _, .inf nb => !nb
  | .fin na ma ea, .fin nb mb eb =>
    let e := min ea eb
    let ia : Int := (ma * 2 ^ (ea - e).toNat : Nat)
    let ib : Int := (mb * 2 ^ (eb - e).toNat : Nat)
    decide ((if na then -ia else ia) < (if nb then -ib else ib))

/-- A compare (R825): whether it holds and whether it signals V. Denormals compare by value. -/
def FpFmt.compare (f : FpFmt) (n : NanEncoding) (cond : BitVec 4) (x y : Nat) : Bool × Bool :=
  let a := f.unpack n x
  let b := f.unpack n y
  let unordered := a.isNan || b.isNan
  let less := a.lt b
  let equal := !unordered && !less && !b.lt a
  ((isSet cond 2 && less) || (isSet cond 1 && equal) || (isSet cond 0 && unordered),
   a.isSnan || b.isSnan || (isSet cond 3 && unordered))

end Sys2Proof.Machine
end

