-- ==== Sys2Proof/Machine/Mem.lean ====
section
/-! DEFINITION. Mem: memory as a list of cells in one canonical form: addresses strictly rising and no cell equal to what an
unlisted address reads as (log 6). Words are little-endian (R400). -/

namespace Sys2Proof.Machine

open Sys2Proof

/-- What a byte that nothing has written reads as. DESIGN CHOICE, unsafe (log 6). -/
def Memory.unlisted : Byte := 0

/-- One byte of memory. -/
def Memory.read : List Cell → Nat → Byte
  | [], _ => Memory.unlisted
  | (b, w) :: m, a => if a = b then w else Memory.read m a

/-- Memory with one byte replaced, in canonical form. -/
def Memory.write : List Cell → Nat → Byte → List Cell
  | [], a, v => if v = Memory.unlisted then [] else [(a, v)]
  | (b, w) :: m, a, v =>
    if a < b then (if v = Memory.unlisted then (b, w) :: m else (a, v) :: (b, w) :: m)
    else if a = b then (if v = Memory.unlisted then m else (a, v) :: m)
    else (b, w) :: Memory.write m a v

/-- The canonical form. -/
abbrev Memory.wf (m : List Cell) : Prop :=
  m.Pairwise (fun x y => x.1 < y.1) ∧ ∀ c ∈ m, c.2 ≠ Memory.unlisted

/-- The word at a word-aligned byte address (R400). -/
def Memory.readWord (m : List Cell) (a : Nat) : Word :=
  Memory.read m (a + 3) ++ Memory.read m (a + 2) ++ Memory.read m (a + 1) ++ Memory.read m a

/-- One byte written when its lane is enabled. -/
def Memory.writeLane (m : List Cell) (en : Bool) (a : Nat) (v : Byte) : List Cell :=
  if en then Memory.write m a v else m

/-- The enabled byte lanes of a word written at a word-aligned address (R400). -/
def Memory.writeLanes (m : List Cell) (a : Nat) (lanes : BitVec 4) (v : Word) : List Cell :=
  let m := Memory.writeLane m (isSet lanes 0) a (byteOf v 0)
  let m := Memory.writeLane m (isSet lanes 1) (a + 1) (byteOf v 1)
  let m := Memory.writeLane m (isSet lanes 2) (a + 2) (byteOf v 2)
  Memory.writeLane m (isSet lanes 3) (a + 3) (byteOf v 3)

end Sys2Proof.Machine
end

