-- ==== Sys2Proof/Machine/Res.lean ====
section
/-! DEFINITION. Res: the result of an operation of the machine (a value and a state, an exception to take, a fault or a
refusal), and the drawing of free values (log 11). -/

namespace Sys2Proof.Machine

open Sys2Proof

/-- What an instruction raises: the exceptions of R951 with the information R960 to R977 store. -/
inductive Exc where
  | int
  | mod (va : Word)
  | tlbRefill (va : Word) (store : Bool)
  | tlbInvalid (va : Word) (store : Bool)
  | addressError (va : Word) (store : Bool)
  | sys
  | bp
  | ri
  | cpu
  | ov
  | tr
  | fpe
  | mcheck
  deriving DecidableEq, Repr

/-- The result of an operation. An exception carries the state it is taken in (R953). -/
inductive Res (α : Type) where
  | ok (a : α) (s : State)
  | exc (e : Exc) (s : State)
  | fault (f : Fault)
  | refuse (r : Refusal)

/-- The second operation after the first, unless the first stops. -/
def Res.andThen {α β : Type} (r : Res α) (k : α → State → Res β) : Res β :=
  match r with
  | .ok a s => k a s
  | .exc e s => .exc e s
  | .fault f => .fault f
  | .refuse x => .refuse x

/-- A Res whose value is passed through a function. -/
def Res.mapVal {α β : Type} (r : Res α) (f : α → β) : Res β := r.andThen fun a s => .ok (f a) s

/-- A result without value. -/
abbrev Res.done (s : State) : Res Unit := .ok () s

/-- The free word a state draws next. -/
def State.freeWord (s : State) : Word := Config.freeWord s.freeCtr
/-- The free bit a state draws next. -/
def State.freeBit (s : State) : Bool := Config.freeBit s.freeCtr
/-- The state after a draw. -/
def State.drawn (s : State) : State := { s with freeCtr := s.freeCtr + 1 }

/-- The free word k draws further on. -/
def State.freeAt (s : State) (k : Nat) : Word := Config.freeWord (s.freeCtr + k)
/-- The state after n draws. -/
def State.drawnBy (s : State) (n : Nat) : State := { s with freeCtr := s.freeCtr + n }

/-- An unspecified word (an "any value" of 93_implementation_defined.md). -/
def anyWord (s : State) : Res Word := .ok s.freeWord s.drawn

end Sys2Proof.Machine
end

