-- ==== Sys2Proof/Machine/Ecc.lean ====
section
/-! DEFINITION. Ecc: the Hamming controllers of the memories (spec R150 to R153, R280 to R289, R470, log 23). -/

namespace Sys2Proof.Machine

open Sys2Proof

/-- A Hamming controller: the two ports of CRAM, the instruction cache, external memory, and the seven of the DSP in the
order He, Hx0, Hx1, Hy0, Hy1, Hp0, Hp1. -/
inductive EccUnit where
  | cramA
  | cramB
  | icache
  | ext
  | dsp (n : Fin 7)
  deriving DecidableEq, Repr

/-- The controller of a unit. -/
def Ecc.ctl (e : Ecc) : EccUnit → EccCtl
  | .cramA => e.cramA
  | .cramB => e.cramB
  | .icache => e.icache
  | .ext => e.ext
  | .dsp n => e.dsp[n]

/-- The controllers with one replaced. -/
def Ecc.setCtl (e : Ecc) (u : EccUnit) (c : EccCtl) : Ecc :=
  match u with
  | .cramA => { e with cramA := c }
  | .cramB => { e with cramB := c }
  | .icache => { e with icache := c }
  | .ext => { e with ext := c }
  | .dsp n => { e with dsp := e.dsp.set n c }

/-- Depth of an error FIFO (R288, R152, R153). -/
def EccUnit.depth : EccUnit → Nat
  | .dsp n => if n = 0 then 32 else 8
  | _ => 16

/-- Field MODE (R281). -/
def EccCtl.mode (c : EccCtl) : BitVec 2 := fieldOf c.csr 0 2
/-- The interrupt request of a controller (R281, R151). -/
def EccCtl.request (c : EccCtl) : Bool :=
  (fieldOf c.csr 16 8).toNat < (fieldOf c.csr 24 8).toNat || fieldOf c.csr 8 8 != 0
/-- The control word as it reads: NEMPTY in bit 2 (R281). -/
def EccCtl.readCsr (c : EccCtl) : Word := putBit c.csr 2 !c.fifo.isEmpty
/-- The writable bits of a control word (R281, R282, R151). -/
def EccUnit.csrMask : EccUnit → Word
  | .ext => 0xFFFFFF1B
  | _ => 0xFFFFFF03
/-- A control word stored by the CPU. -/
def EccCtl.writeCsr (c : EccCtl) (u : EccUnit) (v : Word) : EccCtl := { c with csr := v &&& u.csrMask }

/-- A counter field incremented, stopping at 255 (R284). -/
def saturate8 (x : Byte) : Byte := if x = 0xFF then x else x + 1

/-- An error counted: code 2 in Cnt_DERR, the others in Cnt_SERR (R284). -/
def EccCtl.countError (c : EccCtl) (code : BitVec 2) : EccCtl :=
  if code = 2 then { c with csr := putField c.csr 8 (saturate8 (fieldOf c.csr 8 8)) }
  else { c with csr := putField c.csr 24 (saturate8 (fieldOf c.csr 24 8)) }

/-- A FIFO entry added; a full FIFO drops it (R288, D35). -/
def EccCtl.push (c : EccCtl) (u : EccUnit) (entry : Word) : EccCtl :=
  if c.fifo.length < u.depth then { c with fifo := c.fifo ++ [entry] } else c

/-- The FIFO entry of an error at a word address (R285, R287, R152). MEM_ADDR of a DSP controller is the low 24 bits of the CPU
byte address (DESIGN CHOICE, log 39). -/
def EccUnit.entry (u : EccUnit) (a : Nat) (code : BitVec 2) : Word :=
  let x := BitVec.ofNat 32 a
  match u with
  | .dsp _ => (0#6 : BitVec 6) ++ code ++ fieldOf x 0 24
  | .ext => fieldOf x 2 30 ++ code
  | _ => (0#17 : BitVec 17) ++ fieldOf x 2 13 ++ code

/-- The injected error of a memory word, if any (R284): of several at one word the one injected first, until a store clears them all
(DESIGN CHOICE, log 23). -/
def Ecc.faultAt (e : Ecc) (a : Nat) : Option EccFault := e.faults.find? (fun f => f.addr == a)

/-- The injected error of a word after a store to some of its lanes: the stored lanes are right again, and a store of all of them
leaves no error. -/
def Ecc.clearFault (e : Ecc) (a : Nat) (lanes : BitVec 4) : Ecc :=
  { e with faults := e.faults.filterMap fun f =>
      if f.addr != a then some f
      else if lanes == 0xF then none
      else some { f with flips := f.flips &&& ~~~laneMask lanes } }

/-- An error seen by a controller in mode 01: counted, and its address queued (R284). -/
def State.noteEcc (s : State) (u : EccUnit) (a : Nat) (code : BitVec 2) : State :=
  { s with ecc := s.ecc.setCtl u (((s.ecc.ctl u).countError code).push u (u.entry a code)) }

/-- The data bits a memory word delivers without correction. -/
def State.rawWord (s : State) (a : Nat) : Word :=
  match s.ecc.faultAt a with
  | some f => Memory.readWord s.mem a ^^^ f.flips
  | none => Memory.readWord s.mem a

/-- A read with correction (mode 01, R280): single and parity errors are corrected, double errors are not. An injected error of code 0 is
one that the decoder does not see: its flipped bits are delivered, and nothing is counted (DESIGN CHOICE, log 23). -/
def State.checkedWord (s : State) (u : EccUnit) (a : Nat) : Word × State :=
  match s.ecc.faultAt a with
  | none => (Memory.readWord s.mem a, s)
  | some f =>
    if f.code = 0 then (Memory.readWord s.mem a ^^^ f.flips, s)
    else if f.code = 2 then (Memory.readWord s.mem a ^^^ f.flips, s.noteEcc u a f.code)
    else (Memory.readWord s.mem a, s.noteEcc u a f.code)

/-- A word of a protected memory read through a controller (R283). In mode 10 an injected error does not show in the check bits: it
flips data bits alone (DESIGN CHOICE, log 23). -/
def protRead (u : EccUnit) (a : Nat) (s : State) : Res Word :=
  match (s.ecc.ctl u).mode with
  | 0#2 => .ok (s.rawWord a) s
  | 1#2 => let r := s.checkedWord u a; .ok r.1 r.2
  | 2#2 => .ok (zext (fieldOf (Memory.read s.checkBits a) 0 7)) s
  | _ => .fault .eccModeReserved

/-- The check bits of a word replaced. -/
def State.putCheckBits (s : State) (a : Nat) (v : BitVec 7) : State :=
  { s with checkBits := Memory.write s.checkBits a (v.setWidth 8) }

/-- The data block of a word written in the enabled lanes. -/
def State.putLanes (s : State) (a : Nat) (lanes : BitVec 4) (v : Word) : State :=
  { s with mem := Memory.writeLanes s.mem a lanes v }

/-- Lanes stored in the data block alone; an injected error of the stored lanes ends with it (DESIGN CHOICE, log 23). -/
def State.storeRaw (s : State) (a : Nat) (lanes : BitVec 4) (v : Word) : State :=
  { s.putLanes a lanes v with ecc := s.ecc.clearFault a lanes }

/-- The check bits of a word stored, where a store changes the lanes `ram` of the word; those of a word of ROM alone are ROM too
(R416; DESIGN CHOICE, log 22). -/
def State.storeCheck (s : State) (ram : BitVec 4) (a : Nat) (v : BitVec 7) : State :=
  if ram = 0 then s else s.putCheckBits a v

/-- Lanes of a word of a protected memory stored through a controller, where stores change the lanes `ram` alone (R283, R416). In
mode 01 the encoder's check bits are unspecified (U49) and a partial store is a read-modify-write: the read is checked (R282), and the
lanes not stored get what it delivered, uncorrected after a double error (R280); in mode 10 the low 7 bits of the data go to the check
bits, unspecified when lane 0 is not stored (log 23). -/
def protStore (u : EccUnit) (a : Nat) (lanes ram : BitVec 4) (v : Word) (s : State) : Res Unit :=
  match (s.ecc.ctl u).mode with
  | 0#2 => .done (s.storeRaw a (lanes &&& ram) v)
  | 1#2 =>
    let r := if lanes = 0xF then (v, s) else s.checkedWord u a
    .done ((r.2.storeRaw a ram (mergeBits (laneMask lanes) v r.1)).storeCheck ram a (s.freeWord.setWidth 7)).drawn
  | 2#2 =>
    if isSet lanes 0 then .done (s.storeCheck ram a (fieldOf v 0 7))
    else .done (s.storeCheck ram a (s.freeWord.setWidth 7)).drawn
  | _ => .fault .eccModeReserved

/-- Lanes of a word of a protected RAM stored through a controller (R283). -/
def protWrite (u : EccUnit) (a : Nat) (lanes : BitVec 4) (v : Word) (s : State) : Res Unit := protStore u a lanes 0xF v s

/-- What a load of an error FIFO returns: the oldest entry; of an empty one, 0 for CRAM and the cache (R288), an unspecified word for
AERROR_EXT (U43), and 0 for the FIFOs of the DSP, of which R152 and R153 do not say it (DESIGN CHOICE, log 23). -/
def State.fifoHead (s : State) (u : EccUnit) : Word :=
  match (s.ecc.ctl u).fifo with
  | x :: _ => x
  | [] => if u = .ext then s.freeWord else 0

/-- The state after a load of an error FIFO: the oldest entry is gone (R288, D35). -/
def State.fifoPop (s : State) (u : EccUnit) : State :=
  { s with ecc := s.ecc.setCtl u { s.ecc.ctl u with fifo := (s.ecc.ctl u).fifo.tail } }

/-- A store to an error FIFO: AERROR_EXT and the DSP FIFOs are emptied, the others ignore it (R287, R288, R152). -/
def State.fifoStore (s : State) (u : EccUnit) : State :=
  match u with
  | .ext | .dsp _ => { s with ecc := s.ecc.setCtl u { s.ecc.ctl u with fifo := [] } }
  | _ => s

/-- A store to a control word. -/
def State.writeEccCsr (s : State) (u : EccUnit) (v : Word) : State :=
  { s with ecc := s.ecc.setCtl u ((s.ecc.ctl u).writeCsr u v) }

end Sys2Proof.Machine
end

