-- ==== Sys2Proof/Machine/Mport.lean ====
section
/-! DEFINITION. Mport: the external memory port: its registers (spec R240 to R249), the chip-select decode, and loads and
stores of external memory (R416, R1150 to R1157, R1238, log 22). -/

namespace Sys2Proof.Machine

open Sys2Proof

/-- A store on the bus: the enabled byte lanes of a word, whether it is a Store Byte, and the low byte of the stored
register (R1156). -/
structure StoreReq where
  lanes : BitVec 4
  data : Word
  sb : Bool
  low : Byte
  deriving DecidableEq, Repr

/-- A store of a whole word. -/
def StoreReq.word (v : Word) : StoreReq := { lanes := 0xF, data := v, sb := false, low := fieldOf v 0 8 }

/-- The writable bits of CSCON0 to CSCON4 (R241 to R244). -/
def csconMask (i : Fin 5) : Word :=
  if i = 3 then 0x80FF0000 else if i = 4 then 0x00EF0000 else 0x00FFFFFF

/-- SDRCSR as it reads (R249): 0 while a command runs. -/
def Mport.sdrcsr (m : Mport) : Word := if m.sdrBusy then 0 else zext m.sdrFlags

/-- Does SDRAM keep its data: refresh on, or self-refresh (R1151)? -/
def Mport.sdrKeeps (m : Mport) : Bool := fieldOf m.sdrcon 16 14 != (0 : BitVec 14) || isSet m.sdrFlags 2
/-- SDRAM loses its data: what it held is lost, through whatever chip select it is read next (R1206, R1150). -/
def Mport.loseSdr (m : Mport) : Mport :=
  { m with sdrHeld := [], sdrLost := m.sdrHeld.foldl (fun l c => Memory.write l c.1 1) m.sdrLost }
/-- SDRAM loses its data as soon as nothing keeps them. -/
def Mport.settleSdr (m : Mport) : Mport := if m.sdrKeeps then m else m.loseSdr
/-- May SDRAM be accessed: initialised, no command running, neither parked nor within ten CPU steps of EXIT (R1151, R1238)? -/
def Mport.sdrOpen (m : Mport) : Bool :=
  m.sdrReady && !m.sdrBusy && m.sdrFlags &&& 0x0C#5 == 0 && m.sdrWait == 0

/-- A store to SDRCSR (the listing of R249). -/
def Mport.sdrStore (m : Mport) (v : Word) : Mport :=
  let c := fieldOf v 0 5
  let parked := m.sdrFlags &&& 0x0C#5 != 0
  if m.sdrBusy || !(c == 1 || c == 2 || c == 4 || c == 8 || c == 16) then m
  else if parked != (c == 16) then m
  else { m with
    sdrFlags := if c = 16 then 0 else m.sdrFlags &&& 0x0C#5
    sdrBusy := true, sdrCmd := c, sdrWait := if c = 16 then 11 else m.sdrWait }.settleSdr

/-- The SDRAM mode command in progress completes (R249). -/
def Mport.sdrComplete (m : Mport) : Mport :=
  if m.sdrBusy then
    { m with
      sdrBusy := false, sdrFlags := m.sdrFlags ||| m.sdrCmd
      clInstalled := if m.sdrCmd = 1 then fieldOf m.sdrcon 4 3 else m.clInstalled
      sdrReady := m.sdrReady || m.sdrCmd == 1 }.settleSdr
  else m

/-- A store to SDRCON: reserved CL codes are ignored (R246). -/
def Mport.sdrconStore (m : Mport) (v : Word) : Mport :=
  let cl : BitVec 3 := fieldOf v 4 3
  let v := if cl == 2 || cl == 3 then v else putField v 4 (fieldOf m.sdrcon 4 3 : BitVec 3)
  { m with sdrcon := v &&& 0x3FFF1077 }.settleSdr

/-- Read of an MPORT register by its offset in the register block; the Hamming registers of the block are read through
the controller of external memory (R181). -/
def State.mportRead (s : State) (off : Nat) : Word :=
  match off with
  | 0x1000 => s.mport.cscon[0]
  | 0x1004 => s.mport.cscon[1]
  | 0x1008 => s.mport.cscon[2]
  | 0x100C => s.mport.cscon[3] ||| bitAt s.params.bytePin 24
  | 0x1010 => s.mport.cscon[4]
  | 0x1014 => putField s.mport.sdrcon 4 s.mport.clInstalled
  | 0x1018 => s.mport.sdrtmr
  | 0x101C => s.mport.sdrcsr
  | 0x1020 => s.mport.flyWs
  | 0x1024 => s.ecc.ext.readCsr
  | 0x1028 => s.fifoHead .ext
  | _ => s.freeWord

/-- Store to an MPORT register. -/
def State.mportWrite (s : State) (off : Nat) (v : Word) : State :=
  let cs (i : Fin 5) : State :=
    { s with mport := { s.mport with cscon := s.mport.cscon.set i (v &&& csconMask i) } }
  match off with
  | 0x1000 => cs 0
  | 0x1004 => cs 1
  | 0x1008 => cs 2
  | 0x100C => cs 3
  | 0x1010 => cs 4
  | 0x1014 => { s with mport := s.mport.sdrconStore v }
  | 0x1018 => { s with mport := { s.mport with sdrtmr := v &&& 0x00FF3333 } }
  | 0x101C => { s with mport := s.mport.sdrStore v }
  | 0x1020 => { s with mport := { s.mport with flyWs := v &&& 0x0000FFFF } }
  | 0x1024 => s.writeEccCsr .ext v
  | 0x1028 => s.fifoStore .ext
  | _ => s

/-- Does the enabled window of CSCONi match an address (R241)? -/
def Mport.hits (m : Mport) (i : Fin 5) (a : Nat) : Bool :=
  isSet m.cscon[i] 20 && (fieldOf (BitVec.ofNat 32 a) 24 8 &&& fieldOf m.cscon[i] 0 8) == fieldOf m.cscon[i] 8 8

/-- The chip select of an external address (R1150); none when windows overlap (U41). -/
def Mport.chipSelect (m : Mport) (a : Nat) : Option (Fin 5) :=
  if 0x1C000000 ≤ a ∧ a ≤ 0x1FFFFFFF then some 3
  else match m.hits 0 a, m.hits 1 a, m.hits 2 a with
    | false, false, false => some 4
    | true, false, false => some 0
    | false, true, false => some 1
    | false, false, true => some 2
    | _, _, _ => none

/-- What stands behind an external byte address (R416): RAM where no region says otherwise (log 22). -/
def extKindOf (p : Params) (a : Nat) : ExtKind :=
  match p.extMap.find? (fun r => decide (r.first ≤ a) && decide (a ≤ r.last)) with
  | some r => r.kind
  | none => .ram

/-- The byte lanes of an external word behind which a kind stands that `ok` names: `ext_mem` says it of each byte (R416). -/
def State.extLanes (s : State) (ok : ExtKind → Bool) (a : Nat) : BitVec 4 :=
  let lane (k : Nat) : BitVec 1 := flag (ok (extKindOf s.params (a + k)))
  lane 3 ++ lane 2 ++ lane 1 ++ lane 0
/-- The lanes that a store changes (R416). -/
def State.ramLanes (s : State) (a : Nat) : BitVec 4 := s.extLanes (fun k => k == .ram || k == .noAck) a
/-- The lanes that a load finds something in (R416). -/
def State.presentLanes (s : State) (a : Nat) : BitVec 4 := s.extLanes (fun k => k != .absent) a
/-- The lanes that give ACK (R1153, R1215). -/
def State.ackLanes (s : State) (a : Nat) : BitVec 4 := s.extLanes (fun k => k == .ram || k == .rom) a

/-- How an external access at a chip select behaves. -/
inductive ExtAccess where
  /-- the memory answers -/
  | normal
  /-- SDRAM before INIT, or while it may not be touched (U63, R1238) -/
  | notReady
  /-- no ACK within 256 SCLK (U42, R1153) -/
  | timeout
  deriving DecidableEq, Repr

/-- Is an external block SDRAM (R1151)? -/
def Mport.isSdram (m : Mport) (cs : Fin 5) : Bool := decide (cs.val < 2) && (fieldOf m.cscon[cs] 21 2 : BitVec 2) == 1

/-- The byte lanes of a word that a list marks. -/
def markedLanes (l : List Cell) (a : Nat) : BitVec 4 :=
  let marked (k : Nat) : BitVec 1 := flag (Memory.read l (a + k) == 1)
  marked 3 ++ marked 2 ++ marked 1 ++ marked 0

/-- The byte lanes of an external word that hold what was written: in SDRAM those written since it last lost its data, else those
that SDRAM has not lost (R1151, R1206). -/
def Mport.heldLanes (m : Mport) (cs : Fin 5) (a : Nat) : BitVec 4 :=
  if m.isSdram cs then markedLanes m.sdrHeld a else ~~~markedLanes m.sdrLost a

/-- Does a word of an external block hold what was written? -/
def Mport.holds (m : Mport) (cs : Fin 5) (a : Nat) : Bool := m.heldLanes cs a == 0xF

/-- Where the marks of the check bits of the word at an address stand. -/
def checkMark (a : Nat) : Nat := 0x100000000 + a
/-- Do the check bits of an external word hold what was written (R1157)? -/
def Mport.holdsCheck (m : Mport) (cs : Fin 5) (a : Nat) : Bool := isSet (m.heldLanes cs (checkMark a)) 0

/-- The lanes a store gives a value, or takes it from (log 22). -/
def Mport.markLanes (m : Mport) (cs : Fin 5) (a : Nat) (lanes : BitVec 4) (good : Bool) : Mport :=
  if m.holds cs a && good then m
  else if m.isSdram cs then
    let kept := good && m.sdrKeeps
    { m with
      sdrHeld := Memory.writeLanes m.sdrHeld a lanes (if kept then 0x01010101 else 0)
      sdrLost := Memory.writeLanes m.sdrLost a lanes (if kept then 0 else 0x01010101) }
  else { m with sdrLost := Memory.writeLanes m.sdrLost a lanes (if good then 0 else 0x01010101) }

/-- The marks of a word after a store: of the data lanes, and of the check bits where `check` says so. -/
def Mport.hold (m : Mport) (cs : Fin 5) (a : Nat) (lanes : BitVec 4) (check good : Bool) : Mport :=
  let m := m.markLanes cs a lanes good
  if check && !(m.holdsCheck cs a && good) then m.markLanes cs (checkMark a) 1 good else m

/-- The access to an external word: its chip select and behaviour (R1150 to R1153). A block with T = 10 waits for the ACK that a
memory without ACK, and an address where nothing is, never give (R243, R1215); one byte of the word that gives it is enough (DESIGN
CHOICE, log 22). -/
def State.extAccess (s : State) (a : Nat) : Except Fault (Fin 5 × ExtAccess) :=
  match s.mport.chipSelect a with
  | none => .error .chipSelectOverlap
  | some cs =>
    let t : BitVec 2 := fieldOf s.mport.cscon[cs] 21 2
    if s.mport.isSdram cs then
      if 5 ≤ (fieldOf s.mport.sdrcon 0 3).toNat then .error .sdramPageSizeReserved
      else .ok (cs, if s.mport.sdrOpen then .normal else .notReady)
    else if s.ackLanes a = 0 ∧ t = 2 ∧ cs ≠ 3 then .ok (cs, .timeout)
    else .ok (cs, .normal)

/-- OVER set by an access that got no ACK (R243). -/
def State.setOver (s : State) : State :=
  { s with mport := { s.mport with cscon := s.mport.cscon.set 3 (putBit s.mport.cscon[3] 31 true) } }

/-- A word of which only some lanes hold something; the others are unspecified. -/
def partialWord (lanes : BitVec 4) (w : Word) (s : State) : Res Word :=
  if lanes = 0xF then .ok w s else .ok (mergeBits (laneMask lanes) w s.freeWord) s.drawn
/-- Check bits that nothing holds, as mode 10 reads them (R283). -/
def anyCheckBits (s : State) : Res Word := .ok (zext (fieldOf s.freeWord 0 7)) s.drawn

/-- A word of external memory (R416, R282, R283, R1151 to R1154); bytes where nothing is, and bytes and check bits that SDRAM does not
hold, are unspecified. Of a 64-bit block only the half that is read is checked (DESIGN CHOICE, log 23). -/
def extRead (a : Nat) (s : State) : Res Word :=
  match s.extAccess a with
  | .error f => .fault f
  | .ok (cs, acc) =>
    let there := s.presentLanes a
    if cs = 3 ∧ (isSet s.ecc.ext.csr 4 ∨ s.params.bytePin) then partialWord there (s.rawWord a) s
    else if s.ecc.ext.mode = 3 then .fault .eccModeReserved
    else match acc with
      | .timeout => anyWord s.setOver
      | .notReady => if s.ecc.ext.mode = 2 then anyCheckBits s else anyWord s
      | .normal =>
        if s.ecc.ext.mode = 2 then
          if s.mport.holdsCheck cs a && there != 0 then protRead .ext a s else anyCheckBits s
        else (protRead .ext a s).andThen (partialWord (s.mport.heldLanes cs a &&& there))

/-- The state after a change of what SDRAM holds. -/
def State.holdSdram (s : State) (cs : Fin 5) (a : Nat) (lanes : BitVec 4) (check good : Bool) : State :=
  { s with mport := s.mport.hold cs a lanes check good }

/-- What a store to external memory gives a value by the mode of its controller: data, data and check bits, or check bits (R283); the
check bits only where `check` says that a store changes them. -/
def State.holdStored (s : State) (cs : Fin 5) (a : Nat) (lanes : BitVec 4) (check : Bool) : State :=
  match s.ecc.ext.mode with
  | 0#2 => s.holdSdram cs a lanes false true
  | 1#2 => s.holdSdram cs a lanes check true
  | _ => s.holdSdram cs a 0 check true

/-- The lane of a store over the 8-bit path of block 3: its own byte of SB, the byte that CSCON3.ADDR names of every
other store (R1156). -/
def State.byteLanes (s : State) (q : StoreReq) : BitVec 4 :=
  if q.sb then q.lanes else 1#4 <<< (fieldOf s.mport.cscon[3] 20 2 : BitVec 2).toNat

/-- A byte stored over the 8-bit path of block 3, by the mode of its controller (R282, R283): it goes to the data block, in mode 01 with
check bits of the encoder beside it, unspecified (U49), and in mode 10 to the check-bit block alone. No read precedes it: with BYTE = 1
block 3 is read without a check, so there is nothing to correct or log (R282; DEDUCED, log 23). ROM discards the byte (R416). -/
def byteWrite (a : Nat) (lanes : BitVec 4) (b : Byte) (s : State) : Res Unit :=
  let ram := s.ramLanes a
  let stored := s.storeRaw a (lanes &&& ram) (b ++ b ++ b ++ b)
  match s.ecc.ext.mode with
  | 0#2 => .done stored
  | 1#2 => .done (stored.storeCheck ram a (s.freeWord.setWidth 7)).drawn
  | 2#2 => .done (s.storeCheck ram a (fieldOf b 0 7))
  | _ => .fault .eccModeReserved

/-- A store to external memory (R416, R1156): bytes of ROM, and those where nothing is, stay as they are, while the controller does for
them what it does for RAM (R282); an access without ACK is lost; SDRAM that may not be touched holds an unspecified value afterwards
(log 22). -/
def extWrite (a : Nat) (q : StoreReq) (s : State) : Res Unit :=
  match s.extAccess a with
  | .error f => .fault f
  | .ok (cs, acc) =>
    let ram := s.ramLanes a
    if s.ecc.ext.mode = 3 then .fault .eccModeReserved
    else match acc with
      | .normal =>
        if cs = 3 ∧ s.params.bytePin then byteWrite a (s.byteLanes q) q.low s
        else (protStore .ext a q.lanes ram q.data s).andThen fun _ s => .done (s.holdStored cs a (q.lanes &&& ram) (ram != 0))
      | .timeout => .done s.setOver
      | .notReady => .done (s.holdSdram cs a (q.lanes &&& ram) (ram != 0) false)

end Sys2Proof.Machine
end

