-- ==== Sys2Proof/Machine/DspMem.lean ====
section
/-! DEFINITION. DspMem: the DSP's memories as the CPU and DMA see them (spec R146 to R148, R415, R888), CRAM (R412), and the
memory-only bus of the DMA channels (R413, R418). -/

namespace Sys2Proof.Machine

open Sys2Proof

/-- Is a byte address in XRAM or YRAM (R147)? -/
def inDspData (a : Nat) : Bool := decide (0x18400000 ≤ a) && decide (a < 0x18440000)
/-- Is a byte address in PRAM (R147)? -/
def inDspPram (a : Nat) : Bool := decide (0x18440000 ≤ a) && decide (a < 0x18444000)
/-- Is a byte address in CRAM (R412)? -/
def inCram (a : Nat) : Bool := decide (0x18000000 ≤ a) && decide (a < 0x18008000)
/-- The Hamming controller of an access to CRAM, of DMA or of the CPU: that of its port (R280), or with the parameter `cramHalves` that
of the half it reaches (R412; DESIGN CHOICE, log 23). -/
def State.cramUnit (s : State) (dma : Bool) (a : Nat) : EccUnit :=
  if (if s.params.cramHalves then decide (0x18004000 ≤ a) else dma) then .cramB else .cramA
/-- Is a byte address in the internal area (R410)? -/
def inInternal (a : Nat) : Bool := decide (0x18000000 ≤ a) && decide (a < 0x1C000000)

/-- Is the DSP in state RUN (R141)? -/
def Dsp.inRun (d : Dsp) : Bool := isSet d.dcsr 14 && !isSet d.dcsr 1 && !isSet d.dcsr 2 && !isSet d.dcsr 3
/-- Is the DSP in state RUN with its clock on (R141, R1050)? -/
def State.dspRunning (s : State) : Bool := s.dsp.inRun && isSet s.sys.clkEn 4

/-! ## Forbidden concurrency (R148, log 24)

Accesses of the CPU or DMA between the beginning and the end of a DSP instruction are simultaneous with it. -/

/-- The page bit of an address in XRAM or YRAM: X1, X2, Y1, Y2 (R147); none elsewhere. -/
def dataPage (a : Nat) : BitVec 4 := if inDspData a then 1#4 <<< ((a - 0x18400000) / 0x10000) else 0

/-- Does a read from outside meet a write of the DSP instruction in execution in its page? -/
def State.readRace (s : State) (a : Nat) : Bool := s.dspRunning && dataPage a &&& s.dsp.pageWrites != 0
/-- Does a write from outside meet the running DSP: an access of the instruction in execution in the page, or PRAM? -/
def State.writeRace (s : State) (a : Nat) : Bool :=
  s.dspRunning && (dataPage a &&& (s.dsp.pageReads ||| s.dsp.pageWrites) != 0 || inDspPram a)
/-- A read from outside noted for the DSP instruction in execution. -/
def State.noteExtRead (s : State) (a : Nat) : State :=
  if s.dsp.inFlight.isNone then s
  else { s with dsp := { s.dsp with extReads := s.dsp.extReads ||| dataPage a } }
/-- A write from outside noted for the DSP instruction in execution. -/
def State.noteExtWrite (s : State) (a : Nat) : State :=
  if s.dsp.inFlight.isNone then s
  else { s with dsp := { s.dsp with extWrites := s.dsp.extWrites ||| dataPage a } }

/-- A word of DSP memory read from outside, through controller He (R150); any value in a race (U34). -/
def dspMemRead (a : Nat) (s : State) : Res Word :=
  (protRead (.dsp 0) a (s.noteExtRead a)).andThen fun w t =>
    if s.readRace a then anyWord t else .ok w t

/-- One cell of DSP memory written from outside; a race leaves any value (U34). -/
def dspCellWrite (a : Nat) (v : Word) (s : State) : Res Unit :=
  if s.writeRace a then protWrite (.dsp 0) a 0xF s.freeWord (s.noteExtWrite a).drawn
  else protWrite (.dsp 0) a 0xF v (s.noteExtWrite a)

/-- A word of DSP memory written from outside: broadcast with SR.BC (R888). -/
def dspMemWrite (a : Nat) (v : Word) (s : State) : Res Unit :=
  if inDspData a && isSet s.dsp.sr 12 then
    (dspCellWrite a v s).andThen fun _ s => dspCellWrite (a ^^^ 4) v s
  else dspCellWrite a v s

/-! ## CRAM and the bus of the DMA channels -/

/-- Is the CPU forbidden to read CRAM because a DMA channel writes there (R412, R1128, U53): in the burst it is moving, whatever RUN
and the clock say meanwhile, or in the next one? A burst of a port keeps its direction once it moves, and while its MFBSP is off; a
Flyby transfer writes memory only towards it, at IR0 (R1126). -/
def State.dmaWritesCram (s : State) : Bool :=
  let gate (c : Nat) : Bool :=
    isSet s.sys.clkEn (if c < 4 then 24 else if c < 8 then 25 else if c < 12 then 8 else 12)
  (List.finRange 16).any fun c =>
    let ch := s.dma.channels[c]
    let dir := isSet ch.csr 1
    let port := s.mfbsp[c.val % 4].csr
    let moving := ch.burstLeft != 0 && !ch.burstPending
    let toMemory : Bool :=
      if 12 ≤ c.val then !isSet ch.csr 11 || dir
      else if moving then !ch.outward
      else if 8 ≤ c.val then !(isSet port 1 || (ch.burstPending && ch.outward && !isSet port 0 && !isSet port 9))
      else c.val % 4 < 2
    let dst := if 12 ≤ c.val ∧ !dir then ch.ir1 else ch.ir0
    (moving || (gate c.val && (isSet ch.csr 0 || ch.burstLeft != 0))) && toMemory && inCram dst.toNat

/-- A word read by a DMA channel: memories only (R413); reserved addresses read as unspecified (R414, D21). External memory answers with
the core clock off too, which stops MPORT (R1186; DESIGN CHOICE, log 13). -/
def dmaRead (pa : Word) (s : State) : Res Word :=
  let a := wordAddr pa
  if inCram a then protRead (s.cramUnit true a) a s
  else if inDspData a || inDspPram a then dspMemRead a s
  else if inInternal a then anyWord s
  else extRead a s

/-- A word written by a DMA channel (R413); stores to reserved addresses are discarded (R414, D21). In the 8-bit
block of nCS[3] the word stores one byte, like Store Word, which the spec says of the CPU only (R1156; DESIGN CHOICE, log 30).
External memory takes it with the core clock off too (R1186; DESIGN CHOICE, log 13). -/
def dmaWrite (pa : Word) (v : Word) (s : State) : Res Unit :=
  let a := wordAddr pa
  if inCram a then protWrite (s.cramUnit true a) a 0xF v s
  else if inDspData a || inDspPram a then dspMemWrite a v s
  else if inInternal a then .done s
  else extWrite a (.word v) s

/-- The error code of a word, 0 without an injected error (R285). -/
def Ecc.codeAt (e : Ecc) (a : Nat) : BitVec 2 :=
  match e.faultAt a with
  | some f => f.code
  | none => 0

/-- The error FIFO of controller He after a 64-bit read at a (R152): when both words are wrong, one entry with both codes.
s is the state before the read and t the state after it. -/
def State.joinErrors (s t : State) (a : Nat) : State :=
  let he := s.ecc.ctl (.dsp 0)
  let lo := s.ecc.codeAt a
  let hi := s.ecc.codeAt (a + 4)
  if he.mode = 1 ∧ lo ≠ 0 ∧ hi ≠ 0 then
    let entry := putField (EccUnit.entry (.dsp 0) a lo) 26 hi
    { t with ecc := t.ecc.setCtl (.dsp 0) { t.ecc.ctl (.dsp 0) with fifo := (he.push (.dsp 0) entry).fifo } }
  else t

/-- A 64-bit word read by a DMA channel, low half first (R417, R152). -/
def dmaRead64 (pa : Word) (s : State) : Res Dword :=
  let a := wordAddr pa
  (dmaRead pa s).andThen fun lo t => (dmaRead (pa + 4) t).andThen fun hi t =>
    .ok (hi ++ lo) (if inDspData a || inDspPram a then s.joinErrors t a else t)

/-- A 64-bit word written by a DMA channel, low half first (R417). A 64-bit write is not broadcast (R888). -/
def dmaWrite64 (pa : Word) (v : Dword) (s : State) : Res Unit :=
  let half (p : Word) (w : Word) (s : State) : Res Unit :=
    if inDspData (wordAddr p) then dspCellWrite (wordAddr p) w s else dmaWrite p w s
  (half pa (fieldOf v 0 32) s).andThen fun _ s => half (pa + 4) (fieldOf v 32 32) s

end Sys2Proof.Machine
end

