-- ==== Sys2Proof/Machine/Mfbsp.lean ====
section
/-! DEFINITION. Mfbsp: the multifunction buffered serial ports: registers, requests, buffers, moves and the DMA side
(spec R350 to R368, R1180 to R1182, D46). -/

namespace Sys2Proof.Machine

open Sys2Proof

/-- CSR_MFBSP.LEN (R355). -/
def Mfbsp.len (m : Mfbsp) : Bool := isSet m.csr 0
/-- CSR_MFBSP.LTRAN (R355). -/
def Mfbsp.ltran (m : Mfbsp) : Bool := isSet m.csr 1
/-- CSR_MFBSP.SPI_I2S_EN (R355). -/
def Mfbsp.serial (m : Mfbsp) : Bool := isSet m.csr 9
/-- Is a controller of the port on (R352)? -/
def Mfbsp.on (m : Mfbsp) : Bool := m.len || m.serial
/-- LEN = 1 together with SPI_I2S_EN = 1 (R352, U52). -/
def Mfbsp.clash (m : Mfbsp) : Bool := m.len && m.serial

/-- 32-bit words the buffers in use hold (R363); with no controller on, those of the serial one (DESIGN CHOICE, log 31). -/
def Mfbsp.capacity (m : Mfbsp) : Nat := if m.len then 8 else 4
/-- The transmit buffer of the active controller (R363): a link port that receives shows an empty one, whatever `l_buf` holds (R368;
DESIGN CHOICE, log 31). -/
def Mfbsp.txWords (m : Mfbsp) : List Word := if m.len then (if m.ltran then m.lBuf else []) else m.txBuf
/-- The receive buffer of the active controller (R363): a link port that transmits shows an empty one, whatever `l_buf` holds (R368;
DESIGN CHOICE, log 31). -/
def Mfbsp.rxWords (m : Mfbsp) : List Word := if m.len then (if m.ltran then [] else m.lBuf) else m.rxBuf
/-- 64-bit words in the transmit buffer (R364); an odd 32-bit word does not count, so that TB_DIFF counts its position as free
(log 31). -/
def Mfbsp.txCount (m : Mfbsp) : Nat := m.txWords.length / 2
/-- 64-bit words in the receive buffer (R365); an odd 32-bit word does not count (log 31). -/
def Mfbsp.rxCount (m : Mfbsp) : Nat := m.rxWords.length / 2

/-- CSR_MFBSP as it reads (R355). -/
def Mfbsp.readCsr (m : Mfbsp) : Word :=
  let b := if m.ltran then m.txWords else m.rxWords
  let lstat : BitVec 2 := if b.isEmpty then 0 else if m.capacity ≤ b.length then 3 else 2
  putField (putBit m.csr 5 m.lrerr) 3 lstat

/-- TSR as it reads (R362). "Half full" is at least half of the 32-bit words, a full buffer included (DESIGN CHOICE, log 31). -/
def Mfbsp.readTsr (m : Mfbsp) : Word :=
  let n := m.txCount
  putField m.tsr 20 (BitVec.ofNat 3 (m.capacity / 2 - n)) ||| bitAt (m.txShift.isSome || m.txHalf.isSome) 10 |||
  bitAt (decide (2 ≤ m.txSync.length)) 8 ||| bitAt m.txSync.isEmpty 7 |||
  bitAt (decide (n ≤ (fieldOf m.tsr 4 3).toNat)) 3 ||| bitAt (decide (m.capacity ≤ 2 * m.txWords.length)) 2 |||
  bitAt (decide (m.capacity ≤ m.txWords.length)) 1 ||| bitAt m.txWords.isEmpty 0

/-- RSR as it reads (R361); the resynchronisation buffer of the link port is not shown (R363). "Half full" as for TSR (log 31). -/
def Mfbsp.readRsr (m : Mfbsp) : Word :=
  let n := m.rxCount
  let sync := if m.len then [] else m.rxSync
  putField m.rsr 20 (BitVec.ofNat 3 n) ||| bitAt (m.rxRun || m.rxHalf.isSome) 10 |||
  bitAt (decide (2 ≤ sync.length)) 8 ||| bitAt sync.isEmpty 7 ||| bitAt (decide ((fieldOf m.rsr 4 3).toNat < n)) 3 |||
  bitAt (decide (m.capacity ≤ 2 * m.rxWords.length)) 2 ||| bitAt (decide (m.capacity ≤ m.rxWords.length)) 1 |||
  bitAt m.rxWords.isEmpty 0

/-- A load of an MFBSP register; an empty receive buffer gives an unspecified word (R354, D46). GPIO_DR goes by DIR_MFBSP for every pin in
every mode, also for pins that the mode does not leave to it (R358, R353; DESIGN CHOICE, log 31). -/
def Mfbsp.read (m : Mfbsp) (free : Word) (off : Nat) : Word :=
  match off with
  | 0x00 => m.rxWords.headD free
  | 0x04 => m.readCsr
  | 0x08 => zext m.dir
  | 0x0C => zext (mergeBits m.dir m.gpio m.sampled)
  | 0x10 => m.tctr
  | 0x14 => m.rctr
  | 0x18 => m.readTsr
  | 0x1C => m.readRsr
  | _ => 0

/-- The armed buffer requests after a change of fill (R364, R365). -/
def Mfbsp.settle (m : Mfbsp) : Mfbsp :=
  let m :=
    if m.txArmed then
      if m.txCount < m.txSeen then { m with txArmed := false } else { m with txSeen := m.txCount }
    else m
  if m.rxArmed then
    if m.rxSeen < m.rxCount then { m with rxArmed := false } else { m with rxSeen := m.rxCount }
  else m

/-- MFBSP_TXBUF (R364). -/
def Mfbsp.txRequest (m : Mfbsp) : Bool :=
  !m.txArmed && ((m.len && m.ltran) || (isSet m.tctr 0 && m.serial)) && isSet m.csr 16 &&
  (decide (m.txCount ≤ (fieldOf m.tsr 4 3).toNat) || isSet m.tsr 9)

/-- MFBSP_RXBUF (R365). -/
def Mfbsp.rxRequest (m : Mfbsp) : Bool :=
  !m.rxArmed && ((m.len && !m.ltran) || (isSet m.rctr 0 && m.serial)) && isSet m.csr 15 &&
  (decide ((fieldOf m.rsr 4 3).toNat < m.rxCount) || isSet m.rsr 9)

/-- SRQ (R366): pins LACK (bit 0) or LCLK (bit 1) high while the port is off. -/
def Mfbsp.srq (m : Mfbsp) : Bool :=
  isSet m.csr 10 && !m.len && !m.serial && (isSet m.pins 0 || isSet m.pins 1)

/-- Words of the resynchronisation buffers moved into the receive buffers while these have room (R363): at once with the arrival
of a word and with the reading of one, which the spec leaves open (log 31). -/
def Mfbsp.drainRx (m : Mfbsp) : Mfbsp :=
  let k := 4 - m.rxBuf.length
  let j := if m.ltran then 0 else 8 - m.lBuf.length
  { m with rxBuf := m.rxBuf ++ m.rxSync.take k, rxSync := m.rxSync.drop k,
           lBuf := m.lBuf ++ m.lSync.take j, lSync := m.lSync.drop j }

/-- Words of the transmit buffer moved into its resynchronisation buffer (R363): at a transmit move only, so that TSBE stays 1
before the first one, which the spec leaves open (log 31). -/
def Mfbsp.fillTx (m : Mfbsp) : Mfbsp :=
  let k := 2 - m.txSync.length
  { m with txSync := m.txSync ++ m.txBuf.take k, txBuf := m.txBuf.drop k }

/-- One word leaves the receive buffer (R354). -/
def Mfbsp.popRx (m : Mfbsp) : Mfbsp :=
  let m := if m.len then (if m.ltran then m else { m with lBuf := m.lBuf.tail }) else { m with rxBuf := m.rxBuf.tail }
  m.drainRx.settle

/-- One word appended to the transmit buffer of the active controller; a full buffer loses it (R354, D46), and so do a port with no
controller on and a link port that receives (DESIGN CHOICE, log 31). -/
def Mfbsp.pushTx (m : Mfbsp) (v : Word) : Mfbsp :=
  let m :=
    if m.len then
      if m.ltran && decide (m.lBuf.length < 8) then { m with lBuf := m.lBuf ++ [v] } else m
    else if m.serial && decide (m.txBuf.length < 4) then { m with txBuf := m.txBuf ++ [v] } else m
  m.settle

/-- The side effects of a load (R354, R361, R362). -/
def Mfbsp.readEffect (m : Mfbsp) (off : Nat) : Mfbsp :=
  match off with
  | 0x00 => m.popRx
  | 0x18 => { m with txArmed := true, txSeen := m.txCount }
  | 0x1C => { m with rxArmed := true, rxSeen := m.rxCount }
  | _ => m

/-- A high LCLK or LACK marks a service request while the port is off (R366). -/
def Mfbsp.noteService (m : Mfbsp) : Mfbsp :=
  if m.on then m else { m with csr := m.csr ||| bitAt (isSet m.pins 1) 8 ||| bitAt (isSet m.pins 0) 7 }

/-- A store to CSR_MFBSP (R355, R366): switching a controller off, or the link port round, drops the word that is moving; switching
one off empties its buffers; LEN = 1 clears the service bits. LTRAN changed with LEN left at 1 keeps the words of `l_buf`, which
then belong to the other direction, and those of the receiver's resynchronisation buffer, which stay there until the port receives
again (DESIGN CHOICE, log 31). -/
def Mfbsp.storeCsr (m : Mfbsp) (v : Word) : Mfbsp :=
  let v := v &&& 0xC001FFC7
  let goesOn := (m.serial && isSet v 9) || (m.len && isSet v 0 && isSet v 1 == m.ltran)
  let m := { m with csr := if isSet v 0 then v &&& 0xFFFFFE7F else v }
  let m := if goesOn then m else { m with txShift := none, rxRun := false }
  let m :=
    if isSet v 9 then m
    else
      { m with txBuf := [], txSync := [], rxBuf := [], rxSync := [], rxHalf := none, txHalf := none, rxCredit := 0 }
  let m := if isSet v 0 then m else { m with lBuf := [], lSync := [], lrerr := false }
  m.noteService.drainRx.settle

/-- Is the receiver's clock or frame a copy of the transmitter's (R359)? -/
def Mfbsp.copies (m : Mfbsp) : Bool := isSet m.rctr 2 || isSet m.rctr 3

/-- A store to TCTR (R360): with TEN cleared no word is being sent, nor received in step with it; the buffer is kept intact,
although R363 lets it be corrupt with TDEL = 1 (log 31). -/
def Mfbsp.storeTctr (m : Mfbsp) (v : Word) : Mfbsp :=
  let m := { m with tctr := v &&& 0xFBFDFFFF }
  if m.serial && !isSet v 0 then
    { m with txShift := none, txHalf := none, rxRun := m.rxRun && !(m.copies && m.rxCredit == 0) }
  else m

/-- Does the receiver pack two samples into one word (R359, RPACK)? -/
def Mfbsp.packs (m : Mfbsp) : Bool := isSet m.rctr 25 && !isSet m.rctr 1

/-- A store to RCTR (R359): with REN cleared no word is being received, without the packer no half word waits, and only an enabled
receiver with copied control signals stays in step with the transmitter. -/
def Mfbsp.storeRctr (m : Mfbsp) (v : Word) : Mfbsp :=
  let m := { m with rctr := v &&& 0x3FFDFFFF }
  let m := if isSet v 0 && m.copies then m else { m with rxCredit := 0 }
  let m := if m.packs then m else { m with rxHalf := none }
  if m.serial && !isSet v 0 then { m with rxRun := false, rxHalf := none } else m

/-- A store to an MFBSP register (R351 to R363). -/
def Mfbsp.write (m : Mfbsp) (off : Nat) (v : Word) : Mfbsp :=
  match off with
  | 0x00 => m.pushTx v
  | 0x04 => m.storeCsr v
  | 0x08 => { m with dir := fieldOf v 0 10 }
  | 0x0C => { m with gpio := fieldOf v 0 10 }
  | 0x10 => m.storeTctr v
  | 0x14 => m.storeRctr v
  | 0x18 => { m with tsr := (v &&& 0x0F01F070) ||| bitAt (isSet m.tsr 9 && isSet v 9) 9 }
  | 0x1C => { m with rsr := (v &&& 0x0F01F070) ||| bitAt (isSet m.rsr 9 && isSet v 9) 9 }
  | _ => m

/-! ## Moves of the port -/

/-- A word cut to its length (TWORDLEN + 1 bits, R360). -/
def cutWord (v : Word) (lenMinusOne : BitVec 5) : Word :=
  v &&& (0xFFFFFFFF#32 >>> (31 - lenMinusOne.toNat))

/-- A received word with its unused high bits filled (R359, RSIGN). -/
def fillWord (v : Word) (lenMinusOne : BitVec 5) (sign : Bool) : Word :=
  let c := cutWord v lenMinusOne
  if sign && isSet v lenMinusOne.toNat then c ||| ~~~(0xFFFFFFFF#32 >>> (31 - lenMinusOne.toNat)) else c

/-- A word sent is logged (R350). -/
def Mfbsp.emit (m : Mfbsp) (time : Nat) (v : Word) : Mfbsp := { m with sent := m.sent ++ [(time, v)] }

/-- Are the transmitter's clock and frame its own (R357)? -/
def Mfbsp.ownTx (m : Mfbsp) : Bool := isSet m.dir 1 && isSet m.dir 3
/-- Does a pin carry what the transmitter sends: TD or RD is an output (R357)? -/
def Mfbsp.driven (m : Mfbsp) : Bool := isSet m.dir 5 || isSet m.dir 4

/-- A sample on the line: logged when a pin carries it, and matched by a receiver in step with it. -/
def Mfbsp.sample (m : Mfbsp) (time : Nat) (v : Word) : Mfbsp :=
  let m := if isSet m.rctr 0 && m.copies then { m with rxCredit := m.rxCredit + 1 } else m
  if m.driven then m.emit time (cutWord v (fieldOf m.tctr 20 5)) else m

/-- A buffer word in the transmitter: with the unpacker its left half is sent first, then its right half (R360). -/
def Mfbsp.loadTx (m : Mfbsp) (v : Word) : Mfbsp :=
  if isSet m.tctr 25 && !isSet m.tctr 1 then
    let left : Half := if isSet m.tctr 27 then fieldOf v 0 16 else fieldOf v 16 16
    let right : Half := if isSet m.tctr 27 then fieldOf v 16 16 else fieldOf v 0 16
    { m with txShift := some (zext left), txHalf := some right }
  else { m with txShift := some v }

/-- The serial transmitter starts a word: the second half of a packed one, or the next one. An external clock or frame that finds
`tx_sync` empty sets TERR and sends an unspecified word (R363; the buffers are kept intact, log 31); TERR rising ends an armed
request (R364). -/
def Mfbsp.startSerial (m : Mfbsp) (free : Word) : Mfbsp :=
  match m.txHalf with
  | some h => { m with txHalf := none, txShift := some (zext h) }
  | none =>
    let m := m.fillTx
    match m.txSync with
    | v :: rest => ({ m with txSync := rest }.loadTx v).fillTx.settle
    | [] =>
      if m.ownTx then m.settle
      else { m with tsr := putBit m.tsr 9 true, txArmed := m.txArmed && isSet m.tsr 9 }.loadTx free

/-- A word enters the serial receive side; with the resynchronisation buffer full it is lost and RERR is set (R363; the buffers are
kept intact, log 31). -/
def Mfbsp.enterRx (m : Mfbsp) (v : Word) : Mfbsp :=
  let m := m.drainRx
  if m.rxSync.length < 2 then { m with rxSync := m.rxSync ++ [v] }.drainRx.settle
  else { m with rsr := putBit m.rsr 9 true }

/-- Does the transmitter's clock and frame go on without words: external, or continuous in I2S (R357, R360)? -/
def Mfbsp.txContinuous (m : Mfbsp) : Bool :=
  isSet m.tctr 0 && (!isSet m.dir 1 || (!isSet m.tctr 1 && isSet m.tctr 28)) &&
  (!isSet m.dir 3 || (!isSet m.tctr 1 && isSet m.tctr 29))

/-- Does the receiver's own clock or frame stand still because the receive buffer is full (R359, RCLK_CONT, RCS_CONT)? -/
def Mfbsp.rxHalted (m : Mfbsp) : Bool :=
  !isSet m.rctr 1 && decide (4 ≤ m.rxBuf.length) &&
  ((isSet m.dir 0 && !isSet m.rctr 2 && !isSet m.rctr 28) || (isSet m.dir 2 && !isSet m.rctr 3 && !isSet m.rctr 29))

/-- Does a sample begin to come in at the serial receiver: enabled, its clock running, and the transmitter sending where the
control signals are copies (R359)? -/
def Mfbsp.rxStarts (m : Mfbsp) : Bool :=
  isSet m.rctr 0 && !m.drainRx.rxHalted && (!m.copies || m.txContinuous || m.txShift.isSome || decide (0 < m.rxCredit))

/-- Can the serial receiver take a sample now: enabled, its clock running, and in step with the transmitter where its control
signals are copies (R359)? -/
def Mfbsp.rxReady (m : Mfbsp) : Bool :=
  isSet m.rctr 0 && !m.drainRx.rxHalted && (!m.copies || m.txContinuous || decide (0 < m.rxCredit))

/-- The serial receiver takes one sample (R1180, R359); with both data pins outputs it has no input and what it receives is
unspecified (R357). Of the two samples that the packer joins the first is the left one, whatever RCSNEG says (DESIGN CHOICE, log 31). -/
def Mfbsp.serialRx (m : Mfbsp) (v free : Word) : Mfbsp :=
  if !m.rxReady then m
  else
    let v := if isSet m.dir 5 && isSet m.dir 4 then free else v
    let w := fillWord v (fieldOf m.rctr 20 5) (isSet m.rctr 26)
    let m := { m with rxRun := false, rxCredit := m.rxCredit - 1 }
    if m.packs then
      match m.rxHalf with
      | none => { m with rxHalf := some (fieldOf w 0 16) }
      | some left =>
        let right : Half := fieldOf w 0 16
        { m with rxHalf := none }.enterRx (if isSet m.rctr 27 then right ++ left else left ++ right)
    else m.enterRx w

/-- A word begins to leave the port (R362, TRUN; R1180); from the link port while the far end keeps LACK high (R1181). -/
def Mfbsp.startTransmit (m : Mfbsp) (free : Word) : Mfbsp :=
  if m.txShift.isSome then m
  else if m.serial then (if isSet m.tctr 0 then m.startSerial free else m)
  else if m.len && m.ltran && isSet m.pins 0 then
    match m.lBuf with
    | v :: rest => { m with lBuf := rest, txShift := some v }.settle
    | [] => m
  else m

/-- A word begins to arrive at the port (R361, RRUN). -/
def Mfbsp.startReceive (m : Mfbsp) : Mfbsp :=
  { m with rxRun := m.rxRun || (if m.serial then m.rxStarts else m.len && !m.ltran && decide (m.lSync.length < 2)) }

/-- A word leaves the port, one that is not yet begun too (R1180, R1181). -/
def Mfbsp.transmit (m : Mfbsp) (time : Nat) (free : Word) : Mfbsp :=
  let m := m.startTransmit free
  match m.txShift with
  | none => m
  | some v =>
    let m := { m with txShift := none }
    if m.serial then m.sample time v else m.emit time v

/-- A word arrives at the port; a full link receiver holds the far end off (R1180, R1181). -/
def Mfbsp.receive (m : Mfbsp) (v free : Word) : Mfbsp :=
  if m.serial then m.serialRx v free
  else if m.len && !m.ltran then
    if m.lSync.length < 2 then { m with lSync := m.lSync ++ [v], rxRun := false }.drainRx.settle else m
  else m

/-- Levels of the pins change (R366). -/
def Mfbsp.setPins (m : Mfbsp) (v : BitVec 10) : Mfbsp := { m with pins := v }.noteService

/-- An incomplete word at the link receiver (R355, LRERR). -/
def Mfbsp.badWord (m : Mfbsp) : Mfbsp := if m.len && !m.ltran then { m with lrerr := true, rxRun := false } else m

/-- One CLK tick: the input pins are sampled (R358). -/
def Mfbsp.tick (m : Mfbsp) : Mfbsp := { m with sampled := m.pins }

/-! ## The DMA side (R356, R367, R1127) -/

/-- The largest burst of the port in 64-bit words (R367). -/
def Mfbsp.maxBurst (m : Mfbsp) : Nat := if m.len then 4 else 1
/-- The ready flag for a burst of n words from memory to the port (out) or back (R367): room for it with the fill level at
TLEV or below (R362), or n words waiting; forced by RX_RDY_MODE and TX_RDY_MODE (R355). -/
def Mfbsp.dmaReady (m : Mfbsp) (out : Bool) (n : Nat) : Bool :=
  if out then
    isSet m.csr 31 || (m.on && decide (m.txCount ≤ (fieldOf m.tsr 4 3).toNat) &&
      decide (m.txWords.length + 2 * n ≤ m.capacity))
  else isSet m.csr 30 || (m.on && decide (n ≤ m.rxCount))
/-- A 64-bit word taken by DMA, low word first; missing words are unspecified (R1140). -/
def Mfbsp.take64 (m : Mfbsp) (free : Dword) : Dword × Mfbsp :=
  let lo := m.rxWords.headD (fieldOf free 0 32)
  let m := m.popRx
  let hi := m.rxWords.headD (fieldOf free 32 32)
  (hi ++ lo, m.popRx)
/-- A 64-bit word given by DMA, low word first. -/
def Mfbsp.give64 (m : Mfbsp) (d : Dword) : Mfbsp := (m.pushTx (fieldOf d 0 32)).pushTx (fieldOf d 32 32)

end Sys2Proof.Machine
end

