-- ==== Sys2Proof/Machine/Swic.lean ====
section
/-! DEFINITION. Swic: the SpaceWire controllers: registers, requests, link events, receive and transmit moves and the DMA
side (spec R320 to R335, R1175 to R1177, D48, D49). -/

namespace Sys2Proof.Machine

open Sys2Proof

/-- Capacity of the receive and transmit buffers in characters (R335; the transmit side is log 29). -/
def swicDepth : Nat := 256

/-- STATUS (R323). -/
def Swic.status (w : Swic) : Word :=
  bitAt w.bcc01 22 ||| bitAt w.bcc11 21 ||| bitAt (w.gotTime || w.gotInt || w.gotPoll) 20 |||
  bitAt (w.errors != 0) 19 ||| bitAt w.linkCause 18 ||| bitAt w.flControl 17 ||| bitAt w.gotPoll 16 |||
  bitAt w.gotInt 15 ||| bitAt w.gotTime 14 ||| bitAt w.connected 13 ||| bitAt w.gotFirstBit 12 |||
  bitAt w.txFifo.isEmpty 11 ||| bitAt (decide (swicDepth ≤ w.txFifo.length)) 10 ||| bitAt w.rxFifo.isEmpty 9 |||
  bitAt (decide (swicDepth ≤ w.rxFifo.length)) 8 ||| zext w.dsState <<< 5 ||| zext w.errors

/-- The requests TIM, ERR, LINK as bits 2, 1, 0 (R330). -/
def Swic.requests (w : Swic) : BitVec 3 :=
  flag ((w.gotTime || w.gotInt || w.gotPoll) && isSet w.modeCr 20) ++ flag (w.errors != 0 && isSet w.modeCr 19) ++
  flag (w.linkCause && isSet w.modeCr 18)

/-- A load of a SWIC register (R321); write-only registers read 0. -/
def Swic.read (w : Swic) (off : Nat) : Word :=
  match off with
  | 0x00 => 3
  | 0x04 => w.status
  | 0x08 => w.rxCode
  | 0x18 => zext w.rxSpeed
  | 0x1C => w.cntRx
  | 0x20 => w.cntRx0
  | 0x24 => fieldOf w.isr 0 32
  | 0x28 => fieldOf w.isr 32 32
  | _ => 0

/-- A store to STATUS: bits written 1 are cleared (R323, R330). -/
def Swic.storeStatus (w : Swic) (v : Word) : Swic :=
  { w with
    bcc01 := w.bcc01 && !isSet v 22, bcc11 := w.bcc11 && !isSet v 21, gotPoll := w.gotPoll && !isSet v 16
    gotInt := w.gotInt && !isSet v 15, gotTime := w.gotTime && !isSet v 14
    connected := w.connected && !isSet v 13
    linkCause := w.linkCause && !(isSet v 13 || isSet v 12)
    errors := w.errors &&& ~~~(fieldOf v 0 4) }

/-- The receive side emptied (MODE_CR.RX_RST, R325), waiting descriptors and the count of the packet being received with it (DESIGN
CHOICE, log 29). -/
def Swic.clearRx (w : Swic) : Swic := { w with rxFifo := [], rxDesc := [], nChar := 0 }
/-- The transmit side emptied (MODE_CR.TX_RST, R325), TX_BYTE and the packet being sent with it (DESIGN CHOICE, log 29). -/
def Swic.clearTx (w : Swic) : Swic := { w with txFifo := [], txByte := 0, txType := none }

/-- A store to MODE_CR (R325, R335). TX_RST and RX_RST empty their buffers once, at the store, and do not hold them empty while they
stay 1, and DS_RST leaves GOT_FIRST_BIT, which nothing but a hardware reset clears. Of a link in Run, DS_RST and LinkDisabled end the
connection; WORK_TYPE = 0, or LinkStart = AutoStart = 0, leaves it in Run. A link held off by LinkDisabled shows ErrorReset, as R325 says
of DS_RST. The spec leaves all four open (DESIGN CHOICE, log 29). -/
def Swic.storeMode (w : Swic) (v : Word) : Swic :=
  let w := { w with modeCr := v &&& 0x001CFF7F }
  let w := if isSet v 5 || isSet v 0 then { w with dsState := 0 } else w
  let w := if isSet v 4 then w.clearTx else w
  if isSet v 3 then w.clearRx else w

/-- A store to a SWIC register (R321 to R331). A code stored to TX_CODE replaces one that has not gone out, which R1177 allows
(DESIGN CHOICE, log 29). -/
def Swic.write (w : Swic) (off : Nat) (v : Word) : Swic :=
  match off with
  | 0x04 => w.storeStatus v
  | 0x0C => w.storeMode v
  | 0x10 =>
    let mask : Word := if isSet w.modeCr 14 then 0x00FFFFFF else 0x000FFFFF
    { w with txSpeed := mergeBits mask v w.txSpeed &&& 0x00FFFFFF }
  | 0x14 => { w with txCode := fieldOf v 0 8, flControl := true }
  | 0x1C => { w with cntRx := 0 }
  | 0x20 => { w with cntRx0 := 0 }
  | 0x24 => { w with isr := fieldOf w.isr 32 32 ++ v }
  | 0x28 => { w with isr := v ++ fieldOf w.isr 0 32 }
  | _ => w

/-- Is the link in state Run (R323)? -/
def Swic.inRun (w : Swic) : Bool := w.dsState == 5

/-- The speed code, PLL_TX_EN and LVDS_EN of TX_SPEED in force, those of the connection with AUTO_TX_SPEED = 1 before Run, as bits 7:0,
8 and 9 (R325, R326). -/
def Swic.txControl (w : Swic) : BitVec 10 := fieldOf w.txSpeed (if isSet w.modeCr 15 && !w.inRun then 10 else 0) 10

/-- The bit rate of the transmitter from its clock f_XTI2, in the unit of that (R320, R326): f_XTI2 for code 0 and twice the code times
f_XTI2 for another one, as the table gives it for 2.5 MHz (DEDUCED, log 43); 0 with the PLL or the drivers off. It leaves the chip as
the clock of the link and acts on nothing in it. -/
def Swic.txRate (w : Swic) (fXti2 : Nat) : Nat :=
  let c := w.txControl
  let n := (fieldOf c 0 8 : Byte).toNat
  if isSet c 8 && isSet c 9 then (if n = 0 then fXti2 else 2 * n * fXti2) else 0

/-- May a link-up event start the connection (R1175)? -/
def Swic.mayConnect (w : Swic) : Bool :=
  !isSet w.modeCr 0 && isSet w.modeCr 8 && !isSet w.modeCr 5 && (isSet w.modeCr 2 || isSet w.modeCr 1)

/-- A control code is received (R331, R332, R323). -/
def Swic.receiveCode (w : Swic) (c : Byte) : Swic :=
  let k : BitVec 6 := fieldOf c 0 6
  match (fieldOf c 6 2 : BitVec 2) with
  | 0#2 =>
    let valid := k == w.lastTime + 1
    { w with rxCode := putField w.rxCode 0 c, lastTime := k, gotTime := w.gotTime || valid }
  | 1#2 =>
    if isSet w.isr k.toNat then w
    else { w with isr := putBit w.isr k.toNat true, rxCode := putField w.rxCode 8 c, gotInt := true, bcc01 := true }
  | 2#2 =>
    if isSet w.isr k.toNat then
      { w with isr := putBit w.isr k.toNat false, rxCode := putField w.rxCode 16 c, gotPoll := true }
    else w
  | _ => { w with bcc11 := true }

/-- The end of a received packet: its descriptor, of which any number can wait for RxDesCh
(DESIGN CHOICE, log 29), its count, and its mark in the buffer when bytes of it are still there
(R1176, R329, R333). Of the count of its bytes the descriptor takes the 25 bits that its length
field has (DESIGN CHOICE, log 29). -/
def Swic.endPacket (w : Swic) (kind : BitVec 2) : Swic :=
  let desc : Word := 1#1 ++ kind ++ 0#4 ++ BitVec.ofNat 25 w.nChar
  let unread : Bool := match w.rxFifo.getLast? with
    | some x => !isSet x 8
    | none => false
  let mark : List (BitVec 9) := if unread then [1#1 ++ (0#6 : BitVec 6) ++ kind] else []
  let w := { w with rxFifo := w.rxFifo ++ mark, rxDesc := w.rxDesc ++ [desc] }
  if w.nChar = 0 then { w with cntRx0 := w.cntRx0 + 1 } else { w with cntRx := w.cntRx + 1, nChar := 0 }

/-- An event of the link (R1175, R1176): items only in Run, and only while the buffer has room. A link that drops leaves the
buffers, the count of the packet and TX_BYTE as they are: a packet cut in two goes on when the link is up again. RX_SPEED takes a
measured rate in any state of the link, and keeps the last one when the link drops or is off (DESIGN CHOICE, log 29). -/
def Swic.event (w : Swic) (e : SwicEvent) : Swic :=
  match e with
  | .linkUp => if w.mayConnect then { w with dsState := 5, connected := true, linkCause := true } else w
  | .firstBit => { w with gotFirstBit := true, linkCause := true }
  | .linkError k => { w with errors := w.errors ||| (1#4 <<< k.toNat), dsState := 0 }
  | .rate v => { w with rxSpeed := v }
  | .item i =>
    if !w.inRun then w
    else match i with
      | .code c => w.receiveCode c
      | .data b =>
        if w.rxFifo.length < swicDepth then
          { w with rxFifo := w.rxFifo ++ [b.setWidth 9], nChar := w.nChar + 1 } else w
      | .eop => if w.rxFifo.length < swicDepth then w.endPacket 1 else w
      | .eep => if w.rxFifo.length < swicDepth then w.endPacket 2 else w

/-- A control code sent: ISR follows interrupt and poll codes (R327, R331), here where the code goes out and not at the store to TX_CODE
(DESIGN CHOICE, log 29). -/
def Swic.sendCode (w : Swic) (time : Nat) : Swic :=
  let k := (fieldOf w.txCode 0 6).toNat
  let isr := match (fieldOf w.txCode 6 2 : BitVec 2) with
    | 1#2 => putBit w.isr k true
    | 2#2 => putBit w.isr k false
    | _ => w.isr
  { w with isr := isr, flControl := false, sent := w.sent ++ [(time, .code w.txCode)] }

/-- A transmit move (R1177): a waiting control code first, then the next byte, then the end mark of the packet. -/
def Swic.transmit (w : Swic) (time : Nat) : Swic :=
  if !w.inRun then w
  else if w.flControl then w.sendCode time
  else match w.txFifo with
    | b :: rest => { w with txFifo := rest, txByte := w.txByte - 1, sent := w.sent ++ [(time, .data b)] }
    | [] =>
      match w.txType with
      | some k =>
        if w.txByte = 0 then
          { w with txType := none, sent := w.sent ++ [(time, if k = 1 then .eop else .eep)] }
        else w
      | none => w

/-! ## The DMA side (R333, R334, R1127) -/

/-- Up to n characters of the current packet, and the buffer after them; the end mark is taken with the last word. -/
def Swic.takeChars : Nat → List (BitVec 9) → List Byte × List (BitVec 9)
  | 0, x :: rest => if isSet x 8 then ([], rest) else ([], x :: rest)
  | 0, [] => ([], [])
  | _ + 1, [] => ([], [])
  | n + 1, x :: rest =>
    if isSet x 8 then ([], rest)
    else let r := Swic.takeChars n rest; (x.setWidth 8 :: r.1, r.2)

/-- 64-bit words that wait for RxDatCh, at most n: eight characters each, or the rest of a packet (R1127). -/
def Swic.wordsIn : Nat → List (BitVec 9) → Nat
  | 0, _ => 0
  | n + 1, l => if 8 ≤ l.length || l.any (fun x => isSet x 8) then 1 + Swic.wordsIn n (Swic.takeChars 8 l).2 else 0

/-- A 64-bit word for RxDatCh; bytes beyond the packet are those of the free word (U51, D49). -/
def Swic.takeWord (w : Swic) (free : Dword) : Dword × Swic :=
  let r := Swic.takeChars 8 w.rxFifo
  let byteAt (k : Nat) : Byte := r.1.getD k (free.extractLsb' (8 * k) 8)
  (byteAt 7 ++ byteAt 6 ++ byteAt 5 ++ byteAt 4 ++ byteAt 3 ++ byteAt 2 ++ byteAt 1 ++ byteAt 0, { w with rxFifo := r.2 })

/-- A transmit descriptor taken by TxDesCh (R333, R1177, U64). -/
def Swic.takeDescriptor (w : Swic) (d : Dword) : Except Fault Swic :=
  let kind : BitVec 2 := fieldOf d 29 2
  if isSet d 31 && (kind == 1 || kind == 2) then .ok { w with txByte := fieldOf d 0 25, txType := some kind }
  else .error .swicDescriptor

/-- Can TxDatCh supply a word: bytes of the packet are missing and the buffer has room (R1127)? -/
def Swic.txDataReady (w : Swic) : Bool :=
  decide (w.txFifo.length < w.txByte.toNat) && decide (w.txFifo.length + 8 ≤ swicDepth)

/-- 64-bit words of the current packet that are missing and that the transmit buffer has room for (R1127, R1177). -/
def Swic.wordsOut (w : Swic) : Nat :=
  min ((w.txByte.toNat - w.txFifo.length + 7) / 8) ((swicDepth - w.txFifo.length) / 8)

/-- The words that channel k of a SWIC, RxDes, RxDat, TxDes, TxDat, can move in a burst of n at most: those the port has ready, so
that the burst does not wait between its words (R1127; DEDUCED, log 30); all with RDY_MODE (R1140). TxDesCh and TxDatCh move in every
state of the link, also outside Run (R1127 against the head of R1177; DESIGN CHOICE, log 30). -/
def Swic.dmaWords (w : Swic) (k n : Nat) : Nat :=
  if isSet w.modeCr 6 then n
  else match k with
    | 0 => min n w.rxDesc.length
    | 1 => Swic.wordsIn n w.rxFifo
    | 2 => if w.txType.isNone then 1 else 0
    | _ => min n w.wordsOut

/-- A 64-bit word supplied by TxDatCh; bytes beyond the packet are dropped (R1177), and so is a word that RDY_MODE lets through and
that has no room (R1140). -/
def Swic.giveWord (w : Swic) (d : Dword) : Swic :=
  let bytes := (List.range 8).map fun k => (d.extractLsb' (8 * k) 8 : Byte)
  if w.txDataReady then { w with txFifo := w.txFifo ++ bytes.take (w.txByte.toNat - w.txFifo.length) } else w

end Sys2Proof.Machine
end

