-- ==== Sys2Proof/Machine/Dma.lean ====
section
/-! DEFINITION. Dma: the DMA controller: channel registers (spec R220 to R230), bursts, block ends, chains, Flyby and the
port channels (R1110 to R1140, D56). Channels are numbered SWIC0 0 to 3, SWIC1 4 to 7, MFBSP 8 to 11, MEM 12 to 15. -/

namespace Sys2Proof.Machine

open Sys2Proof

/-- Is a channel a MEM channel? -/
def isMemChannel (c : Fin 16) : Bool := decide (12 ≤ c.val)

/-- The channel index within its class. -/
def channelNumber (c : Fin 16) : Fin 4 := ⟨c.val % 4, Nat.mod_lt _ (by decide)⟩
/-- The class of a channel: SWIC0, SWIC1, MFBSP, MEM (R1110). -/
def channelClass (c : Fin 16) : Fin 4 := ⟨c.val / 4, by omega⟩

/-- Is the clock of a channel on (R183, R1111)? -/
def State.dmaClock (s : State) (c : Fin 16) : Bool :=
  isSet s.sys.clkEn (if c.val < 4 then 24 else if c.val < 8 then 25 else if c.val < 12 then 8 else 12)

/-- A channel of the state. -/
def State.channel (s : State) (c : Fin 16) : DmaChannel := s.dma.channels[c]
/-- The state with one channel replaced. -/
def State.putChannel (s : State) (c : Fin 16) (ch : DmaChannel) : State :=
  { s with dma := { s.dma with channels := s.dma.channels.set c ch } }
/-- The state with one SWIC replaced; false is SWIC0. -/
def State.putSwic (s : State) (n : Bool) (w : Swic) : State := if n then { s with swic1 := w } else { s with swic0 := w }
/-- A SWIC of the state. -/
def State.swic (s : State) (n : Bool) : Swic := if n then s.swic1 else s.swic0
/-- The state with one MFBSP port replaced. -/
def State.putMfbsp (s : State) (p : Fin 4) (m : Mfbsp) : State := { s with mfbsp := s.mfbsp.set p m }
/-- A free 64-bit word: two draws. -/
def State.freeDword (s : State) : Dword := Config.freeWord (s.freeCtr + 1) ++ Config.freeWord s.freeCtr

/-! ## Slaves of the switch (R1055) -/

/-- The slaves the masters of the switch reach. -/
inductive Slave where
  | cram
  | dsp
  | ext
  deriving DecidableEq, Repr

/-- The slave of an address; reserved addresses have none (R410). -/
def slaveOf (pa : Word) : Option Slave :=
  let a := wordAddr pa
  if inCram a then some .cram
  else if inDspData a || inDspPram a then some .dsp
  else if inInternal a then none
  else some .ext

/-! ## Fields of a channel -/

/-- RUN (R221). -/
def DmaChannel.run (ch : DmaChannel) : Bool := isSet ch.csr 0
/-- EN64 (R221). -/
def DmaChannel.en64 (ch : DmaChannel) : Bool := isSet ch.csr 6
/-- WCX (R221). -/
def DmaChannel.wcx (ch : DmaChannel) : Half := fieldOf ch.csr 16 16
/-- Words per burst, WN + 1 (R221). -/
def DmaChannel.burst (ch : DmaChannel) : Nat := (fieldOf ch.csr 2 4).toNat + 1
/-- END or DONE: the request of the channel (R192, R193). -/
def DmaChannel.request (ch : DmaChannel) : Bool := isSet ch.csr 14 || isSet ch.csr 15
/-- A channel with one bit of CSR replaced. -/
def DmaChannel.putCsrBit (ch : DmaChannel) (i : Nat) (b : Bool) : DmaChannel := { ch with csr := putBit ch.csr i b }

/-! ## Address arithmetic (R1122, R1123) -/

/-- An address increment in bytes: a signed count of data words (R1122). -/
def dmaStep (count : Half) (en64 : Bool) : Word := sext count <<< (if en64 then 3 else 2)

/-- IR0 after a word (R1122): linear, or with the carry running from the high bits to the low ones. -/
def DmaChannel.next0 (ch : DmaChannel) : Word :=
  let or0 : Half := fieldOf ch.offsets 0 16
  if isSet ch.csr 8 then
    let r := reverseBits ch.ir0 + (zext (reverseBits or0) <<< (if ch.en64 then 13 else 14))
    reverseBits r
  else ch.ir0 + dmaStep or0 ch.en64

/-- A channel at a word of a block: at the first one the buffer of WCX is loaded (R1123, R230). -/
def DmaChannel.openBlock (ch : DmaChannel) : DmaChannel :=
  if ch.midBlock then ch else { ch with wcxBuf := ch.wcx, midBlock := true }

/-- The channel after a word of a MEM transfer, and whether the block ended with it (R1120 to R1123). In Flyby only the
memory side IR0 moves (R1126). -/
def DmaChannel.advance (ch : DmaChannel) : DmaChannel × Bool :=
  let ch := ch.openBlock
  let fly := isSet ch.csr 11
  let move1 (step : Half) : Word := if fly then ch.ir1 else ch.ir1 + dmaStep step ch.en64
  let or1 : Half := fieldOf ch.offsets 16 16
  let ory : Half := fieldOf ch.y 0 16
  let wcy : Half := fieldOf ch.y 16 16
  let next := { ch with ir0 := ch.next0, ir1 := move1 or1 }
  if ch.wcx ≠ 0 then ({ next with csr := putField ch.csr 16 (ch.wcx - 1) }, false)
  else if isSet ch.csr 9 then
    let next := { next with ir1 := move1 ory, csr := putField ch.csr 16 ch.wcxBuf }
    if wcy ≠ 0 then ({ next with y := putField ch.y 16 (wcy - 1) }, false) else ({ next with midBlock := false }, true)
  else ({ next with midBlock := false }, true)

/-- The channel after a word of a port transfer, and whether the block ended with it (R1127). -/
def DmaChannel.advancePort (ch : DmaChannel) : DmaChannel × Bool :=
  let next := { ch with ir0 := ch.ir0 + 8 }
  if ch.wcx = 0 then (next, true) else ({ next with csr := putField ch.csr 16 (ch.wcx - 1) }, false)

/-! ## Block end and chains (R1124, R1130, R1102) -/

/-- LoadParams: the parameter block at CP & ~7 loaded into the channel (R1130). END and DONE are kept, and a stop remembered during
the burst before clears RUN of the new block (R1140). -/
def loadParams (c : Fin 16) (s : State) : Res Unit :=
  let ch := s.channel c
  let p := ch.cp &&& 0xFFFFFFF8
  let install (csr cp : Word) (f : DmaChannel → DmaChannel) (s : State) : Res Unit :=
    let csr : Word := mergeBits 0x0000C000 ch.csr csr
    let csr : Word := if ch.stopPending then putBit csr 0 false else csr
    let loaded := f ch
    .done (s.putChannel c { loaded with csr := csr, cp := cp, midBlock := false, stopPending := false })
  (dmaRead64 p s).andThen fun d0 s => (dmaRead64 (p + 8) s).andThen fun d1 s =>
    if isMemChannel c then
      (dmaRead64 (p + 16) s).andThen fun d2 s =>
        install (fieldOf d2 32 32) (fieldOf d2 0 32)
          (fun ch => { ch with ir0 := fieldOf d0 0 32, ir1 := fieldOf d0 32 32,
                               offsets := fieldOf d1 0 32, y := fieldOf d1 32 32 }) s
    else
      install ((fieldOf d1 32 32 : Word) &&& 0xFFFFF07D) (fieldOf d1 0 32)
        (fun ch => { ch with ir0 := fieldOf d0 32 32 }) s

/-- The step counter starts anew when the DSP goes from STOP to RUN (R897); d is the DSP before. -/
def Dsp.countFrom (t d : Dsp) : Dsp := if t.inRun && !d.inRun then { t with steps := 0 } else t

/-- RUN of the DSP set from outside: the step counter starts anew (R1102, R136). -/
def Dsp.startRun (d : Dsp) : Dsp :=
  { d with dcsr := putBit d.dcsr 14 true, runOpen := false }.countFrom d

/-- The start request of MEM channel n to the DSP (R1102, D32). -/
def State.startDsp (s : State) (n : Nat) : State :=
  if isSet s.dsp.dmar n && isSet s.sys.clkEn 4 then { s with dsp := s.dsp.startRun } else s

/-- BlockEnd (R1124); the parameter block of a chain is loaded in a move of its own (R1050, R1111). -/
def blockEnd (c : Fin 16) (s : State) : State :=
  let ch := s.channel c
  let s := if isSet ch.csr 13 then s.putChannel c (ch.putCsrBit 14 true) else s
  let s := if isMemChannel c && isSet ch.csr 7 then s.startDsp (channelNumber c).val else s
  let ch := s.channel c
  s.putChannel c (if isSet ch.csr 12 then { ch with loadPending := true }
                  else (ch.putCsrBit 15 true).putCsrBit 0 false)

/-- The class order after a transfer of a channel: rotated left until the channel is last (R1110). -/
def rotateOrder (o : List (BitVec 2)) (n : BitVec 2) : List (BitVec 2) :=
  let k := o.findIdx (· == n)
  o.drop (k + 1) ++ o.take (k + 1)

/-- The rotation of the class of a channel. -/
def State.rotate (s : State) (c : Fin 16) : State :=
  let k := channelClass c
  let o := rotateOrder s.dma.order[k] (BitVec.ofNat 2 (channelNumber c).val)
  { s with dma := { s.dma with order := s.dma.order.set k o } }

/-! ## MEM channels (R1120, R1121, R1126) -/

/-- The kinds of memory a 64-bit exchange distinguishes (R1121). -/
inductive MemClass where
  | cram
  | dsp
  | ext32
  | ext64
  | other
  deriving DecidableEq, Repr

/-- The kind of memory at an address (R418). -/
def State.memClass (s : State) (pa : Word) : MemClass :=
  let a := wordAddr pa
  if inCram a then .cram
  else if inDspData a || inDspPram a then .dsp
  else if inInternal a then .other
  else match s.mport.chipSelect a with
    | some cs => if cs ≠ 3 ∧ isSet s.mport.cscon[cs] 23 then .ext64 else .ext32
    | none => .ext32

/-- May EN64 = 1 join two memories (R1121)? -/
def wideExchange : MemClass → MemClass → Bool
  | .dsp, .ext64 => true
  | .ext64, .dsp => true
  | _, _ => false

/-- A Flyby word stored to memory: an 8-bit block on nCS[3] takes all its bytes (R1126), by the mode of its controller (R283). -/
def flybyStore (pa v : Word) (s : State) : Res Unit :=
  match s.extAccess (wordAddr pa) with
  | .ok (cs, .normal) =>
    if !inInternal (wordAddr pa) && cs == 3 && s.params.bytePin then
      protStore .ext (wordAddr pa) 0xF (s.ramLanes (wordAddr pa)) v s
    else dmaWrite pa v s
  | _ => dmaWrite pa v s

/-- A word of a Flyby transfer between memory at IR0 and the external device (R1126). Where R1126 gives no behaviour it moves its words all
the same: with internal memory at IR0, and with EN64 = 0 on a 64-bit block one 32-bit word after the other also from an address that is
not 64-bit aligned or with an odd WN + 1 (DESIGN CHOICE, log 30). -/
def flybyWord (c : Fin 16) (s : State) : Res Unit :=
  let ch := s.channel c
  let n := channelNumber c
  let take (s : State) : Word × State :=
    match s.dma.flyIn[n] with
    | w :: rest => (w, { s with dma := { s.dma with flyIn := s.dma.flyIn.set n rest } })
    | [] => (s.freeWord, s.drawn)
  let give (w : Word) (s : State) : State :=
    { s with dma := { s.dma with flyOut := s.dma.flyOut.set n (s.dma.flyOut[n] ++ [w]) } }
  if isSet ch.csr 1 then
    let r := take s
    if ch.en64 then
      let q := take r.2
      let pa := ch.ir0 &&& 0xFFFFFFF8
      if slaveOf pa = some .ext then (flybyStore pa r.1 q.2).andThen fun _ s => flybyStore (pa + 4) q.1 s
      else dmaWrite64 pa (q.1 ++ r.1) q.2
    else flybyStore (ch.ir0 &&& 0xFFFFFFFC) r.1 r.2
  else if ch.en64 then
    (dmaRead64 (ch.ir0 &&& 0xFFFFFFF8) s).andThen fun d s => .done (give (fieldOf d 32 32) (give (fieldOf d 0 32) s))
  else (dmaRead (ch.ir0 &&& 0xFFFFFFFC) s).andThen fun w s => .done (give w s)

/-- One word of a MEM transfer moved (R1120). -/
def memWord (c : Fin 16) (s : State) : Res Unit :=
  let ch := s.channel c
  if isSet ch.csr 11 then flybyWord c s
  else
    let src := if isSet ch.csr 1 then ch.ir1 else ch.ir0
    let dst := if isSet ch.csr 1 then ch.ir0 else ch.ir1
    if ch.en64 then
      if wideExchange (s.memClass src) (s.memClass dst) then
        (dmaRead64 (src &&& 0xFFFFFFF8) s).andThen fun d s => dmaWrite64 (dst &&& 0xFFFFFFF8) d s
      else .fault .dmaWidthPair
    else (dmaRead (src &&& 0xFFFFFFFC) s).andThen fun w s => dmaWrite (dst &&& 0xFFFFFFFC) w s

/-- Is a burst of a channel under way, not waiting for its port? Its slaves are held (R1055). -/
def DmaChannel.moving (ch : DmaChannel) : Bool := ch.burstLeft != 0 && !ch.burstPending

/-- The end of a burst: a remembered stop takes effect, once more when the next block of a chain is loaded (R1140), and the class
order rotates (R1110). -/
def State.endBurst (s : State) (c : Fin 16) : State :=
  let ch := s.channel c
  let ch := if ch.stopPending then ch.putCsrBit 0 false else ch
  (s.putChannel c { ch with burstLeft := 0, burstPending := false, stopPending := ch.stopPending && ch.loadPending }).rotate c

/-- The channel after a word of its burst: `next` is it with its addresses and counters moved on, `last` whether the block
ends. -/
def wordDone (c : Fin 16) (next : DmaChannel) (last : Bool) (s : State) : State :=
  let ch := { next with burstLeft := next.burstLeft - 1, turned := false }
  let s := s.putChannel c ch
  if last then (blockEnd c s).endBurst c else if ch.burstLeft = 0 then s.endBurst c else s

/-- One word of the burst of a MEM channel (R1120). -/
def memStep (c : Fin 16) (s : State) : Res Unit :=
  (memWord c s).andThen fun _ s =>
    let r := (s.channel c).advance
    .done (wordDone c r.1 r.2 s)

/-- Is a MEM channel ready for a burst (R1111)? -/
def State.memReady (s : State) (c : Fin 16) : Bool :=
  s.dmaClock c && (s.channel c).run && (!isSet (s.channel c).csr 10 || (s.channel c).dmarEdge)

/-- A move of a MEM channel: the next word of its burst, or the first of a new one (R1120). -/
def memMove (c : Fin 16) (s : State) : Res Unit :=
  let ch := s.channel c
  if ch.moving then memStep c s
  else if s.memReady c then
    let edge := if isSet ch.csr 10 then false else ch.dmarEdge
    memStep c (s.putChannel c { ch with dmarEdge := edge, burstLeft := ch.burst })
  else .done s

/-! ## Port channels (R1127, R1140) -/

/-- The SWIC of a port channel: false is SWIC0. -/
def channelSwic (c : Fin 16) : Bool := decide (4 ≤ c.val)

/-- Is the port of a channel ready for a burst of n words from memory (out) or to it (R1127)? RDY_MODE forces it (R355, R356,
R1140). -/
def State.portReady (s : State) (c : Fin 16) (out : Bool) (n : Nat) : Bool :=
  if 8 ≤ c.val then s.mfbsp[channelNumber c].dmaReady out n
  else decide (0 < (s.swic (channelSwic c)).dmaWords (c.val % 4) n)

/-- Is the MFBSP port of a channel in the forbidden mode (U52)? -/
def State.portClash (s : State) (c : Fin 16) : Bool := decide (8 ≤ c.val) && s.mfbsp[channelNumber c].clash

/-- Is the direction of a port channel memory to port (R1127)? -/
def State.portOutward (s : State) (c : Fin 16) : Bool :=
  if 8 ≤ c.val then s.mfbsp[channelNumber c].ltran else decide (2 ≤ c.val % 4)

/-- A 64-bit word given to the port of a channel. -/
def portGive (c : Fin 16) (d : Dword) (s : State) : Res Unit :=
  if 8 ≤ c.val then .done (s.putMfbsp (channelNumber c) (s.mfbsp[channelNumber c].give64 d))
  else
    let n := channelSwic c
    let w := s.swic n
    if c.val % 4 = 2 then
      if w.txType.isSome then .done s
      else match w.takeDescriptor d with
        | .ok w => .done (s.putSwic n w)
        | .error f => .fault f
    else .done (s.putSwic n (w.giveWord d))

/-- A 64-bit word taken from the port of a channel; what an empty port gives is unspecified (R1140). -/
def portTake (c : Fin 16) (s : State) : Dword × State :=
  let free := s.freeDword
  if 8 ≤ c.val then
    let r := s.mfbsp[channelNumber c].take64 free
    (r.1, (s.putMfbsp (channelNumber c) r.2).drawn.drawn)
  else
    let n := channelSwic c
    let w := s.swic n
    if c.val % 4 = 0 then
      match w.rxDesc with
      | x :: rest => (0#32 ++ x, s.putSwic n { w with rxDesc := rest })
      | [] => (free, s.drawn.drawn)
    else
      let r := w.takeWord free
      (r.1, (s.putSwic n r.2).drawn.drawn)

/-- One 64-bit word of a port channel moved, in the direction its burst was granted for (R1127). -/
def portWord (c : Fin 16) (s : State) : Res Unit :=
  let ir := (s.channel c).ir0 &&& 0xFFFFFFF8
  if (s.channel c).outward then (dmaRead64 ir s).andThen fun d s => portGive c d s
  else let r := portTake c s; dmaWrite64 ir r.1 r.2

/-- One word of the burst of a port channel (R1127). -/
def portStep (c : Fin 16) (s : State) : Res Unit :=
  (portWord c s).andThen fun _ s =>
    let r := (s.channel c).advancePort
    .done (wordDone c r.1 r.2 s)

/-- The burst length of a port channel: WN + 1, the largest burst of an MFBSP (R367, R1127), and the words a SWIC has ready. -/
def State.portLength (s : State) (c : Fin 16) : Nat :=
  let n := (s.channel c).burst
  if 8 ≤ c.val then min n s.mfbsp[channelNumber c].maxBurst else max 1 ((s.swic (channelSwic c)).dmaWords (c.val % 4) n)

/-- The burst that a port channel waits for its port with: by the present direction and length (R367, R1111). After its MFBSP has
been switched off it stays the one granted before, unless only the present one can move (R356, R1140; log 30). -/
def State.portGrant (s : State) (c : Fin 16) : DmaChannel :=
  let ch := s.channel c
  let now := { ch with outward := s.portOutward c, burstLeft := s.portLength c, burstPending := true }
  let off := decide (8 ≤ c.val) && !s.mfbsp[channelNumber c].on
  let only := !s.portReady c ch.outward ch.burstLeft && s.portReady c now.outward now.burstLeft
  if ch.burstPending && off && !only then ch else now

/-- Can a port channel that has a burst waiting, or RUN = 1, begin it: is its port ready (R1111)? -/
def State.portMayMove (s : State) (c : Fin 16) : Bool :=
  let g := s.portGrant c
  ((s.channel c).burstPending || (s.channel c).run) && s.portReady c g.outward g.burstLeft

/-- A move of a port channel (R1111, R1127): the next word of its burst, the first one when its port is ready, or waiting for the
port with the burst granted (R1140). -/
def portMove (c : Fin 16) (s : State) : Res Unit :=
  let ch := s.channel c
  if !ch.moving && !ch.burstPending && !ch.run then .done s
  else if s.portClash c then .fault .mfbspModeClash
  else if ch.moving then portStep c s
  else if s.portMayMove c then portStep c (s.putChannel c { s.portGrant c with burstPending := false })
  else .done (s.putChannel c (s.portGrant c))

/-! ## Moves and the switch (R1050, R1051, R1055) -/

/-- The slaves that the next n words of a channel reach, at most to the end of its block. -/
def DmaChannel.slaves (mem : Bool) : Nat → DmaChannel → List Slave
  | 0, _ => []
  | n + 1, ch =>
    let r := if mem then ch.advance else ch.advancePort
    (slaveOf ch.ir0).toList ++ (if mem && !isSet ch.csr 11 then (slaveOf ch.ir1).toList else []) ++
      (if r.2 then [] else DmaChannel.slaves mem n r.1)

/-- The slaves a channel's burst still reaches, also one that is not begun (log 13). -/
def State.channelSlaves (s : State) (c : Fin 16) : List Slave :=
  let ch := s.channel c
  let fresh := if isMemChannel c then ch.burst else (s.portGrant c).burstLeft
  ch.slaves (isMemChannel c) (if ch.moving then ch.burstLeft else fresh)

/-- The channel whose burst holds one of some slaves, other than channel `self`: from its first word to its last (R1055). -/
def State.holder (s : State) (self : Option (Fin 16)) (l : List Slave) : Option (Fin 16) :=
  (List.finRange 16).find? fun c => (s.channel c).moving && self != some c && (s.channelSlaves c).any l.contains

/-- Does the burst of a channel wait for another one, which held a slave before a store turned this burst towards it (R1055)? Of
bursts turned to each other's slaves that of the class of higher priority, with the lower number, goes first (R1110; DESIGN CHOICE,
log 13). -/
def State.burstWaits (s : State) (c : Fin 16) : Bool :=
  (s.channel c).turned && (List.finRange 16).any fun d =>
    d != c && (s.channel d).moving && (!(s.channel d).turned || decide (d < c)) && (s.channelSlaves d).any (s.channelSlaves c).contains

/-- The burst that moves on while an access waits for some slaves: the one that holds them, or else one that this waits for (R1055). -/
def State.burstAhead (s : State) (l : List Slave) : Option (Fin 16) :=
  (s.holder none l).map fun c =>
    if s.burstWaits c then ((List.finRange 16).find? fun d => (s.channel d).moving && !s.burstWaits d).getD c else c

/-- A channel replaced by a store to its registers, which turns a burst under way when the rest of it comes to reach a slave that
another burst holds (R1055; log 13). -/
def State.storeChannel (s : State) (c : Fin 16) (ch : DmaChannel) : State :=
  let t := s.putChannel c ch
  let gained := (t.channelSlaves c).filter fun x => !(s.channelSlaves c).contains x
  if ch.moving && (t.holder (some c) gained).isSome then s.putChannel c { ch with turned := true } else t

/-- The slave of an address, but for CRAM, which the CPU reaches over a bus of its own (R1055). -/
def cpuReach (pa : Word) : List Slave := (slaveOf pa).toList.filter (· != .cram)

/-- The slaves that the parameter block of a channel is read from (R1130). -/
def State.paramSlaves (s : State) (c : Fin 16) : List Slave :=
  let p := (s.channel c).cp &&& 0xFFFFFFF8
  (slaveOf p).toList ++ (slaveOf (p + 8)).toList ++ (if isMemChannel c then (slaveOf (p + 16)).toList else [])

/-- A move of a DMA channel (R1050): the next word of its burst, also with its clock switched off meanwhile (R1185); a
parameter block (R1130); or the first word of a new burst. A burst starts only when no other one holds a slave it will reach, and one
that a store has turned waits for that too, so that nothing falls between the words of a burst there (R1055). -/
def dmaMove (c : BitVec 4) (s : State) : Res Unit :=
  let c : Fin 16 := c.toFin
  let ch := s.channel c
  let go : Res Unit := if isMemChannel c then memMove c s else portMove c s
  if ch.moving then (if s.burstWaits c then .done s else go)
  else if !s.dmaClock c then .done s
  else if ch.loadPending then
    if (s.holder (some c) (s.paramSlaves c)).isSome then .done s
    else loadParams c (s.putChannel c { ch with loadPending := false })
  else if (s.holder (some c) (s.channelSlaves c)).isSome then .done s
  else go

/-! ## Registers (R181, R221 to R229) -/

/-- The registers of a channel. -/
inductive DmaReg where
  | csr
  | cp
  | ir0
  | ir1
  | offsets
  | y
  | run
  deriving DecidableEq, Repr

/-- The channel and register at an offset of the register block (R181). -/
def dmaRegAt (off : Nat) : Option (Fin 16 × DmaReg) :=
  if off < 0x200 then
    let c : Fin 16 := ⟨12 + off / 0x80 % 4, by omega⟩
    match off % 0x80 with
    | 0x00 => some (c, .csr)
    | 0x04 => some (c, .cp)
    | 0x08 => some (c, .ir0)
    | 0x0C => some (c, .ir1)
    | 0x10 => some (c, .offsets)
    | 0x14 => some (c, .y)
    | 0x18 => some (c, .run)
    | _ => none
  else
    let port (base : Nat) : Option (Fin 16 × DmaReg) :=
      let c : Fin 16 := Fin.ofNat 16 (base + off % 0x100 / 0x40)
      match off % 0x40 with
      | 0x00 => some (c, .csr)
      | 0x04 => some (c, .cp)
      | 0x08 => some (c, .ir0)
      | 0x0C => some (c, .run)
      | _ => none
    match off / 0x100 with
    | 0x58 => port 0
    | 0x68 => port 4
    | 0x78 => port 8
    | _ => none

/-- A load of a channel register (R221 to R229). -/
def DmaChannel.read (ch : DmaChannel) : DmaReg → Word
  | .csr => ch.csr
  | .run => ch.csr
  | .cp => ch.cp
  | .ir0 => ch.ir0
  | .ir1 => ch.ir1
  | .offsets => ch.offsets
  | .y => ch.y

/-- The side effect of a load: END and DONE are cleared through the CSR address (R221). -/
def DmaChannel.readEffect (ch : DmaChannel) : DmaReg → DmaChannel
  | .csr => { ch with csr := ch.csr &&& 0xFFFF3FFF }
  | _ => ch

/-- A store of RUN (R226); a burst that waits for its port keeps RUN as it was, and the stop is remembered (R1140). -/
def DmaChannel.storeRun (ch : DmaChannel) (was v : Bool) : DmaChannel :=
  if ch.burstPending && !v then { ch.putCsrBit 0 was with stopPending := true }
  else { ch.putCsrBit 0 v with stopPending := false }

/-- A stopped channel whose registers are stored goes on with a new block (R1123; DEDUCED, log 30). -/
def DmaChannel.program (ch : DmaChannel) : DmaChannel := if ch.run || ch.moving then ch else { ch with midBlock := false }

/-- A store to a channel register (R221 to R230); a store to CP with bit 0 = 1 starts self-initialisation (R225), which the
channel carries out in a move of its own (R1111). Bits 2:0 of CP, which an address ignores, read back as they were stored (R12, R225; DESIGN CHOICE,
log 30). A store to CSR that leaves WCX as it is continues the block (R1111). -/
def dmaStore (c : Fin 16) (r : DmaReg) (v : Word) (s : State) : Res Unit :=
  let ch := s.channel c
  match r with
  | .csr =>
    let v := if isMemChannel c then v else v &&& 0xFFFFF07D
    let kept := if fieldOf v 16 16 = ch.wcx then ch else ch.program
    .done (s.storeChannel c ({ kept with csr := v }.storeRun ch.run (isSet v 0)))
  | .run => .done (s.storeChannel c (ch.storeRun ch.run (isSet v 0)))
  | .cp =>
    if isSet v 0 then
      if ch.run || ch.moving then .fault .dmaRestartWhileMoving
      else .done (s.storeChannel c { ch with cp := v, loadPending := true })
    else .done (s.storeChannel c { ch with cp := v })
  | .ir0 => .done (s.storeChannel c { ch.program with ir0 := v })
  | .ir1 => .done (s.storeChannel c { ch.program with ir1 := v })
  | .offsets => .done (s.storeChannel c { ch.program with offsets := v })
  | .y => .done (s.storeChannel c { ch.program with y := v })

end Sys2Proof.Machine
end

