-- ==== Sys2Proof/Machine/Dsp.lean ====
section
/-! DEFINITION. Dsp: the registers of the DSP as the CPU sees them (spec R104 to R142, R146), and one DSP instruction as the
actions 45_dsp.md fixes (R850 to R898, log 25). -/

namespace Sys2Proof.Machine

open Sys2Proof

/-! ## Sections, stacks, reset -/

/-- A SIMD section; false is section 0. -/
def Dsp.sec (d : Dsp) (k : Bool) : DspSection := if k then d.sec1 else d.sec0
/-- The DSP with one section replaced. -/
def Dsp.putSec (d : Dsp) (k : Bool) (x : DspSection) : Dsp := if k then { d with sec1 := x } else { d with sec0 := x }
/-- SIMD mode (R126). -/
def Dsp.simd (d : Dsp) : Bool := isSet d.sr 15

/-- The software and hardware reset of the DSP core (R142, D33): what the list names; the rest is kept. An instruction in execution
is dropped. -/
def Dsp.coreReset (d : Dsp) : Dsp :=
  let sec (x : DspSection) : DspSection :=
    { x with ccr := 0, pdnr := 0, ac0 := 0, ac1 := 0, agAt := 0, agMt := 0xFFFF }
  { d with
    sec0 := sec d.sec0, sec1 := sec d.sec1, a := Vector.replicate 8 0, m := Vector.replicate 8 0xFFFF, dcsr := 0,
    runOpen := false, sr := 0, dmar := 0, pc := 0, lc := 0, sp := 0, sar := Vector.replicate 8 0xFFFF, cntr := 0,
    steps := 0, inFlight := none, pageReads := 0, pageWrites := 0, extReads := 0, extWrites := 0 }

/-- A store to DCSR by the CPU or a DSP move (R121 to R123): RST resets, RUN starts or stops. -/
def Dsp.storeDcsr (d : Dsp) (v : Half) : Dsp :=
  if isSet v 15 then d.coreReset else { d with dcsr := v &&& 0x500F, runOpen := false }.countFrom d

/-- SE set when an error flag stands in SP, at a move of a stack pointer and at a store to SP (R122, R134, U31). SE cleared while SSE
or CSE still stands stays 0, and the DSP may run, until the next of these (DESIGN CHOICE, log 39). -/
def Dsp.checkStacks (d : Dsp) : Dsp :=
  if isSet d.sp 4 || isSet d.sp 11 then { d with dcsr := putBit d.dcsr 1 true, runOpen := true } else d

/-- A store to SP (R133, R134). -/
def Dsp.storeSp (d : Dsp) (v : Half) : Dsp := { d with sp := v &&& 0x1F3F }.checkStacks

/-- {UFS, SSE, SP} (R134). -/
def Dsp.ssPtr (d : Dsp) : BitVec 6 := fieldOf d.sp 0 6
/-- {UFC, CSE, CP} (R134). -/
def Dsp.csPtr (d : Dsp) : BitVec 5 := fieldOf d.sp 8 5
/-- The cell of SS written next (R130). -/
def Dsp.ssCell (d : Dsp) : BitVec 4 := fieldOf d.sp 0 4
/-- The cell of CS written next (R132). -/
def Dsp.csCell (d : Dsp) : BitVec 3 := fieldOf d.sp 8 3
/-- The top word of SS (R130). -/
def Dsp.ssTop (d : Dsp) : Half := d.ss[(d.ssCell - 1).toFin]

/-- The pointer of SS moved by a step; its error flags stay until SP is written (R134). -/
def Dsp.moveSs (d : Dsp) (by' : BitVec 6) : Dsp :=
  { d with sp := putField d.sp 0 ((d.ssPtr + by') ||| (d.ssPtr &&& 0x30)) }.checkStacks
/-- The pointer of CS moved by a step; its error flags stay until SP is written (R134). -/
def Dsp.moveCs (d : Dsp) (by' : BitVec 5) : Dsp :=
  { d with sp := putField d.sp 8 ((d.csPtr + by') ||| (d.csPtr &&& 0x18)) }.checkStacks

/-- A push on the system stack (R130, R134). A full stack takes the word in its unused cell 15 (DESIGN CHOICE, log 39). -/
def Dsp.pushSs (d : Dsp) (v : Half) : Dsp := { d with ss := d.ss.set d.ssCell.toFin v }.moveSs 1
/-- A pop of the system stack (R130, R134). From an empty stack the word read is the unused cell 15 (log 39). -/
def Dsp.popSs (d : Dsp) : Dsp := d.moveSs (-1)
/-- LC and LA pushed on the loop stack (R132, R892); a full stack takes them in its unused cell 7 (log 39). -/
def Dsp.pushCs (d : Dsp) : Dsp :=
  { d with csh := d.csh.set d.csCell.toFin d.lc, csl := d.csl.set d.csCell.toFin d.la }.moveCs 1
/-- LC and LA popped from the loop stack (R132, R894); from an empty stack they come from its unused cell 7 (log 39). -/
def Dsp.popCs (d : Dsp) : Dsp :=
  { d with lc := d.csh[(d.csCell - 1).toFin], la := d.csl[(d.csCell - 1).toFin] }.moveCs (-1)

/-! ## 16-bit registers -/

/-- The integral flags SR[7:0] (R127); SRSI = 11 in SIMD mode is reserved (U33). -/
def Dsp.integral (d : Dsp) : Except Fault Byte :=
  let f0 : Byte := fieldOf d.sec0.ccr 0 8
  let f1 : Byte := fieldOf d.sec1.ccr 0 8
  if !d.simd then .ok f0
  else match (fieldOf d.sr 13 2 : BitVec 2) with
    | 0#2 => .ok f0
    | 1#2 => .ok (f0 &&& f1)
    | 2#2 => .ok (f0 ||| f1)
    | _ => .error .dspSrsiReserved

/-- A 16-bit register read from outside (R120); run is the value of an undetermined RUN (U31). -/
def Dsp.readReg (d : Dsp) (run : Bool) : DspReg → Except Fault Half
  | .a n => .ok d.a[n.toFin]
  | .i n => .ok d.i[n.toFin]
  | .m n => .ok d.m[n.toFin]
  | .agAt k => .ok (d.sec k).agAt
  | .agIt k => .ok (d.sec k).agIt
  | .agMt k => .ok (d.sec k).agMt
  | .agDt k => .ok (d.sec k).agDt
  | .dcsr => .ok (if d.runOpen then putBit d.dcsr 14 run else d.dcsr)
  | .sr => d.integral.map fun f => (fieldOf d.sr 8 8 : Byte) ++ f
  | .idr => .ok 0x1015
  | .dmar => .ok d.dmar
  | .pc => .ok d.pc
  | .ss => .ok d.ssTop
  | .la => .ok d.la
  | .csl => .ok d.csl[(d.csCell - 1).toFin]
  | .lc => .ok d.lc
  | .csh => .ok d.csh[(d.csCell - 1).toFin]
  | .sp => .ok d.sp
  | .sar n => .ok d.sar[n.toFin]
  | .cntr => .ok d.cntr
  | .ccr k => .ok (d.sec k).ccr
  | .pdnr k => .ok (d.sec k).pdnr

/-- A 16-bit register written; the stack windows use the cell the pointer names and leave the pointer (R130, R132). -/
def Dsp.writeReg (d : Dsp) (v : Half) : DspReg → Dsp
  | .a n => { d with a := d.a.set n.toFin v }
  | .i n => { d with i := d.i.set n.toFin v }
  | .m n => { d with m := d.m.set n.toFin v }
  | .agAt k => d.putSec k { d.sec k with agAt := v }
  | .agIt k => d.putSec k { d.sec k with agIt := v }
  | .agMt k => d.putSec k { d.sec k with agMt := v }
  | .agDt k => d.putSec k { d.sec k with agDt := v }
  | .dcsr => d.storeDcsr v
  | .sr => { d with sr := v &&& 0xF900 }
  | .idr => d
  | .dmar => { d with dmar := v &&& 0x0F0F }
  | .pc => { d with pc := v }
  | .ss => { d with ss := d.ss.set d.ssCell.toFin v }
  | .la => { d with la := v }
  | .csl => { d with csl := d.csl.set d.csCell.toFin v }
  | .lc => { d with lc := v }
  | .csh => { d with csh := d.csh.set d.csCell.toFin v }
  | .sp => d.storeSp v
  | .sar n => { d with sar := d.sar.set n.toFin v }
  | .cntr => { d with cntr := v }
  | .ccr k => d.putSec k { d.sec k with ccr := v }
  | .pdnr k => d.putSec k { d.sec k with pdnr := v &&& 0x83BF }

/-! ## The register area of the CPU's address space -/

/-- What stands at a word offset of the area 0x1848_0000 (R104, R105, R117, R120, R138, R139, R150). -/
inductive DspSlot where
  | rf (sec : Bool) (n : BitVec 5)
  | ac (sec one : Bool)
  | reg (r : DspReg)
  | eccCsr (n : Fin 7)
  | eccFifo (n : Fin 7)
  | maskr
  | qstr
  | nothing
  deriving DecidableEq, Repr

/-- The slot of an offset. -/
def dspSlotAt (off : Nat) : DspSlot :=
  let k (m : Nat) : Bool := off / m % 2 == 1
  let n3 : BitVec 3 := BitVec.ofNat 3 (off / 4)
  if off < 0x80 then .rf (k 0x40) (BitVec.ofNat 5 (off % 0x40 / 4 * 2))
  else if off < 0xA0 then .reg (.a n3)
  else if off < 0xC0 then .reg (.i n3)
  else if off < 0xE0 then .reg (.m n3)
  else if off < 0x100 then
    match off % 0x10 with
    | 0x0 => .reg (.agAt (k 0x10))
    | 0x4 => .reg (.agIt (k 0x10))
    | 0x8 => .reg (.agMt (k 0x10))
    | _ => .reg (.agDt (k 0x10))
  else if 0x180 ≤ off && off < 0x200 then .rf (k 0x40) (BitVec.ofNat 5 (off % 0x40 / 4 * 2 + 1))
  else if 0x200 ≤ off && off < 0x238 then
    let u : Fin 7 := Fin.ofNat 7 ((off - 0x200) / 8)
    if off % 8 = 0 then .eccCsr u else .eccFifo u
  else match off with
    | 0x100 => .reg .dcsr
    | 0x104 => .reg .sr
    | 0x108 => .reg .idr
    | 0x110 => .reg .dmar
    | 0x120 => .reg .pc
    | 0x124 => .reg .ss
    | 0x128 => .reg .la
    | 0x12C => .reg .csl
    | 0x130 => .reg .lc
    | 0x134 => .reg .csh
    | 0x138 => .reg .sp
    | 0x13C => .reg (.sar 0)
    | 0x140 => .reg .cntr
    | 0x144 => .reg (.sar 1)
    | 0x148 => .reg (.sar 2)
    | 0x14C => .reg (.sar 3)
    | 0x150 => .reg (.sar 4)
    | 0x154 => .reg (.sar 5)
    | 0x158 => .reg (.sar 6)
    | 0x15C => .reg (.sar 7)
    | 0x160 => .reg (.ccr false)
    | 0x164 => .reg (.pdnr false)
    | 0x168 => .ac false false
    | 0x16C => .ac false true
    | 0x170 => .reg (.ccr true)
    | 0x174 => .reg (.pdnr true)
    | 0x178 => .ac true false
    | 0x17C => .ac true true
    | 0x1000 => .maskr
    | 0x1004 => .qstr
    | _ => .nothing

/-- QSTR_DSP: the flags of DCSR (R139). -/
def Dsp.qstr (d : Dsp) : Word := zext (fieldOf d.dcsr 0 4)
/-- dsp_irq, Cause.IP[6] (R140). -/
def Dsp.irq (d : Dsp) : Bool := d.qstr &&& d.maskr != 0

/-- A load of a DSP register; 16-bit registers read in both halves (R146); with the clock off any value (U40). -/
def dspRegRead (off : Nat) (s : State) : Res Word :=
  if !isSet s.sys.clkEn 4 then anyWord s
  else match dspSlotAt off with
    | .rf k n => .ok (s.dsp.sec k).rf[n.toFin] s
    | .ac k one => .ok (if one then (s.dsp.sec k).ac1 else (s.dsp.sec k).ac0) s
    | .reg r =>
      match s.dsp.readReg s.freeBit r with
      | .ok v => .ok (v ++ v) s.drawn
      | .error f => .fault f
    | .eccCsr n => .ok (s.ecc.ctl (.dsp n)).readCsr s
    | .eccFifo n => .ok (s.fifoHead (.dsp n)) (s.fifoPop (.dsp n))
    | .maskr => .ok s.dsp.maskr s
    | .qstr => .ok s.dsp.qstr s
    | .nothing => anyWord s

/-- A store to a DSP register (R146): DMAR and IDR are read-only for the CPU (D32); with the clock off it is discarded. -/
def dspRegWrite (off : Nat) (v : Word) (s : State) : State :=
  if !isSet s.sys.clkEn 4 then s
  else match dspSlotAt off with
    | .rf k n => { s with dsp := s.dsp.putSec k { s.dsp.sec k with rf := (s.dsp.sec k).rf.set n.toFin v } }
    | .ac k one =>
      { s with dsp := s.dsp.putSec k (if one then { s.dsp.sec k with ac1 := v } else { s.dsp.sec k with ac0 := v }) }
    | .reg .dmar => s
    | .reg r => { s with dsp := s.dsp.writeReg (fieldOf v 0 16) r }
    | .eccCsr n => s.writeEccCsr (.dsp n) v
    | .eccFifo n => s.fifoStore (.dsp n)
    | .maskr => { s with dsp := { s.dsp with maskr := v } }
    | .qstr => s
    | .nothing => s

/-! ## Address generation (R874 to R886) -/

/-- The new value of an address register for a signed step under a modifier (R875). A negative step under reverse carry is the two's
complement reversed and added, as the formula of R875 says; to subtract with reversed carries, as R874 says, gives another value
(DESIGN CHOICE, log 39). -/
def aguUpdate (a d m : Half) : Except Fault Half :=
  let ring (size : Nat) (k : Nat) : Half :=
    let base := a.toNat / 2 ^ k * 2 ^ k
    BitVec.ofNat 16 (base + (((a.toNat - base : Int) + d.toInt) % size).toNat)
  let width (size : Nat) : Nat := Nat.log2 (2 * size - 1)
  if m = 0xFFFF then .ok (a + d)
  else if m = 0 then .ok (reverseBits (reverseBits a + reverseBits d))
  else if m.toNat ≤ 0x7FFF then
    let size := m.toNat + 1
    if d.toInt.natAbs ≤ size then .ok (ring size (width size)) else .error .dspModifierReserved
  else
    let low := m.toNat % 0x8000
    if low ≠ 0 ∧ low ≤ 0x3FFF ∧ low &&& (low + 1) = 0 then .ok (ring (low + 1) (width (low + 1)))
    else .error .dspModifierReserved

/-- The effective address of an AGU mode and the address register after it (R878); none where nothing is addressed. -/
def aguMode (mode : BitVec 3) (a i m dspl : Half) : Except Fault (Option Half × Half) :=
  match mode with
  | 0#3 => .ok (none, a)
  | 1#3 => .ok (some a, a)
  | 2#3 => (aguUpdate a 1 m).map fun x => (some a, x)
  | 3#3 => (aguUpdate a (-1) m).map fun x => (some a, x)
  | 4#3 => (aguUpdate a i m).map fun x => (some a, x)
  | 5#3 => (aguUpdate a (-i) m).map fun x => (some a, x)
  | 6#3 => (aguUpdate a i m).map fun x => (some x, a)
  | _ => (aguUpdate a dspl m).map fun x => (some x, a)

/-- The effective address of an AGU-Y mode and AT after it (R881). -/
def aguYMode (code : BitVec 2) (ym : Bool) (x : DspSection) : Except Fault (Option Half × Half) :=
  match code with
  | 0#2 => .ok (none, x.agAt)
  | 1#2 => .ok (some x.agAt, x.agAt)
  | 2#2 => (aguUpdate x.agAt x.agIt x.agMt).map fun y => (some x.agAt, y)
  | _ =>
    if ym then (aguUpdate x.agAt x.agDt x.agMt).map fun y => (some x.agAt, y)
    else (aguUpdate x.agAt x.agIt x.agMt).map fun y => (some y, x.agAt)

/-- The cell an AGU address reaches for a section (R886). An address of 0x8000 or more in SIMD mode, for which R886 gives no cell, goes
to that of its low 15 bits (DESIGN CHOICE, log 39). -/
def Dsp.xCell (d : Dsp) (k : Bool) (ea : Half) : Half :=
  if d.simd then 2 * ea + (if isSet d.sr 8 != k then 1 else 0) else ea
/-- The cell an AGU-Y address reaches for a section (R886); 0x8000 and more as for `xCell` (log 39). -/
def Dsp.yCell (d : Dsp) (k : Bool) (ea : Half) : Half := if d.simd then 2 * ea + (if k then 1 else 0) else ea
/-- The byte address of an internal cell (R147). -/
def cellAddr (p : Half) : Nat := 0x18400000 + 4 * p.toNat
/-- The Hamming controller of a cell: that of the section whose memory holds it, the odd cells being those of section 1 (R150,
R886; DEDUCED, log 39). -/
def cellUnit (p : Half) : EccUnit :=
  .dsp (if p.toNat < 0x8000 then (if isSet p 0 then 2 else 1) else (if isSet p 0 then 4 else 3))

/-! ## Flags, scaling, saturation, rounding (R860 to R868) -/

/-- CCR after an instruction's operations (R860, R863). An OP1 gives flags {U, N, Z, V, C} and says which of them it fills;
an OP2 fills the additional field and what the OP1 leaves of the main one. Ev and Evm are sticky. -/
def ccrAfter (ccr : Half) (f1 : Option (BitVec 5 × BitVec 5)) (f2 : Option (BitVec 5)) : Half :=
  let (sets, f) := f1.getD (0, 0)
  let rest := f2.getD (fieldOf ccr 0 5)
  let main := mergeBits sets f rest
  let newV := isSet main 1 && (isSet sets 1 || f2.isSome)
  let ccr := putField ccr 0 main
  let ccr := if newV then putBit ccr 5 true else ccr
  match f2 with
  | some g =>
    let ccr := putField ccr 10 g
    if isSet g 1 then putBit ccr 15 true else ccr
  | none => ccr

/-- {U, N, Z, V, C} of a delivered result (R861). -/
def flagsOf {w : Nat} (r : BitVec w) (v c : Bool) : BitVec 5 :=
  flag (isSet r (w - 1) == isSet r (w - 2)) ++ flag (isSet r (w - 1)) ++ flag (r == 0) ++ flag v ++ flag c

/-- {U, N, Z, V, C} of the stages D[msb+1:0] of an adder (R861): the top one serves V alone. -/
def stageFlags {w : Nat} (d : BitVec (w + 1)) (c : Bool) : BitVec 5 :=
  let r : BitVec w := d.setWidth w
  flagsOf r (isSet d w != isSet d (w - 1)) c

/-- What an operation delivers in w bits of the exact value x of its adder: D[msb:0] shifted by the scaling (R866), the stage msb+1 being
there for the flags alone (R861); with saturation the bound with the sign of x when x is out of range (R867). The flags are those of the
stages of the adder, before scaling and saturation (R861). Saturation looks at the adder's value, before the scaling, and the bound is
delivered unscaled (R866 and R867 give no order; DESIGN CHOICE, log 25). -/
def deliver (w : Nat) (x : Int) (shift : Option Nat) (c sat : Bool) : BitVec w × BitVec 5 :=
  let out : Bool := decide (x < -(2 ^ (w - 1)) ∨ 2 ^ (w - 1) ≤ x)
  let d : BitVec w := BitVec.ofInt w x
  let r : BitVec w := if sat && out then (if x < 0 then BitVec.intMin w else BitVec.intMax w) else d.sshiftRight (shift.getD 0)
  (r, stageFlags (BitVec.ofInt (w + 1) x) c)

/-- The sum of an adder one stage wider than its operands: its exact value, and the carry of stage msb, or with scaling on of stage
msb+1 (R861, R866). -/
def addStage {w : Nat} (x y : BitVec w) (cin scaled : Bool) : Int × Bool :=
  let low (n : Nat) : Bool :=
    decide (2 ^ n ≤ (x.signExtend n).toNat + (y.signExtend n).toNat + cin.toNat)
  (x.toInt + y.toInt + cin.toNat, if scaled then low (w + 1) else low w)

/-- What the adder sums for an additive operation: two operands and the carry in (R853; log 25). -/
def DspAu.operands {w : Nat} (op : DspAu) (x y : BitVec w) (c : Bool) : BitVec w × BitVec w × Bool :=
  match op with
  | .abs => if isSet x (w - 1) then (0, ~~~x, true) else (x, 0, false)
  | .neg => (0, ~~~x, true)
  | .add => (x, y, false)
  | .sub => (x, ~~~y, true)
  | .adc => (x, y, c)
  | .sbc => (x, ~~~y, c)

/-- One component of an additive operation (R861, R866, R867). -/
def DspAu.apply {w : Nat} (op : DspAu) (x y : BitVec w) (c : Bool) (shift : Option Nat) (sat : Bool) : BitVec w × BitVec 5 :=
  let (a, b, cin) := op.operands x y c
  let r := addStage a b cin shift.isSome
  deliver w r.1 shift r.2 sat

/-- The flags of two components: those they agree on; V when either overflows; else unspecified (log 25). -/
def joinFlags (f g free : BitVec 5) : BitVec 5 := mergeBits (f ^^^ g) free f ||| ((f ||| g) &&& 2)

/-- An operation on the components of a format (R853): one of 32 bits, one of 16, or the two halves of a complex word. -/
def DspFmt.each (fmt : DspFmt) (x y : Word) (free : Word)
    (f : (w : Nat) → BitVec w → BitVec w → BitVec w × BitVec 5) : Word × BitVec 5 :=
  let half (k : Nat) := f 16 (fieldOf x k 16) (fieldOf y k 16)
  match fmt with
  | .long => f 32 x y
  | .short => (zext (half 0).1, (half 0).2)
  | .complex => ((half 16).1 ++ (half 0).1, joinFlags (half 16).2 (half 0).2 (fieldOf free 0 5))

/-- The scaling in force: PDNR.Esc or the instruction's field M (R866, U30). -/
def scaling (x : DspSection) (m : Bool) : Except Fault (Option Nat) :=
  if m || isSet x.pdnr 15 then
    let sc : BitVec 2 := fieldOf x.pdnr 8 2
    if sc = 3 then .error .dspScaleReserved else .ok (some sc.toNat)
  else .ok none

/-- The rounding unit r of a 32-bit value (R864). -/
def roundUnit (r : Word) (twos : Bool) : Half :=
  if !isSet r 15 then 0 else if !twos && !isSet r 16 && fieldOf r 0 15 == (0 : BitVec 15) then 0 else 1

/-- The denormalisation parameter of a w-bit number (R868); none where no bit differs from the sign. -/
def pdnOf {w : Nat} (x : BitVec w) : Option Nat :=
  ((List.range (w - 1)).reverse.find? fun n => isSet x n != isSet x (w - 1)).map fun n => w - 1 - n - 1

/-- The denormalisation parameter of a word: one 32-bit number, or the smaller of those of two 16-bit ones (R868). That of 0 and of
all ones is unspecified (N2). -/
def pdnWord (v : Word) (complex : Bool) (free : Word) : Nat :=
  let half (k : Nat) : Nat := (pdnOf (fieldOf v k 16 : Half)).getD (fieldOf free k 16 : Half).toNat
  if complex then min (half 0) (half 16) else (pdnOf v).getD free.toNat

/-- PDNR after a transfer between RF and XRAM (R868): Cpdn is the smaller of what it holds and the parameter of the data. Nothing starts
the minimum anew but a write of PDNR, not even Epdn when it is set (DESIGN CHOICE, log 25). -/
def trackPdn (x : DspSection) (p : Half) (v : Word) (free : Word) : DspSection :=
  if isSet x.pdnr 7 && decide (p.toNat < 0x8000) then
    let n := pdnWord v (isSet x.pdnr 5) free
    let cur : BitVec 5 := fieldOf x.pdnr 0 5
    { x with pdnr := putField x.pdnr 0 (if n < cur.toNat then BitVec.ofNat 5 n else cur) }
  else x

/-- A 16-bit register written: Rk is the low half of Rk.L for even k, R(k+1) its high half (R103). -/
def DspSection.putShort (x : DspSection) (n : BitVec 5) (v : Half) : DspSection :=
  let k := (n &&& 0x1E).toFin
  { x with rf := x.rf.set k (putField x.rf[k] (if isSet n 0 then 16 else 0) v) }
/-- A 16-bit register read (R103). -/
def DspSection.getShort (x : DspSection) (n : BitVec 5) : Half :=
  fieldOf x.rf[(n &&& 0x1E).toFin] (if isSet n 0 then 16 else 0) 16

/-- A shift or rotation of one component by n with {U, N, Z, V, C} (R862), which are those of the value shifted, before saturation
replaces it (R861, R867). C of a shift by 0 and the result of ASRLE are unspecified (DESIGN CHOICE, log 25). -/
def DspShift.apply {w : Nat} (op : DspShift) (x : BitVec w) (n : Nat) (sat : Bool) (free : Word) (freeC : Bool) :
    BitVec w × BitVec 5 :=
  let r : BitVec w := match op with
    | .asl | .lsl => x <<< n
    | .asr => x.sshiftRight n
    | .lsr => x >>> n
    | .rol => x.rotateLeft n
    | .ror => x.rotateRight n
    | .asrle => free.setWidth w
  let left := op == .asl || op == .lsl || op == .rol
  let lost : Bool := left && (List.range (min n w)).any fun j => isSet x (w - 1 - j) != isSet r (w - 1)
  let c : Bool :=
    if n = 0 then freeC
    else match op with
      | .asl | .lsl => decide (n ≤ w) && isSet x (w - n)
      | .asr => isSet x (min (n - 1) (w - 1))
      | .lsr => isSet x (n - 1)
      | .rol => isSet r 0
      | .ror => isSet r (w - 1)
      | .asrle => freeC
  (if sat && op == .asl && lost then (if isSet x (w - 1) then BitVec.intMin w else BitVec.intMax w) else r, flagsOf r lost c)

/-! ## The computational operations of a section (R852, R853) -/

/-- A register an operation writes. -/
inductive DspWrite where
  | rf (fmt : DspFmt) (n : BitVec 5) (v : Word)
  | acPair (v : Dword)
  deriving DecidableEq, Repr

/-- An operand in the format of the operation (R103). -/
def DspSection.operand (x : DspSection) (fmt : DspFmt) (n : BitVec 5) : Word :=
  match fmt with
  | .short => zext (x.getShort n)
  | _ => x.rf[n.toFin]

/-- The accumulator pair of MAC and MACL (R105, R853; log 25). -/
def DspSection.accPair (x : DspSection) : Dword := if Config.dspHighIsAc1 then x.ac1 ++ x.ac0 else x.ac0 ++ x.ac1

/-- A result written. -/
def DspSection.put (x : DspSection) : DspWrite → DspSection
  | .rf .short n v => x.putShort n (fieldOf v 0 16)
  | .rf _ n v => { x with rf := x.rf.set n.toFin v }
  | .acPair v =>
    let hi : Word := fieldOf v 32 32
    let lo : Word := fieldOf v 0 32
    if Config.dspHighIsAc1 then { x with ac1 := hi, ac0 := lo } else { x with ac0 := hi, ac1 := lo }

/-- The denormalisation parameter of an operand by its format (R868). -/
def pdnFmt (fmt : DspFmt) (v free : Word) : Nat :=
  match fmt with
  | .long => pdnWord v false free
  | .short => (pdnOf (fieldOf v 0 16 : Half)).getD free.toNat
  | .complex => pdnWord v true free

/-- The flags of a result whose function no source states: U, N and Z are those of the result (R861), V and C are free. -/
def unstatedFlags {w : Nat} (r : BitVec w) (free : Word) : BitVec 5 := flagsOf r (isSet free 1) (isSet free 0)

/-- An OP1 (R853): what it writes, the flags it fills and gives, and flag E of CMPE. `free` are the draws of the section. The rounding
operations round the unscaled value, and the scaling shifts what R864 calls the result; their C is the carry of R[31:16] + r, that of
the 32-bit sum or difference being dropped (DESIGN CHOICE, log 25). A result that saturates sets V whatever flags the operation fills
(R867). -/
def DspSection.op1 (x : DspSection) (free : Nat → Word) (o : DspOp1) :
    Except Fault (List DspWrite × (BitVec 5 × BitVec 5) × Option Bool) :=
  let sat := isSet x.ccr 8
  let au (op : DspAu) (fmt : DspFmt) (a b : BitVec 5) (sh : Option Nat) : Word × BitVec 5 :=
    fmt.each (x.operand fmt a) (x.operand fmt b) (free 0) fun _ p q => op.apply p q (isSet x.ccr 0) sh sat
  match o with
  | .au op fmt dst a b m => (scaling x m).map fun sh =>
      let r := au op fmt a b sh
      ([.rf fmt dst r.1], (0x1F, r.2), none)
  | .addSub fmt dst dst2 a b m => (scaling x m).map fun sh =>
      let r := au .add fmt a b sh
      let q := au .sub fmt a b sh
      ([.rf fmt dst r.1, .rf fmt dst2 q.1], (0x1F, joinFlags r.2 q.2 (fieldOf (free 1) 0 5)), none)
  | .round op dst a b m => (scaling x m).map fun sh =>
      let u := x.rf[a.toFin]
      let v := x.rf[b.toFin]
      let sum : Int := match op with
        | .value => u.toInt
        | .sum => u.toInt + v.toInt
        | .difference => u.toInt - v.toInt
        | .unstated => (free 0).toInt
      let unit : Int := (roundUnit (BitVec.ofInt 32 sum) (isSet x.ccr 9)).toNat
      let high := sum / 2 ^ 16
      let top : Nat := if sh.isSome then 17 else 16
      let r := deliver 16 (high + unit) sh (decide (2 ^ top ≤ high % 2 ^ top + unit)) sat
      ([.rf .short dst (zext r.1)], (0x1F, r.2), none)
  | .auOther fmt dst dst2 sets m => (scaling x m).map fun sh =>
      let fills (f : BitVec 5) : BitVec 5 := if sat && isSet f 1 then sets ||| 2 else sets
      let result (k : Nat) := fmt.each (free k) (free (k + 1)) (free (k + 2)) fun w p _ =>
        let raw : BitVec (w + 1) := p.setWidth w ++ fieldOf (free (k + 3)) 0 1
        deliver w raw.toInt sh (isSet (free (k + 3)) 1) sat
      let r := result 0
      match dst2 with
      | none => ([.rf fmt dst r.1], (fills r.2, r.2), none)
      | some d2 =>
        let q := result 4
        let f := joinFlags r.2 q.2 (fieldOf (free 8) 0 5)
        ([.rf fmt dst r.1, .rf fmt d2 q.1], (fills f, f), none)
  | .cmpe => .ok ([], (0, 0), some (isSet (free 0) 0))
  | .pdn fmt dst src =>
      let n : Half := BitVec.ofNat 16 (pdnFmt fmt (x.operand fmt src) (free 0))
      .ok ([.rf .short dst (zext n)], (0x1F, unstatedFlags n (free 1)), none)
  | .other dst dst2 sets =>
      let exponent := dst2.map fun d => DspWrite.rf .short d (free 2)
      .ok ([.rf .long dst (free 0)] ++ exponent.toList, (sets, unstatedFlags (free 0) (free 1)), none)

/-- An OP2 (R853): what it writes and its flags. The shift count in a register is all its 16 bits, unsigned, counts above the width
included; a complex shift has one count for both halves; and the 64-bit results of MAC and MACL saturate (R853, R862, R867; DESIGN CHOICE,
log 25). -/
def DspSection.op2 (x : DspSection) (free : Nat → Word) (o : DspOp2) : List DspWrite × BitVec 5 :=
  let sat := isSet x.ccr 8
  match o with
  | .shift op fmt dst src count =>
      let n : Nat := match count with
        | .imm n => n.toNat
        | .reg r => (x.getShort r).toNat
      let v := x.operand fmt src
      let r := fmt.each v v (free 0) fun _ p _ => op.apply p n sat (free 1) (isSet (free 2) 0)
      ([.rf fmt dst r.1], r.2)
  | .mac long a b =>
      let p : Int :=
        if long then x.rf[a.toFin].toInt * x.rf[b.toFin].toInt else (x.getShort a).toInt * (x.getShort b).toInt
      let y : Dword := BitVec.ofInt 64 (if Config.dspFraction then 2 * p else p)
      let sum := x.accPair.toInt + (if Config.dspFraction then 2 * p else p)
      let r := deliver 64 sum none (decide (2 ^ 64 ≤ x.accPair.toNat + y.toNat)) sat
      ([.acPair r.1], r.2)
  | .mpx dst =>
      let part (k : Nat) := deliver 16 (fieldOf (free k) 0 17 : BitVec 17).toInt none (isSet (free k) 17) sat
      ([.rf .complex dst ((part 1).1 ++ (part 0).1)], joinFlags (part 1).2 (part 0).2 (fieldOf (free 2) 0 5))
  | .macOther =>
      let part (k : Nat) := unstatedFlags (free k) (free 2 >>> (2 * k))
      ([.acPair (free 0 ++ free 1)], joinFlags (part 0) (part 1) (fieldOf (free 2) 4 5))
  | .other dst => ([.rf .long dst (free 0)], unstatedFlags (free 0) (free 1))

/-- The operations of an instruction in one section: both read the registers as they were before (R852, R860). -/
def DspSection.compute (x : DspSection) (free : Nat → Word) (o1 : Option DspOp1) (o2 : Option DspOp2) :
    Except Fault DspSection :=
  let r2 := o2.map (x.op2 fun k => free (k + 9))
  let finish (w1 : List DspWrite) (f1 : Option (BitVec 5 × BitVec 5)) (e : Option Bool) : DspSection :=
    let y := (w1 ++ (r2.map Prod.fst).getD []).foldl DspSection.put x
    let ccr := ccrAfter y.ccr f1 (r2.map Prod.snd)
    { y with ccr := match e with
      | some e => putBit ccr 6 e
      | none => ccr }
  match o1 with
  | none => .ok (finish [] none none)
  | some o => (x.op1 free o).map fun r => finish r.1 (some r.2.1) r.2.2

/-! ## Sections and data memory -/

/-- The state with a section changed. -/
def State.mapSec (s : State) (k : Bool) (f : DspSection → DspSection) : State :=
  { s with dsp := s.dsp.putSec k (f (s.dsp.sec k)) }

/-- Something done in each section that computes: section 0, and section 1 in SIMD mode (R855). d is the DSP before the
instruction. -/
def eachSection (d : Dsp) (f : Bool → State → Res Unit) (s : State) : Res Unit :=
  (f false s).andThen fun _ s => if d.simd then f true s else .done s

/-- The operations of an instruction in one section. -/
def computeIn (i : DspInstr) (k : Bool) (s : State) : Res Unit :=
  match (s.dsp.sec k).compute s.freeAt i.op1 i.op2 with
  | .ok x => .done ({ s with dsp := s.dsp.putSec k x }.drawnBy 12)
  | .error f => .fault f

/-- A cell read by the DSP; any value when the CPU or DMA wrote its page at the same time (R148, U34, log 24). -/
def cellRead (p : Half) (s : State) : Res Word :=
  (protRead (cellUnit p) (cellAddr p) s).andThen fun w t =>
    if s.dsp.extWrites &&& dataPage (cellAddr p) != 0 then anyWord t else .ok w t

/-- A cell written by the DSP; any value is left when the CPU or DMA accessed its page at the same time (R148, U34, log 24). -/
def cellWrite (p : Half) (v : Word) (s : State) : Res Unit :=
  if (s.dsp.extReads ||| s.dsp.extWrites) &&& dataPage (cellAddr p) != 0 then
    protWrite (cellUnit p) (cellAddr p) 0xF s.freeWord s.drawn
  else protWrite (cellUnit p) (cellAddr p) 0xF v s

/-- A transfer from data memory to a register of one section (R855, R886, R868). -/
def loadCell (k : Bool) (p : Half) (dst : BitVec 5) (s : State) : Res Unit :=
  (cellRead p s).andThen fun v s =>
    .done (s.mapSec k fun x => trackPdn { x with rf := x.rf.set dst.toFin v } p v s.freeWord).drawn

/-- A word transferred from a section to data memory. -/
def storeCell (k : Bool) (p : Half) (v : Word) (s : State) : Res Unit :=
  (cellWrite p v s).andThen fun _ s => .done (s.mapSec k fun x => trackPdn x p v s.freeWord).drawn

/-- The effective address and next address register of an AGU transfer. d is the DSP before the instruction. -/
def Dsp.aguAddress (d : Dsp) (n mode : BitVec 3) (dspl : Half) : Except Fault (Option Half × Half) :=
  aguMode mode d.a[n.toFin] d.i[n.toFin] d.m[n.toFin] dspl

/-- An AGU transfer in the sections that compute (R878, R886): a load, or a store of the register as it was before the
instruction. d is the DSP before it. -/
def aguTransfer (d : Dsp) (load : Bool) (r : BitVec 5) (n mode : BitVec 3) (dspl : Half) (noMove : Bool) (s : State) :
    Res Unit :=
  match d.aguAddress n mode dspl with
  | .error f => .fault f
  | .ok (ea, a) =>
    let s := { s with dsp := { s.dsp with a := s.dsp.a.set n.toFin a } }
    match ea with
    | none => .done s
    | some ea =>
      if noMove then .done s
      else eachSection d (fun k s =>
        if load then loadCell k (d.xCell k ea) r s else storeCell k (d.xCell k ea) (d.sec k).rf[r.toFin] s) s

/-- Does the AGU transfer of an instruction reach Y memory (R885)? -/
def Dsp.aguReachesY (d : Dsp) (m : Option DspMove1) : Bool :=
  let reaches (n mode : BitVec 3) (dspl : Half) (noMove : Bool) : Bool :=
    match d.aguAddress n mode dspl with
    | .ok (some ea, _) => !noMove && decide (0x8000 ≤ (d.xCell false ea).toNat)
    | _ => false
  match m with
  | some (.load _ n mode dspl noMove) => reaches n mode dspl noMove
  | some (.store _ n mode dspl noMove) => reaches n mode dspl noMove
  | _ => false

/-- An AGU-Y read in one section (R881, R885): any value when the AGU reaches Y memory too (U37) or the address is outside
Y memory (DESIGN CHOICE, log 39). -/
def aguYRead (d : Dsp) (clash : Bool) (dst : BitVec 5) (code : BitVec 2) (k : Bool) (s : State) : Res Unit :=
  match aguYMode code (isSet d.sr 11) (d.sec k) with
  | .error f => .fault f
  | .ok (ea, x) =>
    let s := s.mapSec k fun y => { y with agAt := x }
    match ea with
    | none => .done s
    | some ea =>
      let p := d.yCell k ea
      if clash || decide (p.toNat < 0x8000) then
        .done (s.mapSec k fun y => { y with rf := y.rf.set dst.toFin s.freeWord }).drawn
      else loadCell k p dst s

/-! ## Moves over GDB (R101, R853) -/

/-- DMAR written by the DSP: DEn = 1 starts MEM channel n (R1101, D32). -/
def State.dspDmar (s : State) (v : Half) : State :=
  let s := { s with dsp := { s.dsp with dmar := v &&& 0x0F0F } }
  let start (n : Nat) (c : Fin 16) (s : State) : State :=
    if isSet v (8 + n) && isSet s.sys.clkEn 12 then s.putChannel c ((s.channel c).putCsrBit 0 true) else s
  start 3 15 (start 2 14 (start 1 13 (start 0 12 s)))

/-- The 16-bit register that a name of space C means in a section; none for an accumulator. -/
def DspCtl.reg (c : DspCtl) (k : Bool) : Option DspReg :=
  match c with
  | .a n => some (.a n)
  | .i n => some (.i n)
  | .m n => some (.m n)
  | .agAt => some (.agAt k)
  | .agIt => some (.agIt k)
  | .agMt => some (.agMt k)
  | .agDt => some (.agDt k)
  | .dcsr => some .dcsr
  | .sr => some .sr
  | .idr => some .idr
  | .dmar => some .dmar
  | .pc => some .pc
  | .ss => some .ss
  | .la => some .la
  | .csl => some .csl
  | .lc => some .lc
  | .csh => some .csh
  | .sp => some .sp
  | .sar n => some (.sar n)
  | .cntr => some .cntr
  | .ccr => some (.ccr k)
  | .pdnr => some (.pdnr k)
  | .ac _ => none

/-- Is a register of space C one of each section (R855)? -/
def DspCtl.perSection : DspCtl → Bool
  | .agAt | .agIt | .agMt | .agDt | .ccr | .pdnr | .ac _ => true
  | _ => false

/-- An accumulator. -/
def DspSection.acc (x : DspSection) (one : Bool) : Word := if one then x.ac1 else x.ac0
/-- An accumulator written. -/
def DspSection.putAcc (x : DspSection) (one : Bool) (v : Word) : DspSection :=
  if one then { x with ac1 := v } else { x with ac0 := v }

/-- A control register written in one section by a DSP move (R853, R1101, R898): a write of SS or CSH moves the stack pointer
(R130, R132). RST and PC take effect at the end of the instruction. -/
def State.putCtl (s : State) (c : DspCtl) (k : Bool) (v : Word) : State :=
  let h : Half := fieldOf v 0 16
  match c with
  | .ac one => s.mapSec k fun x => x.putAcc one v
  | .dmar => s.dspDmar h
  | .ss => { s with dsp := s.dsp.pushSs h }
  | .csh => { s with dsp := { s.dsp with csh := s.dsp.csh.set s.dsp.csCell.toFin h }.moveCs 1 }
  | .pc => s
  | .dcsr => if isSet h 15 then s else { s with dsp := s.dsp.storeDcsr h }
  | _ => match c.reg k with
    | some r => { s with dsp := s.dsp.writeReg h r }
    | none => s

/-- The value of a control register in one section. PC gives the address of the instruction that moves it (R853 does not say which address;
DESIGN CHOICE, log 25). -/
def Dsp.getCtl (d : Dsp) (c : DspCtl) (k : Bool) : Except Fault (DspFmt × Word) :=
  match c.reg k with
  | some r => (d.readReg true r).map fun h => (.short, zext h)
  | none => .ok (.long, (d.sec k).acc (c == .ac true))

/-- A move over GDB in one section; d is the DSP before the instruction. Shared registers are written from section 0, also
in SIMD mode. A 16-bit immediate is zero-extended for AC0 and AC1, and a move from or to them, and one between two data registers in a
32-bit format, takes all 32 bits at once, though R102 gives GDB 16 (DESIGN CHOICE, log 25). -/
def gdbIn (d : Dsp) (g : DspGdb) (k : Bool) (s : State) : Res Unit :=
  let put (c : DspCtl) (v : Word) : State := if k && !c.perSection then s else s.putCtl c k v
  match g with
  | .imm c v => .done (put c (zext v))
  | .put c n => .done (put c ((d.sec k).operand (if (c.reg k).isSome then .short else .long) n))
  | .get n c =>
    match d.getCtl c k with
    | .ok (fmt, v) => .done (s.mapSec k fun x => x.put (.rf fmt n v))
    | .error f => .fault f
  | .copy fmt dst src => .done (s.mapSec k fun x => x.put (.rf fmt dst ((d.sec k).operand fmt src)))

/-- A move over GDB in the sections that compute; reading SS or CSH moves the stack pointer (R130, R132). -/
def gdbMove (d : Dsp) (g : DspGdb) (s : State) : Res Unit :=
  (eachSection d (gdbIn d g) s).andThen fun _ s =>
    .done (match g with
      | .get _ .ss => { s with dsp := s.dsp.popSs }
      | .get _ .csh => { s with dsp := s.dsp.moveCs (-1) }
      | _ => s)

/-- The value a move over GDB gives a control register, if it writes that one. -/
def DspGdb.value (d : Dsp) (c : DspCtl) : DspGdb → Option Half
  | .imm x v => if x = c then some v else none
  | .put x n => if x = c then some ((d.sec false).getShort n) else none
  | .get _ _ => none
  | .copy _ _ _ => none

/-- The moves over GDB of an instruction. -/
def DspInstr.gdbs (i : DspInstr) : List DspGdb :=
  (match i.move1 with
    | some (.gdb g) => [g]
    | _ => []) ++
  (match i.move2 with
    | some (.gdb g) => [g]
    | _ => [])

/-- The value an instruction's moves give PC (R120): where both write it, that of the second, which writes after the first (DESIGN
CHOICE, log 25). -/
def DspInstr.pcMove (i : DspInstr) (d : Dsp) : Option Half := (i.gdbs.filterMap (DspGdb.value d .pc)).getLast?
/-- Does a move of an instruction write 1 to DCSR.RST (R121)? One is enough, also before a second move that writes DCSR with 0 there
(DESIGN CHOICE, log 25). -/
def DspInstr.resets (i : DspInstr) (d : Dsp) : Bool :=
  i.gdbs.any fun g => ((g.value d .dcsr).map fun v => isSet v 15).getD false

/-- The first move of an instruction. -/
def firstMove (d : Dsp) (m : Option DspMove1) (s : State) : Res Unit :=
  match m with
  | none => .done s
  | some (.load dst n mode dspl noMove) => aguTransfer d true dst n mode dspl noMove s
  | some (.store src n mode dspl noMove) => aguTransfer d false src n mode dspl noMove s
  | some (.gdb g) => gdbMove d g s

/-- The second move of an instruction. -/
def secondMove (d : Dsp) (i : DspInstr) (s : State) : Res Unit :=
  match i.move2 with
  | none => .done s
  | some (.loadY dst code) => eachSection d (aguYRead d (d.aguReachesY i.move1) dst code) s
  | some (.gdb g) => gdbMove d g s

/-! ## Program flow (R882, R890 to R896) -/

/-- The address a target means; pc is the address of the instruction and inc the one after it (R882; log 25). -/
def DspTarget.address (t : DspTarget) (d : Dsp) (pc inc : Half) : Half :=
  let base := if Config.dspRelNext then inc else pc
  match t with
  | .abs v => v
  | .reg n => d.a[n.toFin]
  | .rel v => base + v
  | .relReg n => base + d.a[n.toFin]

/-- The end of a loop: SS is popped, LA and LC are restored (R894). -/
def Dsp.leaveLoop (d : Dsp) : Dsp := d.popSs.popCs

/-- A program address with LC.FV saved in bit 15, as calls and loops push it (R128, R890; DESIGN CHOICE, log 39). -/
def Dsp.withFlag (d : Dsp) (a : Half) : Half := putBit a 15 (isSet d.lc 15)

/-- Program flow: the address it jumps to, if any, and the DSP after it (R890, R892, R894, R896). d0 is the DSP before the
instruction. DO leaves FV clear and DOFOR leaves LF clear, and a call, which saves FV, leaves LC as it is, FV
included (R890; DESIGN CHOICE, log 39); REPEAT leaves PC, LC and LA free (R895, log 25). -/
def DspFlow.run (f : DspFlow) (free : Nat → Word) (d0 : Dsp) (pc inc : Half) (d : Dsp) : Option Half × Dsp :=
  match f with
  | .jump t => (some (t.address d0 pc inc), d)
  | .call t => (some (t.address d0 pc inc), d.pushSs (d.withFlag inc))
  | .ret =>
    let top := d.ssTop
    (some (putBit top 15 false), { d with lc := putBit d.lc 15 (isSet top 15) }.popSs)
  | .doLoop forLoop n last =>
    let e := d.pushCs.pushSs (d.withFlag inc)
    (none, { e with la := last.address d0 pc inc, lc := (if forLoop then 2#2 else 1#2) ++ n })
  | .endDo => (none, d.leaveLoop)
  | .rep =>
    (some (0#4 ++ (fieldOf (free 0) 0 12 : BitVec 12)), { d with lc := fieldOf (free 1) 0 16, la := fieldOf (free 2) 0 16 })
  | .stop => (none, { d with dcsr := putBit d.dcsr 3 true, runOpen := true })

/-- PC after an instruction: the loop rule when its address was LA in a loop it does not end itself (R893, R894), else the jump
taken, else the next address. With Nc = 0 the counter goes on to 0x3FFF (DESIGN CHOICE, log 39). The top of SS is that which the moves
of the instruction leave (DESIGN CHOICE, log 25). -/
def Dsp.nextPc (d : Dsp) (inc : Half) (atLast : Bool) (jump : Option Half) : Dsp :=
  if atLast then
    let nc : BitVec 14 := fieldOf d.lc 0 14
    if nc ≠ 1 then { d with lc := putField d.lc 0 (nc - 1), pc := putBit d.ssTop 15 false }
    else { d.leaveLoop with pc := inc }
  else { d with pc := jump.getD inc }

/-! ## One instruction -/

/-- CCR.t of the sections that compute (R863), by SR.SI as the instruction leaves it (DESIGN CHOICE, log 25). -/
def State.putT (s : State) (t : Bool) : State :=
  let f (y : DspSection) : DspSection := { y with ccr := putBit y.ccr 7 t }
  let s := s.mapSec false f
  if s.dsp.simd then s.mapSec true f else s

/-- The step counter after an instruction (R136, R897). Where the N-th instruction is STOP itself, or raises a stack error, RUN reads as
either value, as U31 says of those, and not 0 as R136 says of the counter (DESIGN CHOICE, log 39). A conditional instruction that does not execute counts among the N too
(DESIGN CHOICE, log 39). -/
def Dsp.countStep (d : Dsp) : Dsp :=
  let d := { d with steps := d.steps + 1 }
  if d.cntr ≠ 0 ∧ d.cntr.toNat ≤ d.steps then { d with dcsr := putBit (putBit d.dcsr 14 false) 2 true } else d

/-- Does an instruction execute: unconditionally, or by the integral flags (R852, R855)? -/
def Dsp.executes (d : Dsp) (i : DspInstr) : Except Fault Bool :=
  match i.cond with
  | none => .ok true
  | some t => d.integral.map fun f => t.getLsbD f.toNat

/-- A word of PRAM fetched through the controller of its half, Hp1 for odd addresses (R150, R850; DEDUCED, log 39); its value is the
schedule's (log 25). -/
def pramFetch (p : Half) (s : State) : Res Unit :=
  if 0x0FFF < p.toNat then .done s
  else (protRead (.dsp (if isSet p 0 then 6 else 5)) (0x18440000 + 4 * p.toNat) s).mapVal fun _ => ()

/-- The operations, moves and flow of an instruction that executes: the address it jumps to, if any. -/
def dspExecute (i : DspInstr) (inc : Half) (s : State) : Res (Option Half) :=
  let d := s.dsp
  (eachSection d (computeIn i) s).andThen fun _ s => (firstMove d i.move1 s).andThen fun _ s =>
    (secondMove d i s).andThen fun _ s =>
      match i.flow with
      | none => .ok (i.pcMove d) s
      | some f =>
        let r := f.run s.freeAt d d.pc inc s.dsp
        .ok (r.1.or (i.pcMove d)) ({ s with dsp := r.2 }.drawnBy 3)

/-- One DSP instruction (R850): nothing outside RUN; a breakpoint stops before it, again as often as the DSP is started there
(R135, R897; DESIGN CHOICE, log 39). LA ends a loop only while LC.LF or LC.FV says that one runs (R893 names LA alone; DESIGN CHOICE,
log 39). A 64-bit instruction starts at any word and takes two addresses; at 0x0FFF its second word is not
fetched (R851; DESIGN CHOICE, log 39). A write of 1 to RST ends it with the reset of R142. -/
def dspStep (i : DspInstr) (s : State) : Res Unit :=
  if !s.dspRunning then .done s
  else if 0x0FFF < s.dsp.pc.toNat then .fault .dspPcRange
  else if s.dsp.sar.toList.contains s.dsp.pc then
    .done { s with dsp := { s.dsp with dcsr := putBit (putBit s.dsp.dcsr 14 false) 2 true } }
  else
    let d := s.dsp
    let inc := d.pc + (if i.wide then 2 else 1)
    match d.executes i with
    | .error f => .fault f
    | .ok go =>
      (pramFetch d.pc s).andThen fun _ s => (if i.wide then pramFetch (d.pc + 1) s else .done s).andThen fun _ s =>
        (if go then dspExecute i inc s else .ok none s).andThen fun jump s =>
          if go && i.resets d then .done { s with dsp := s.dsp.coreReset }
          else
            let looping := isSet d.lc 14 || isSet d.lc 15
            let atLast := looping && d.pc == d.la && !(go && i.flow == some .endDo)
            let s := s.putT (go && i.cond.isSome)
            .done { s with dsp := (s.dsp.nextPc inc atLast jump).countStep }

/-! ## An instruction that takes time (R148, log 24) -/

/-- The pages of data memory the moves of an instruction read and write, in the sections that compute (R855, R886). -/
def Dsp.movePages (d : Dsp) (i : DspInstr) : BitVec 4 × BitVec 4 :=
  let pages (cell : Bool → Option Half) : BitVec 4 :=
    (if d.simd then [false, true] else [false]).foldl (fun b k => b ||| ((cell k).map fun p => dataPage (cellAddr p)).getD 0) 0
  let agu (n mode : BitVec 3) (dspl : Half) (noMove : Bool) : BitVec 4 :=
    match d.aguAddress n mode dspl with
    | .ok (some ea, _) => if noMove then 0 else pages fun k => some (d.xCell k ea)
    | _ => 0
  let aguY (code : BitVec 2) : BitVec 4 :=
    pages fun k => match aguYMode code (isSet d.sr 11) (d.sec k) with
      | .ok (some ea, _) => if 0x8000 ≤ (d.yCell k ea).toNat then some (d.yCell k ea) else none
      | _ => none
  let y : BitVec 4 := match i.move2 with
    | some (.loadY _ code) => aguY code
    | _ => 0
  match i.move1 with
  | some (.load _ n mode dspl noMove) => (agu n mode dspl noMove ||| y, 0)
  | some (.store _ n mode dspl noMove) => (y, agu n mode dspl noMove)
  | _ => (y, 0)

/-- A DSP instruction begins: from here to its end the data pages it accesses are in use. -/
def dspBegin (i : DspInstr) (s : State) : State :=
  if !s.dspRunning || s.dsp.inFlight.isSome then s
  else
    let d := s.dsp
    let stops := d.sar.toList.contains d.pc
    let p : BitVec 4 × BitVec 4 := match d.executes i with
      | .ok true => if stops then (0, 0) else d.movePages i
      | _ => (0, 0)
    { s with dsp := { d with inFlight := some i, pageReads := p.1, pageWrites := p.2, extReads := 0, extWrites := 0 } }

/-- The DSP instruction in execution is done. -/
def dspEnd (s : State) : Res Unit :=
  match s.dsp.inFlight with
  | none => .done s
  | some i =>
    (dspStep i s).andThen fun _ s =>
      .done { s with dsp :=
        { s.dsp with inFlight := none, pageReads := 0, pageWrites := 0, extReads := 0, extWrites := 0 } }

end Sys2Proof.Machine
end

