-- ==== Sys2Proof/Machine/Timers.lean ====
section
/-! DEFINITION. Timers: IT, RTT, WDT and Count/Compare: their registers (spec R200 to R213) and their ticks (R1060 to
R1071). -/

namespace Sys2Proof.Machine

open Sys2Proof

/-! ## Interval timer -/

/-- A read of an IT register at its offset in the timer block (R200). -/
def ItTimer.read (t : ItTimer) (off : Nat) : Word :=
  match off with
  | 0x00 => bitAt t.int 1 ||| bitAt t.en 0
  | 0x04 => t.period
  | 0x08 => t.count
  | 0x0C => zext t.scale
  | _ => 0

/-- A store to an IT register (R201, R202, D44). -/
def ItTimer.write (t : ItTimer) (off : Nat) (v : Word) : ItTimer :=
  match off with
  | 0x00 =>
    let t := { t with en := isSet v 0, int := t.int && isSet v 1 }
    if isSet v 0 then { t with scount := t.scale, count := t.period } else t
  | 0x04 => { t with period := v }
  | 0x08 => { t with count := v }
  | 0x0C => { t with scale := fieldOf v 0 8 }
  | _ => t

/-- One CLK tick (R1060). -/
def ItTimer.tick (t : ItTimer) : ItTimer :=
  if t.en then
    if t.scount ≠ 0 then { t with scount := t.scount - 1 }
    else if t.count ≠ 0 then { t with count := t.count - 1, scount := t.scale }
    else { t with int := true, scount := t.scale, count := t.period }
  else t

/-! ## Real-time timer -/

/-- A read of an RTT register (R205, R207). -/
def RtTimer.read (t : RtTimer) (off : Nat) : Word :=
  match off with
  | 0x20 => bitAt t.int 1 ||| bitAt t.en 0
  | 0x24 => t.period
  | 0x28 => t.count
  | _ => 0

/-- A store to an RTT register; RTCOUNT goes to the write buffer (R206, R207). -/
def RtTimer.write (t : RtTimer) (off : Nat) (v : Word) : RtTimer :=
  match off with
  | 0x20 =>
    let t := { t with en := isSet v 0, int := t.int && isSet v 1 }
    if isSet v 0 then { t with count := t.period } else t
  | 0x24 => { t with period := v }
  | 0x28 => { t with pending := some v }
  | _ => t

/-- One RTCXTI tick (R1065). -/
def RtTimer.tick (t : RtTimer) : RtTimer :=
  match t.pending with
  | some v => { t with count := v, pending := none }
  | none =>
    if t.en then
      if t.count ≠ 0 then { t with count := t.count - 1 } else { t with int := true, count := t.period }
    else t

/-! ## Watchdog timer -/

/-- A read of a WDT register (R210, R211). -/
def WdTimer.read (t : WdTimer) (off : Nat) : Word :=
  match off with
  | 0x10 => putField (zext t.key ||| bitAt t.en 8 ||| bitAt t.int 9 ||| bitAt t.mode 10 ||| bitAt t.rld 11) 12 t.intCtr
  | 0x14 => t.period
  | 0x18 => t.count
  | 0x1C => zext t.scale
  | _ => 0

/-- A store to WTCSR (the listing of R213, D40). Leaving Timeout stops the counters at 0 but keeps EN, and nothing holds them there: see
`WdTimer.tick` (DESIGN CHOICE, log 42). -/
def WdTimer.writeCsr (t : WdTimer) (v : Word) : WdTimer :=
  let k := fieldOf v 0 8
  if t.timeout then
    if t.key1 && k == 0xF5 then
      { t with timeout := false, mode := true, key1 := false, key := k, count := 0, scount := 0 }
    else { t with key1 := k == 0xA0, key := k }
  else if t.en && !t.mode then
    if t.key1 then
      if k == 0xF5 then { t with key := k, mode := true, key1 := false }
      else { t with key := k, timeout := true, int := true, key1 := false }
    else { t with key := k, key1 := k == 0xA0 }
  else if t.en then { t with en := isSet v 8, int := t.int && isSet v 9 }
  else
    let toWdm := t.mode && !isSet v 10
    let clearInt := t.mode && !isSet v 9
    let t := { t with
      mode := isSet v 10, rld := isSet v 11, intCtr := fieldOf v 12 2,
      key := if toWdm then 0 else t.key, key1 := !toWdm && t.key1, int := !(toWdm || clearInt) && t.int,
      en := isSet v 8 }
    if isSet v 8 then { t with scount := t.scale, count := t.period } else t

/-- A store to a WDT register; all but WTCSR are writable only while the timer is inactive (R212). -/
def WdTimer.write (t : WdTimer) (off : Nat) (v : Word) : WdTimer :=
  if off = 0x10 then t.writeCsr v
  else if t.en || t.timeout then t
  else match off with
    | 0x14 => { t with period := v }
    | 0x18 => { t with count := v }
    | 0x1C => { t with scale := fieldOf v 0 8 }
    | _ => t

/-- One CLK tick (R1070). The first one after Timeout was left with EN = 1 finds both counters at 0 and expires: INT is set, and EN is
cleared or, with RLD = 1, the counters are loaded and run on (R213 says "stopped at 0", R1070 counts with EN = 1; DESIGN CHOICE,
log 42). -/
def WdTimer.tick (t : WdTimer) : WdTimer :=
  if t.en && !t.timeout then
    if t.scount ≠ 0 then { t with scount := t.scount - 1 }
    else if t.count ≠ 0 then { t with count := t.count - 1, scount := t.scale }
    else if !t.mode then { t with timeout := true, int := true }
    else if t.rld then { t with int := true, scount := t.scale, count := t.period }
    else { t with int := true, en := false }
  else t

/-- The level of the output pin WDT (R1071). -/
def WdTimer.pin (t : WdTimer) : Bool := t.int && t.intCtr == 3

/-- The watchdog replaced; INT rising with INT_CTR = 10 requests an NMI (R1071). -/
def State.putWdt (s : State) (t : WdTimer) : State :=
  { s with wdt := t, nmiPending := s.nmiPending || (t.int && !s.wdt.int && t.intCtr == 2) }

/-! ## Count and Compare -/

/-- One CLK tick of Count (R1066). -/
def Cp0.tick (c : Cp0) : Cp0 :=
  { c with count := c.count + 1, timerLatch := c.timerLatch || c.count + 1 == c.compare }

/-! ## The timer block 0x182F_D000 -/

/-- Read of a timer register by its offset in the block (R181). -/
def State.timerRead (s : State) (off : Nat) : Word :=
  if off < 0x10 then s.itimer.read off else if off < 0x20 then s.wdt.read off else s.rtimer.read off

/-- Store to a timer register. -/
def State.timerWrite (s : State) (off : Nat) (v : Word) : State :=
  if off < 0x10 then { s with itimer := s.itimer.write off v }
  else if off < 0x20 then s.putWdt (s.wdt.write off v)
  else { s with rtimer := s.rtimer.write off v }

end Sys2Proof.Machine
end

