-- ==== Sys2Proof/Machine/Uart.lean ====
section
/-! DEFINITION. Uart: registers, interrupt, transmit and receive moves (spec R300 to R312, R1170, R1171, D47). -/

namespace Sys2Proof.Machine

open Sys2Proof

/-- DLAB (R307). -/
def Uart.dlab (u : Uart) : Bool := isSet u.lcr 7
/-- {DLM, DLL} (R311). -/
def Uart.divisor (u : Uart) : Half := u.dlm ++ u.dll

/-- CLK ticks of one character: its bits in halves, eight baud-generator cycles each (R302, R311). -/
def Uart.charTicks (u : Uart) : Nat :=
  let stop := if isSet u.lcr 2 then (if fieldOf u.lcr 0 2 = (0 : BitVec 2) then 3 else 4) else 2
  let halves := 2 * (6 + (fieldOf u.lcr 0 2).toNat + (if isSet u.lcr 3 then 1 else 0)) + stop
  halves * 8 * u.divisor.toNat * (u.sclr.toNat + 1)

/-- LSR.RDR (R309): a character waits in RBR or the FIFO. -/
def Uart.dataReady (u : Uart) : Bool := if u.fewo then !u.rxFifo.isEmpty else u.rdr

/-- The character at the top of the FIFO, or the one in RBR that is not yet read (R302). Characters that FIFO mode left behind wait
behind RBR until FIFO mode comes back (R305, log 32). -/
def Uart.top (u : Uart) : Option UartChar := if u.dataReady then u.rxFifo.head? else none

/-- The error flags LSR shows: of the top character, and in character mode those of every character since LSR was read (R309). -/
def Uart.lineErrors (u : Uart) : Bool × Bool × Bool :=
  let (pe, fe, bi) := match u.top with
    | some c => (c.pe, c.fe, c.bi)
    | none => (false, false, false)
  if u.fewo then (pe, fe, bi) else (pe || u.pe, fe || u.fe, bi || u.bi)

/-- LSR (R309). -/
def Uart.lsr (u : Uart) : Word :=
  let (pe, fe, bi) := u.lineErrors
  bitAt (u.fewo && u.rxFifo.any fun c => c.pe || c.fe || c.bi) 7 ||| bitAt (u.txFifo.isEmpty && u.txSr.isNone) 6 |||
  bitAt u.txFifo.isEmpty 5 ||| bitAt bi 4 ||| bitAt fe 3 ||| bitAt pe 2 ||| bitAt u.oe 1 ||| bitAt u.dataReady 0

/-- The receive trigger level (R305). -/
def Uart.trigger (u : Uart) : Nat :=
  match u.rftl with
  | 0#2 => 1
  | 1#2 => 4
  | 2#2 => 8
  | _ => 14

/-- The highest-priority pending enabled interrupt, its code IID (R306). An overrun raises RLSI until LSR is read or the receive FIFO
is reset. -/
def Uart.source (u : Uart) : Option (BitVec 3) :=
  let (pe, fe, bi) := u.lineErrors
  if isSet u.ier 2 && (u.oeInt || pe || fe || bi) then some 3
  else if isSet u.ier 0 && (if u.fewo then decide (u.trigger ≤ u.rxFifo.length) else u.dataReady) then some 2
  else if isSet u.ier 0 && u.fewo && u.cti && !u.rxFifo.isEmpty then some 6
  else if isSet u.ier 1 && u.threInt then some 1
  else none

/-- The interrupt output (R306). -/
def Uart.irq (u : Uart) : Bool := u.source.isSome

/-- IIR (R304). -/
def Uart.iir (u : Uart) : Word :=
  (if u.fewo then 0xC0 else 0) |||
  match u.source with
  | some iid => zext iid <<< 1
  | none => 1

/-- A load of a UART register: the value (R301, R312). -/
def Uart.read (u : Uart) (off : Nat) : Word :=
  match off with
  | 0x00 =>
    if u.dlab then zext u.dll
    else match u.top with
      | some c => zext c.data
      | none => zext u.rbr
  | 0x04 => if u.dlab then zext u.dlm else zext u.ier
  | 0x08 => u.iir
  | 0x0C => zext u.lcr
  | 0x10 => bitAt u.loop 4
  | 0x14 => u.lsr
  | 0x1C => zext u.spr
  | _ => 0

/-- Is there no room for a character that has arrived (R309)? -/
def Uart.rxFull (u : Uart) : Bool := if u.fewo then decide (16 ≤ u.rxFifo.length) else u.rdr

/-- An overrun: OE, and with it RLSI (R306, R309). -/
def Uart.overrun (u : Uart) : Uart := { u with oe := true, oeInt := true }

/-- The receive move of a character (R1171): with RBR unread it overwrites RBR, and a full FIFO loses it; both set OE. -/
def Uart.store (u : Uart) (c : UartChar) : Uart :=
  let full := u.rxFull
  let u := if full then u.overrun else u
  if u.fewo then (if full then u else { u with rxFifo := u.rxFifo ++ [c] })
  else
    { u with
      rxFifo := c :: (if u.rdr then u.rxFifo.tail else u.rxFifo), rdr := true
      pe := u.pe || c.pe, fe := u.fe || c.fe, bi := u.bi || c.bi }

/-- The character that waits in the shift register makes its receive move. -/
def Uart.storeLast (u : Uart) : Uart :=
  if u.rxSr.full then { u with rxSr := { u.rxSr with full := false } }.store u.rxSr.last else u

/-- A character that waits in the shift register moved on as soon as there is room (R309). -/
def Uart.settle (u : Uart) : Uart := if u.rxFull then u else u.storeLast

/-- The top character read: in character mode RDR is cleared, and its errors stay until LSR is read (R309, R312). -/
def Uart.takeTop (u : Uart) : Uart :=
  match u.top with
  | none => u
  | some c =>
    let u := { u with rbr := c.data, rxFifo := u.rxFifo.tail, rdr := false }
    if u.fewo then u else { u with pe := u.pe || c.pe, fe := u.fe || c.fe, bi := u.bi || c.bi }

/-- A load of a UART register: its side effects (R304, R309, R312). -/
def Uart.readEffect (u : Uart) (off : Nat) : Uart :=
  match off with
  | 0x00 => if u.dlab then u else { u.takeTop with rxTimeout := 0, cti := false }.settle
  | 0x08 => if u.source = some 1 then { u with threInt := false } else u
  | 0x14 =>
    let clean (c : UartChar) : UartChar := { c with pe := false, fe := false, bi := false }
    { u with
      oe := false, oeInt := false, pe := false, fe := false, bi := false
      rxFifo := if u.dataReady then (u.rxFifo.take 1).map clean ++ u.rxFifo.tail else u.rxFifo }
  | _ => u

/-- A store to FCR (R305). A change of FEWO keeps the characters; the first of the FIFO becomes RBR (log 32). The latch of the
transmitter interrupt is set by FEWO only with ETBEI = 1 (R305; DESIGN CHOICE, log 32). A reset of the receive FIFO clears RLSI, also
that of an overrun, and leaves the flag OE to a load of LSR (R306, R309; DEDUCED, log 32). -/
def Uart.storeFcr (u : Uart) (v : Word) : Uart :=
  let rising := isSet v 0 && !u.fewo && isSet u.ier 1
  let rdr := if u.fewo then !u.rxFifo.isEmpty else u.rdr
  let u := { u with fewo := isSet v 0, rdr := rdr, threInt := u.threInt || rising }
  if isSet v 0 then
    let u := { u with rftl := fieldOf v 6 2 }
    let u := if isSet v 1 then { u with rxFifo := [], oeInt := false, cti := false, rxTimeout := 0 } else u
    let u := if isSet v 2 then { u with txFifo := [], threInt := u.threInt || !u.txFifo.isEmpty } else u
    u.settle
  else u

/-- A store to THR (R312). Bytes that FIFO mode left in the transmit FIFO are sent on; a store in character mode replaces them all
(DESIGN CHOICE, log 32). -/
def Uart.storeThr (u : Uart) (b : Byte) : Uart :=
  let u := { u with threInt := false }
  if u.fewo then (if u.txFifo.length < 16 then { u with txFifo := u.txFifo ++ [b] } else u)
  else { u with txFifo := [b] }

/-- Is SOUT held low: LCR.SBC = 1 outside loop mode, where SOUT is high (R307, R308)? -/
def Uart.inBreak (u : Uart) : Bool := isSet u.lcr 6 && !u.loop

/-- The beginning of a break is logged (R1170). -/
def Uart.noteBreak (t u : Uart) (time : Nat) : Uart :=
  if t.inBreak && !u.inBreak then
    { t with sent := t.sent ++ [{ time := time, data := 0, lcr := t.lcr, divisor := t.divisor, brk := true }] }
  else t

/-- A store to MCR (R308): when LOOP changes, the receiver loses the character it was taking from the other input (DESIGN CHOICE,
log 32). -/
def Uart.storeMcr (u : Uart) (v : Word) : Uart :=
  if isSet v 4 = u.loop then u else { u with loop := isSet v 4, rxSr := { u.rxSr with busy := false } }

/-- A store to a UART register (R301). -/
def Uart.write (u : Uart) (time : Nat) (off : Nat) (v : Word) : Uart :=
  match off with
  | 0x00 => if u.dlab then { u with dll := fieldOf v 0 8 } else u.storeThr (fieldOf v 0 8)
  | 0x04 => if u.dlab then { u with dlm := fieldOf v 0 8 } else { u with ier := fieldOf v 0 4 }
  | 0x08 => u.storeFcr v
  | 0x0C => { u with lcr := fieldOf v 0 8 }.noteBreak u time
  | 0x10 => (u.storeMcr v).noteBreak u time
  | 0x14 => { u with sclr := fieldOf v 0 8 }
  | 0x1C => { u with spr := fieldOf v 0 8 }
  | _ => u

/-- A character of the line as it enters the receiver shift register: cut to the length of LCR.WLS, zero for a break (R309). -/
def Uart.shiftIn (u : Uart) (c : UartChar) : UartChar :=
  { c with data := if c.bi then 0
                   else c.data &&& (0x1F#8 ||| (0xE0#8 &&& ((0x20#8 <<< (fieldOf u.lcr 0 2).toNat) - 1))) }

/-- A character begins to enter the shift register (R302). It overwrites one that still waits there for room, which sets OE and leaves
RBR and the FIFO as they are: "a further one started" (R309; log 32). -/
def Uart.startReceive (u : Uart) : Uart :=
  if u.divisor = 0 then u
  else
    let u := u.settle
    let u := if u.rxSr.full then u.overrun else u
    { u with rxSr := { u.rxSr with busy := true, full := false } }

/-- A character has arrived in the shift register and makes its receive move (R1171); where it `waits`, only as soon as there is room,
and never if a further one starts before that (R309; DESIGN CHOICE, log 32). One whose beginning no move has shown begins here. -/
def Uart.receive (u : Uart) (c : UartChar) (waits : Bool) : Uart :=
  let c := u.shiftIn c
  if u.divisor = 0 then u
  else
    let u := if u.rxSr.busy then u else u.startReceive
    let u := { u with rxSr := { busy := false, full := true, last := c }, rxTimeout := 0, cti := false }
    if waits then u.settle else u.storeLast

/-- A character begins on the line; in loop mode SIN is disconnected (R308). -/
def Uart.lineStart (u : Uart) : Uart := if u.loop then u else u.startReceive

/-- A character from the line; in loop mode SIN is disconnected (R308). -/
def Uart.lineReceive (u : Uart) (c : UartChar) (waits : Bool) : Uart := if u.loop then u else u.receive c waits

/-- The transmitter in one CLK tick (R1170). In loop mode its shift register feeds the receiver's (R308). The time of a character is
fixed where it begins, whatever is stored to the divisor, SCLR or LCR meanwhile; its end reads LOOP, LCR and the divisor, and the log
takes the whole byte of THR, beside LCR, whose WLS says how many bits of it go out (DESIGN CHOICE, log 32). -/
def Uart.transmitTick (u : Uart) (time : Nat) : Uart :=
  match u.txSr with
  | none =>
    match u.txFifo with
    | b :: rest =>
      let u := { u with txSr := some (b, u.charTicks), txFifo := rest, threInt := u.threInt || rest.isEmpty }
      if u.loop then u.startReceive else u
    | [] => u
  | some (b, n) =>
    if n ≤ 1 then
      let u := { u with txSr := none }
      if u.loop then u.receive { data := b, pe := false, fe := false, bi := false } (Config.uartWaits time)
      else { u with sent := u.sent ++ [{ time := time, data := b, lcr := u.lcr, divisor := u.divisor,
                                         brk := u.inBreak }] }
    else { u with txSr := some (b, n - 1) }

/-- The receive time-out in one CLK tick (R302, R306). Only time spent in FIFO mode counts towards the four character times (DESIGN
CHOICE, log 32). -/
def Uart.timeoutTick (u : Uart) : Uart :=
  if u.fewo && !u.rxFifo.isEmpty && !u.cti then
    if 4 * u.charTicks ≤ u.rxTimeout + 1 then { u with cti := true } else { u with rxTimeout := u.rxTimeout + 1 }
  else u

/-- One CLK tick; without a divisor there is no baud clock (R311, D47). -/
def Uart.tick (u : Uart) (time : Nat) : Uart :=
  if u.divisor = 0 then u else (u.transmitTick time).timeoutTick

end Sys2Proof.Machine
end

