-- ==== Sys2Proof/Machine/SysRegs.lean ====
section
/-! DEFINITION. SysRegs: clock control, CSR, the interrupt controller and its routing (spec R182 to R196, R1053), and the test
windows of the instruction cache (R187). -/

namespace Sys2Proof.Machine

open Sys2Proof

/-! ## Requests (R190 to R196, R1053) -/

/-- QSTR0 (R191). -/
def State.qstr0 (s : State) : Word :=
  let irq : BitVec 4 := mergeBits s.sys.irqMode s.sys.irqLatch (~~~s.sys.nIrq)
  bitAt s.itimer.int 22 ||| bitAt s.rtimer.int 21 ||| bitAt (s.wdt.int && s.wdt.intCtr == 1) 20 |||
  bitAt s.uart.irq 4 ||| zext irq

/-- QSTR1 (R192). -/
def State.qstr1 (s : State) : Word :=
  bitAt (s.channel 12).request 0 ||| bitAt (s.channel 13).request 1 ||| bitAt (s.channel 14).request 2 |||
  bitAt (s.channel 15).request 3

/-- The four bits of an MFBSP port in QSTR2 (R193): DMA, receive buffer, transmit buffer, service request. -/
def State.mfbspBits (s : State) (p : Fin 4) : Word :=
  let m := s.mfbsp[p]
  let b : BitVec 4 :=
    flag (s.channel ⟨8 + p.val, by omega⟩).request ++ flag m.rxRequest ++ flag m.txRequest ++ flag m.srq
  zext b <<< (4 * p.val)

/-- The eight bits of a SWIC in QSTR2 (R193). -/
def State.swicBits (s : State) (n : Bool) : Byte :=
  let c (k : Fin 4) : BitVec 1 := flag (s.channel ⟨(if n then 4 else 0) + k.val, by split <;> omega⟩).request
  c 3 ++ c 2 ++ c 1 ++ c 0 ++ 0#1 ++ (s.swic n).requests

/-- QSTR2 (R193). -/
def State.qstr2 (s : State) : Word :=
  (zext (s.swicBits true) <<< 24) ||| (zext (s.swicBits false) <<< 16) |||
  s.mfbspBits 3 ||| s.mfbspBits 2 ||| s.mfbspBits 1 ||| s.mfbspBits 0

/-- QSTR3 (R195). The external controller requests only in mode 01 (R282). -/
def State.qstr3 (s : State) : Word :=
  bitAt (s.ecc.ext.request && s.ecc.ext.mode == 1) 4 ||| bitAt (s.ecc.dsp.toList.any EccCtl.request) 3 |||
  bitAt s.ecc.icache.request 1 ||| bitAt (s.ecc.cramA.request || s.ecc.cramB.request) 0

/-- Cause.IP[7:2] as bits 7 to 2 of a byte (R1053, R980). -/
def State.hardIp (s : State) : Byte :=
  let any (q : Word) (n : Fin 4) : BitVec 1 := flag (q &&& s.sys.maskr[n] != 0)
  flag s.cp0.timerLatch ++ flag s.dsp.irq ++ any s.qstr3 3 ++ any s.qstr2 2 ++ any s.qstr1 1 ++ any s.qstr0 0 ++ 0#2

/-- Cause.IP[7:0] (R980). -/
def State.ip (s : State) : Byte := s.hardIp ||| (0#6 ++ (fieldOf s.cp0.cause 8 2 : BitVec 2))

/-- The implemented bits of MASKRn: the used positions of QSTRn (R194, U20). -/
def maskrMask (n : Fin 4) : Word :=
  if n = 0 then 0x0070001F else if n = 1 then 0x0000000F else if n = 2 then 0xF7F7FFFF else 0x0000001B

/-! ## Registers of the system block 0x182F_4000 -/

/-- A load of a system register: the value; QSTRn are levels (R190). -/
def State.sysRead (s : State) (off : Nat) : Word :=
  match off with
  | 0x4000 => s.sys.crPll
  | 0x4004 => s.sys.clkEn
  | 0x4008 => s.sys.csr
  | 0x4010 => s.sys.maskr[0]
  | 0x4014 => s.qstr0
  | 0x4018 => s.sys.maskr[1]
  | 0x401C => s.qstr1
  | 0x4020 => s.sys.maskr[2]
  | 0x4024 => s.qstr2
  | 0x4028 => s.sys.maskr[3]
  | 0x402C => s.qstr3
  | 0x4030 => zext (s.sys.irqMode ++ 0#4 ++ s.sys.irqLatch)
  | 0x4400 => s.ecc.cramA.readCsr
  | 0x4404 => s.fifoHead .cramA
  | 0x4408 => s.ecc.cramB.readCsr
  | 0x440C => s.fifoHead .cramB
  | 0x4800 => s.ecc.icache.readCsr
  | 0x4804 => s.fifoHead .icache
  | _ => s.freeWord

/-- The side effect of a load: an error FIFO loses its oldest entry (R288). -/
def State.sysReadEffect (s : State) (off : Nat) : State :=
  match off with
  | 0x4404 => s.fifoPop .cramA
  | 0x440C => s.fifoPop .cramB
  | 0x4804 => s.fifoPop .icache
  | _ => s

/-- A store to CSR (R186): FLUSH makes every line of the instruction cache invalid. -/
def State.storeCsr (s : State) (v : Word) : State :=
  let s := { s with sys := { s.sys with csr := v &&& 0x00000801 } }
  if isSet v 12 then { s with icache := s.icache.map fun l => { l with valid := false } } else s

/-- A store to CLK_EN (R183, R185). -/
def State.storeClkEn (s : State) (v : Word) : State :=
  { s with sys := { s.sys with clkEn := v &&& 0x03001111, coreClockOn := isSet v 0 } }

/-- A store to IRQM (R196, D42). -/
def State.storeIrqm (s : State) (v : Word) : State :=
  { s with sys := { s.sys with irqMode := fieldOf v 8 4, irqLatch := s.sys.irqLatch &&& ~~~(fieldOf v 0 4) } }

/-- A store to a system register; QSTRn ignore it (D38). -/
def State.sysWrite (s : State) (off : Nat) (v : Word) : State :=
  let maskr (n : Fin 4) : State := { s with sys := { s.sys with maskr := s.sys.maskr.set n (v &&& maskrMask n) } }
  match off with
  | 0x4000 => { s with sys := { s.sys with crPll := v &&& 0x00001F1F } }
  | 0x4004 => s.storeClkEn v
  | 0x4008 => s.storeCsr v
  | 0x4010 => maskr 0
  | 0x4018 => maskr 1
  | 0x4020 => maskr 2
  | 0x4028 => maskr 3
  | 0x4030 => s.storeIrqm v
  | 0x4400 => s.writeEccCsr .cramA v
  | 0x4408 => s.writeEccCsr .cramB v
  | 0x4800 => s.writeEccCsr .icache v
  | _ => s

/-! ## The test windows of the instruction cache (R187) -/

/-- CSR.TST_CACHE (R186). -/
def State.tstCache (s : State) : Bool := isSet s.sys.csr 11

/-- A cache line; a line not listed is invalid with zero contents (log 5). -/
def State.cacheLine (s : State) (n : Nat) : CacheLine :=
  match s.icache.find? (fun l => l.line == n) with
  | some l => l
  | none => { line := n, valid := false, tag := 0, d0 := 0, d1 := 0, d2 := 0, d3 := 0, h0 := 0, h1 := 0, h2 := 0, h3 := 0 }

/-- Cache lines in rising order with one replaced. -/
def putCacheLine : List CacheLine → CacheLine → List CacheLine
  | [], x => [x]
  | y :: rest, x =>
    if x.line < y.line then x :: y :: rest
    else if x.line = y.line then x :: rest
    else y :: putCacheLine rest x

/-- Word w of a line. -/
def CacheLine.word (l : CacheLine) (w : Nat) : Word :=
  match w with
  | 0 => l.d0
  | 1 => l.d1
  | 2 => l.d2
  | _ => l.d3

/-- The check bits of word w of a line (R283). -/
def CacheLine.check (l : CacheLine) (w : Nat) : BitVec 7 :=
  match w with
  | 0 => l.h0
  | 1 => l.h1
  | 2 => l.h2
  | _ => l.h3

/-- A line with word w replaced. -/
def CacheLine.putWord (l : CacheLine) (w : Nat) (v : Word) : CacheLine :=
  match w with
  | 0 => { l with d0 := v }
  | 1 => { l with d1 := v }
  | 2 => { l with d2 := v }
  | _ => { l with d3 := v }

/-- Is a byte address in the data window of the cache? -/
def inCacheData (a : Nat) : Bool := decide (0x18100000 ≤ a) && decide (a < 0x18104000)
/-- Is a byte address in the tag window of the cache? -/
def inCacheTags (a : Nat) : Bool := decide (0x18140000 ≤ a) && decide (a < 0x18144000)

/-- A load of a test window (R187): data words, or tag in bits 17:0 with the valid bit in bit 21, the same at each of the four
words of a line. The windows reach the data and tag blocks whatever CSR_ICACHE.MODE says, and leave check bits and injected errors
alone (DESIGN CHOICE, log 21). -/
def State.cacheWindowRead (s : State) (a : Nat) : Word :=
  let l := s.cacheLine (a % 0x4000 / 16)
  if inCacheData a then l.word (a / 4 % 4) else zext l.tag ||| bitAt l.valid 21

/-- A store to a test window; the tag window takes a tag at each of the four words of a line. Like a load it does not depend on
CSR_ICACHE.MODE (DESIGN CHOICE, log 21). -/
def State.cacheWindowWrite (s : State) (a : Nat) (v : Word) : State :=
  let l := s.cacheLine (a % 0x4000 / 16)
  let l := if inCacheData a then l.putWord (a / 4 % 4) v else { l with tag := fieldOf v 0 18, valid := isSet v 21 }
  { s with icache := putCacheLine s.icache l }

end Sys2Proof.Machine
end

