-- ==== Sys2Proof/Machine/Bus.lean ====
section
/-! DEFINITION. Bus: the physical access primitive of the CPU (spec R401, R410 to R416): words read, and byte lanes stored,
routed by address to CRAM, device registers, the DSP, the reserved areas and external memory. -/

namespace Sys2Proof.Machine

open Sys2Proof

/-! ## Device registers (R413, R181, R301, R321, R351) -/

/-- Is the device of a register reachable, its clock on (R183, R184)? One bit gates all four MFBSP ports (C24). -/
def State.deviceClock (s : State) (off : Nat) : Bool :=
  match dmaRegAt off with
  | some (c, _) => s.dmaClock c
  | none =>
    match off / 0x1000 with
    | 5 => isSet s.sys.clkEn 24
    | 6 => isSet s.sys.clkEn 25
    | 7 => isSet s.sys.clkEn 8
    | _ => true

/-- Does Table 2.50 list a register at an offset (R181, R301, R321, R351)? -/
def isRegister (off : Nat) : Bool :=
  (dmaRegAt off).isSome ||
  match off / 0x1000 with
  | 1 => off ≤ 0x1028
  | 3 => off ≤ 0x301C
  | 4 => (off ≤ 0x4030 && off ≠ 0x400C) || (0x4400 ≤ off && off ≤ 0x440C) || off = 0x4800 || off = 0x4804
  | 5 => off ≤ 0x5028
  | 6 => off ≤ 0x6028
  | 7 => off < 0x7400 && off % 0x100 < 0x20
  | 0xD => off ≤ 0xD028
  | _ => false

/-- The MFBSP port of an offset. -/
def mfbspPort (off : Nat) : Fin 4 := Fin.ofNat 4 (off / 0x100)

/-- What a word load of a register returns, without its side effects; a blocked or absent register gives any value
(U40, D21). -/
def State.devPeek (s : State) (off : Nat) : Word :=
  if !isRegister off || !s.deviceClock off then s.freeWord
  else match dmaRegAt off with
    | some (c, r) => (s.channel c).read r
    | none =>
      match off / 0x1000 with
      | 1 => s.mportRead off
      | 3 => s.uart.read (off % 0x1000)
      | 4 => s.sysRead off
      | 5 => s.swic0.read (off % 0x1000)
      | 6 => s.swic1.read (off % 0x1000)
      | 7 => s.mfbsp[mfbspPort off].read s.freeWord (off % 0x100)
      | _ => s.timerRead (off % 0x1000)

/-- The side effects of a load of a register, once (R466). -/
def State.devEffect (s : State) (off : Nat) : State :=
  if !isRegister off || !s.deviceClock off then s
  else match dmaRegAt off with
    | some (c, r) => s.putChannel c ((s.channel c).readEffect r)
    | none =>
      match off / 0x1000 with
      | 1 => if off = 0x1028 then s.fifoPop .ext else s
      | 3 => { s with uart := s.uart.readEffect (off % 0x1000) }
      | 4 => s.sysReadEffect off
      | 7 => s.putMfbsp (mfbspPort off) (s.mfbsp[mfbspPort off].readEffect (off % 0x100))
      | _ => s

/-- Is an access to the data register of an MFBSP port in the forbidden mode (U52)? -/
def State.mfbspClash (s : State) (off : Nat) : Bool :=
  off / 0x1000 == 7 && (dmaRegAt off).isNone && off % 0x100 == 0 && isRegister off && s.deviceClock off &&
  s.mfbsp[mfbspPort off].clash

/-- A load of a register. -/
def devRead (off : Nat) (s : State) : Res Word :=
  if s.mfbspClash off then .fault .mfbspModeClash else .ok (s.devPeek off) (s.devEffect off).drawn

/-- A word stored to a register; a blocked or absent register discards it (D37, D21). -/
def devWrite (off : Nat) (v : Word) (s : State) : Res Unit :=
  if s.mfbspClash off then .fault .mfbspModeClash
  else if !isRegister off || !s.deviceClock off then .done s
  else match dmaRegAt off with
    | some (c, r) => dmaStore c r v s
    | none =>
      match off / 0x1000 with
      | 1 => .done (s.mportWrite off v)
      | 3 => .done { s with uart := s.uart.write s.clk (off % 0x1000) v }
      | 4 => .done (s.sysWrite off v)
      | 5 => .done { s with swic0 := s.swic0.write (off % 0x1000) v }
      | 6 => .done { s with swic1 := s.swic1.write (off % 0x1000) v }
      | 7 => .done (s.putMfbsp (mfbspPort off) (s.mfbsp[mfbspPort off].write (off % 0x100) v))
      | _ => .done (s.timerWrite (off % 0x1000) v)

/-! ## The physical map (R401) -/

/-- Is a byte address in the register block (R413)? -/
def inRegisters (a : Nat) : Bool := decide (0x182F0000 ≤ a) && decide (a < 0x18300000)
/-- Is a byte address in the DSP area (R415)? -/
def inDspArea (a : Nat) : Bool := decide (0x18400000 ≤ a) && decide (a < 0x18800000)
/-- Is a byte address in the register area of the DSP (R120)? -/
def inDspRegs (a : Nat) : Bool := decide (0x18480000 ≤ a) && decide (a < 0x18481008)

/-- The word that holds a physical address, read by the CPU (R401). -/
def busRead (pa : Word) (s : State) : Res Word :=
  let a := wordAddr pa
  if inCram a then (if s.dmaWritesCram then anyWord s else protRead (s.cramUnit false a) a s)
  else if inRegisters a then devRead (a - 0x182F0000) s
  else if inDspData a || inDspPram a then dspMemRead a s
  else if inDspRegs a then dspRegRead (a - 0x18480000) s
  else if (inCacheData a || inCacheTags a) && s.tstCache then .ok (s.cacheWindowRead a) s
  else if inInternal a then anyWord s
  else extRead a s

/-- Byte lanes of the word that holds a physical address, stored by the CPU (R401): device registers by a
read-modify-write of the lanes, the DSP area by whole words only (D22). The lanes that a store leaves to a register without a known value
are unspecified, drawn for this store alone; a store of the whole word leaves none and draws nothing. The test windows of the cache take a sub-word store by a read-modify-write too, of which
R187 says nothing (DESIGN CHOICE, log 21). -/
def busWrite (pa : Word) (q : StoreReq) (s : State) : Res Unit :=
  let a := wordAddr pa
  if inCram a then protWrite (s.cramUnit false a) a q.lanes q.data s
  else if inRegisters a then
    devWrite (a - 0x182F0000) (mergeBits (laneMask q.lanes) q.data (s.devPeek (a - 0x182F0000)))
      (if q.lanes = 0xF then s else s.drawn)
  else if inDspArea a then
    if q.lanes ≠ 0xF then .refuse .dspSubWordStore
    else if inDspData a || inDspPram a then dspMemWrite a q.data s
    else if inDspRegs a then .done (dspRegWrite (a - 0x18480000) q.data s)
    else .done s
  else if (inCacheData a || inCacheTags a) && s.tstCache then
    .done (s.cacheWindowWrite a (mergeBits (laneMask q.lanes) q.data (s.cacheWindowRead a)))
  else if inInternal a then .done s
  else extWrite a q s

end Sys2Proof.Machine
end

