-- ==== Sys2Proof/Machine/Cp0.lean ====
section
/-! DEFINITION. Cp0: processor mode, the read and write rules of the CP0 registers (spec R25 to R46, R420, R716, R718), and
the value of Random at a use (R29, D17, log 19). -/

namespace Sys2Proof.Machine

open Sys2Proof

/-! ## Mode and fields of Status -/

/-- Status.EXL (R39). -/
def State.exl (s : State) : Bool := isSet s.cp0.status 1
/-- Status.ERL (R39). -/
def State.erl (s : State) : Bool := isSet s.cp0.status 2
/-- Status.BEV (R39). -/
def State.bev (s : State) : Bool := isSet s.cp0.status 22
/-- User mode (R420, R952). -/
def State.userMode (s : State) : Bool := isSet s.cp0.status 4 && !s.exl && !s.erl
/-- Is CP0 usable: Kernel mode or Status.CU0 (R700)? -/
def State.cp0Usable (s : State) : Bool := !s.userMode || isSet s.cp0.status 28
/-- Is the FPU usable: Status.CU1 (R750)? -/
def State.fpuUsable (s : State) : Bool := isSet s.cp0.status 29
/-- CSR.FM: fixed mapping (R430). -/
def State.fixedMapping (s : State) : Bool := isSet s.sys.csr 0
/-- Is an interrupt request pending through its mask (R990)? -/
def State.maskedRequest (s : State) : Bool := s.ip &&& fieldOf s.cp0.status 8 8 != 0
/-- int_req: is an interrupt to be taken (R990)? -/
def State.interruptRequest (s : State) : Bool :=
  s.maskedRequest && isSet s.cp0.status 0 && !s.exl && !s.erl

/-- Status with some bits replaced. -/
def State.putStatus (s : State) (v : Word) : State := { s with cp0 := { s.cp0 with status := v } }

/-! ## Cache attributes (R31) -/

/-- The used code a cache attribute is converted to: 010 or 011. -/
def cacheCode (c : BitVec 3) : BitVec 3 := if c = 2 ∨ c = 7 then 2 else 3
/-- Is a cache attribute cacheable (R31, R430)? -/
def cacheable (c : BitVec 3) : Bool := cacheCode c == 3
/-- What a Config field holding c reads as: c, or for an unused code c or its conversion (U3). -/
def readCacheCode (c : BitVec 3) (converted : Bool) : BitVec 3 := if converted then cacheCode c else c

/-! ## Random (R29, D17) -/

/-- Random after some advances of the pipeline: counting down to Wired and from there to 15 again. -/
def Cp0.randomAfter (c : Cp0) (n : Nat) : BitVec 4 :=
  BitVec.ofNat 4 (15 - (15 - c.random.toNat + n) % (16 - c.wired.toNat))

/-- Random brought up to date for a use: any value in [Wired, 15] (log 19). -/
def State.randomUse (s : State) : State :=
  { s with cp0 := { s.cp0 with random := s.cp0.randomAfter (Config.pipelineAdvances s.freeCtr) } }.drawn

/-! ## Reading (R716) -/

/-- Config as it reads (R43): MT, K23 and KU follow CSR.FM; K23 and KU keep their values during a stay in TLB mode (DESIGN
CHOICE, log 40). -/
def State.configWord (s : State) (cv23 cvu cv0 : Bool) : Word :=
  let k (c : BitVec 3) (b : Bool) : BitVec 3 := if s.fixedMapping then readCacheCode c b else 0
  1#1 ++ k s.cp0.k23 cv23 ++ k s.cp0.ku cvu ++ 0#4 ++ 1#1 ++ 0#10 ++ (if s.fixedMapping then 3#3 else 1#3) ++
  0#4 ++ readCacheCode s.cp0.k0 cv0

/-- Config1 as it reads (R44). -/
def State.config1Word (s : State) : Word := if s.fixedMapping then 0x01D80000 else 0x1FD80000

/-- Cause as it reads: the stored bits and the live requests (R40). -/
def State.causeWord (s : State) : Word := s.cp0.cause ||| (zext s.hardIp <<< 8)

/-- CP0[rd, sel] (R25, R716); a reserved or unimplemented register reads as any value (U1). -/
def readCp0 (rd : BitVec 5) (sel : BitVec 3) (s : State) : Res Word :=
  let c := s.cp0
  if sel = 0 then
    match rd.toNat with
    | 0 => .ok c.index s
    | 1 => .ok (zext s.randomUse.cp0.random) s.randomUse
    | 2 => .ok c.entryLo0 s
    | 3 => .ok c.entryLo1 s
    | 4 => .ok c.context s
    | 5 => .ok c.pageMask s
    | 6 => .ok (zext c.wired) s
    | 8 => .ok c.badVAddr s
    | 9 => .ok c.count s
    | 10 => .ok c.entryHi s
    | 11 => .ok c.compare s
    | 12 => .ok c.status s
    | 13 => .ok s.causeWord s
    | 14 => .ok c.epc s
    | 15 => .ok 0x000A2001 s
    | 16 => .ok (s.configWord s.freeBit s.drawn.freeBit s.drawn.drawn.freeBit) s.drawn.drawn.drawn
    | 17 => .ok (zext c.llAddr) s
    | 30 => .ok c.errorEpc s
    | _ => anyWord s
  else if sel = 1 ∧ rd = 16 then .ok s.config1Word s
  else anyWord s

/-! ## Writing (R718) -/

/-- Writable bits of Index: the index field (R28). -/
def indexMask : Word := 0x0000000F
/-- Writable bits of EntryLo0 and EntryLo1 (R30). -/
def entryLoMask : Word := 0x03FFFFFF
/-- Writable bits of Context: PTEBase (R32). -/
def contextMask : Word := 0xFF800000
/-- Writable bits of PageMask (R33). -/
def pageMaskMask : Word := 0x01FFE000
/-- Writable bits of EntryHi (R37). -/
def entryHiMask : Word := 0xFFFFE0FF
/-- Bits of Status that take the written value (R39). -/
def statusMask : Word := 0xF040FF17
/-- Bits of Status that software can only clear: TS and NMI (R39). -/
def statusClearMask : Word := 0x00280000
/-- Writable bits of Cause: IV, IP[1:0], ID (R40). -/
def causeMask : Word := 0x00800380

/-- Status after a write (R39, R718). -/
def writeStatus (v old : Word) : Word := (v &&& statusMask) ||| (v &&& old &&& statusClearMask)

/-- The CP0 state after a write to register rd with select 0 or 1 (R718). A write that makes Count and Compare equal leaves the timer
latch at 1, as R38 says of them; one to Compare clears it else (DEDUCED, log 41). -/
def Cp0.write (c : Cp0) (fm : Bool) (rd : BitVec 5) (sel : BitVec 3) (v : Word) : Cp0 :=
  if sel = 0 then
    match rd.toNat with
    | 0 => { c with index := mergeBits indexMask v c.index }
    | 2 => { c with entryLo0 := v &&& entryLoMask }
    | 3 => { c with entryLo1 := v &&& entryLoMask }
    | 4 => { c with context := mergeBits contextMask v c.context }
    | 5 => { c with pageMask := v &&& pageMaskMask }
    | 6 => { c with wired := fieldOf v 0 4, random := 15 }
    | 9 => { c with count := v, timerLatch := c.timerLatch || v == c.compare }
    | 10 => { c with entryHi := v &&& entryHiMask }
    | 11 => { c with compare := v, timerLatch := v == c.count }
    | 12 => { c with status := writeStatus v c.status }
    | 13 => { c with cause := mergeBits causeMask v c.cause }
    | 14 => { c with epc := v }
    | 16 =>
      if fm then { c with k0 := fieldOf v 0 3, k23 := fieldOf v 28 3, ku := fieldOf v 25 3 }
      else { c with k0 := fieldOf v 0 3 }
    | 30 => { c with errorEpc := v }
    | _ => c
  else c

/-- CP0[rd, sel] <- v (R718). -/
def State.writeCp0 (s : State) (rd : BitVec 5) (sel : BitVec 3) (v : Word) : State :=
  { s with cp0 := s.cp0.write s.fixedMapping rd sel v }

end Sys2Proof.Machine
end

