-- ==== Sys2Proof/Machine/Tlb.lean ====
section
/-! DEFINITION. Tlb: the TLB: match, page selection and the operations of TLBP, TLBR, TLBWI and TLBWR (spec R65, R66, R432 to
R436, R720 to R724). -/

namespace Sys2Proof.Machine

open Sys2Proof

/-- The legal page masks and what they say (R433). -/
def legalMask (m : BitVec 12) : Bool :=
  m == 0x000 || m == 0x003 || m == 0x00F || m == 0x03F || m == 0x0FF || m == 0x3FF || m == 0xFFF

/-- The virtual page number / 2 of an address: bits 31:13. -/
def vpn2Of (va : Word) : BitVec 19 := fieldOf va 13 19

/-- Do two page numbers agree outside a page mask (R432)? -/
def sameVpn (mask : BitVec 12) (a b : BitVec 19) : Bool := (a ^^^ b) &&& ~~~(mask.setWidth 19) == 0

/-- Does an entry match a page number under an ASID (R432)? -/
def TlbEntry.hits (e : TlbEntry) (vpn2 : BitVec 19) (asid : BitVec 8) : Bool :=
  e.init && sameVpn e.mask vpn2 e.vpn2 && (e.g || e.asid == asid)

/-- EntryHi.ASID. -/
def State.asid (s : State) : BitVec 8 := fieldOf s.cp0.entryHi 0 8

/-- The lowest matching entry (D15). -/
def State.tlbFind (s : State) (vpn2 : BitVec 19) : Option (Fin 16) :=
  (List.finRange 16).find? fun i => s.tlb[i].hits vpn2 s.asid

/-- Is every page mask that takes part in a search legal (U4)? -/
def State.tlbMasksLegal (s : State) : Bool :=
  (List.finRange 16).all fun i => !s.tlb[i].init || legalMask s.tlb[i].mask

/-- The offset bits of a page (R433). -/
def TlbEntry.offsetMask (e : TlbEntry) : Word := (zext e.mask <<< 12) ||| 0xFFF
/-- The page an address selects: the odd one if the bit above the offset is 1 (R433). -/
def TlbEntry.page (e : TlbEntry) (va : Word) : TlbPage :=
  if va &&& (e.offsetMask + 1) = 0 then e.page0 else e.page1
/-- The physical address (R432). -/
def TlbEntry.translate (e : TlbEntry) (va : Word) : Word :=
  mergeBits e.offsetMask va ((e.page va).pfn ++ 0#12)

/-- The kind of an access (R430). -/
inductive Access where
  | fetch
  | load
  | store
  deriving DecidableEq, Repr

/-- TLBLookup (R432): the physical address and whether it is cached. -/
def tlbLookup (va : Word) (k : Access) (s : State) : Res (Word × Bool) :=
  if !s.tlbMasksLegal then .fault .illegalPageMask
  else match s.tlbFind (vpn2Of va) with
    | none => .exc (.tlbRefill va (k == .store)) s
    | some i =>
      let e := s.tlb[i]
      if !(e.page va).v then .exc (.tlbInvalid va (k == .store)) s
      else if k == .store && !(e.page va).d then .exc (.mod va) s
      else .ok (e.translate va, cacheable (e.page va).c) s

/-! ## TLB instructions -/

/-- EntryLo of a page (R30, R721). -/
def TlbPage.entryLo (p : TlbPage) (g : Bool) : Word := zext (p.pfn ++ p.c ++ flag p.d ++ flag p.v ++ flag g)
/-- The page an EntryLo describes; the cache code is converted at the write (R31, R722). -/
def pageOfEntryLo (lo : Word) : TlbPage :=
  { pfn := fieldOf lo 6 20, c := cacheCode (fieldOf lo 3 3), d := isSet lo 2, v := isSet lo 1 }

/-- The entry that PageMask, EntryHi, EntryLo0 and EntryLo1 describe (R722). -/
def Cp0.newEntry (c : Cp0) : TlbEntry :=
  { init := true, mask := fieldOf c.pageMask 13 12, vpn2 := vpn2Of c.entryHi
    g := isSet c.entryLo0 0 && isSet c.entryLo1 0, asid := fieldOf c.entryHi 0 8
    page0 := pageOfEntryLo c.entryLo0, page1 := pageOfEntryLo c.entryLo1 }

/-- Would a new entry conflict with an old one, under the union of their masks (R722, R724, D53)? -/
def TlbEntry.conflicts (new old : TlbEntry) : Bool :=
  old.init && sameVpn (new.mask ||| old.mask) new.vpn2 old.vpn2 && (new.g || old.g || new.asid == old.asid)

/-- TLBWrite(i) (R722): on a conflict Status.TS is set and Machine Check raised, and nothing is written (R724, R968). A PageMask
outside the seven of R33 is stored with all its bits and only a later search stops on it (DESIGN CHOICE, log 40). -/
def tlbWrite (i : Fin 16) (s : State) : Res Unit :=
  let new := s.cp0.newEntry
  if (List.finRange 16).any fun j => j ≠ i && new.conflicts s.tlb[j] then
    .exc .mcheck (s.putStatus (putBit s.cp0.status 21 true))
  else .done { s with tlb := s.tlb.set i new }

/-- TLBR of an entry (R721). -/
def State.tlbRead (s : State) (i : Fin 16) : State :=
  let e := s.tlb[i]
  { s with cp0 := { s.cp0 with
      pageMask := (zext e.mask <<< 13)
      entryHi := e.vpn2 ++ 0#5 ++ e.asid
      entryLo0 := e.page0.entryLo e.g
      entryLo1 := e.page1.entryLo e.g } }

/-- TLBP in TLB mode (R720): Index.Index is any value when nothing matches (U59). -/
def tlbProbe (s : State) : Res Unit :=
  if !s.tlbMasksLegal then .fault .illegalPageMask
  else match s.tlbFind (vpn2Of s.cp0.entryHi) with
    | some i => .done { s with cp0 := { s.cp0 with index := BitVec.ofNat 32 i.val } }
    | none =>
      let index : Word := bitAt true 31 ||| (s.freeWord &&& indexMask)
      .done { s with cp0 := { s.cp0 with index := index } }.drawn

end Sys2Proof.Machine
end

