-- ==== Sys2Proof/Machine/Ops.lean ====
section
/-! DEFINITION. Ops: the shared operations of the CPU: general registers, taking an exception and returning from one
(spec R717, R956 to R961), sequencing (R600), address translation (R430 to R432), data accesses (R403) and fetches (R450
to R452). -/

namespace Sys2Proof.Machine

open Sys2Proof

/-! ## General registers (R20, R21) -/

/-- GPR[n]; GPR[0] reads as zero. -/
def State.readGpr (s : State) (n : BitVec 5) : Word := if n = 0 then 0 else s.gpr[n.toNat]'n.isLt
/-- GPR[n] <- v; a write to GPR[0] is discarded. -/
def State.putGpr (s : State) (n : BitVec 5) (v : Word) : State :=
  if n = 0 then s else { s with gpr := s.gpr.set n.toNat v n.isLt }

/-! ## Taking an exception (R960, R961) -/

/-- Cause.ExcCode of an exception (R951). -/
def Exc.code : Exc → BitVec 5
  | .int => 0
  | .mod _ => 1
  | .tlbRefill _ store | .tlbInvalid _ store => if store then 3 else 2
  | .addressError _ store => if store then 5 else 4
  | .sys => 8
  | .bp => 9
  | .ri => 10
  | .cpu => 11
  | .ov => 12
  | .tr => 13
  | .fpe => 15
  | .mcheck => 24

/-- The vector offset (R956, R960); exl and iv are Status.EXL and Cause.IV before the exception. -/
def Exc.offset (e : Exc) (exl iv : Bool) : Word :=
  match e with
  | .tlbRefill _ _ => if exl then 0x180 else 0x000
  | .int => if !exl && iv then 0x200 else 0x180
  | _ => 0x180

/-- The address an instruction restarts at: its branch when it sits in a delay slot (R605). -/
def State.restartPc (s : State) : Word := if s.slot = .none then s.pc else s.pc - 4

/-- Context with BadVPN2 replaced (R32). -/
def withBadVpn (context : Word) (vpn2 : BitVec 19) : Word := putField context 4 vpn2
/-- EntryHi with VPN2 replaced (R37). -/
def withVpn2 (entryHi : Word) (vpn2 : BitVec 19) : Word := putField entryHi 13 vpn2

/-- The registers of a TLB exception at va (R965 to R967); EntryLo0 and EntryLo1 become any value (U2). -/
def State.noteTlb (s : State) (va : Word) : State :=
  let c : Cp0 := { s.cp0 with
    badVAddr := va
    context := withBadVpn s.cp0.context (vpn2Of va)
    entryHi := withVpn2 s.cp0.entryHi (vpn2Of va)
    entryLo0 := s.freeWord &&& entryLoMask
    entryLo1 := s.drawn.freeWord &&& entryLoMask }
  { s with cp0 := c }.drawn.drawn

/-- The registers of an address error at va (R972): Context.BadVPN2, EntryHi.VPN2, EntryLo0 and EntryLo1 become any value
(U2). -/
def State.noteAddress (s : State) (va : Word) : State :=
  let c : Cp0 := { s.cp0 with
    badVAddr := va
    context := withBadVpn s.cp0.context (vpn2Of s.drawn.drawn.freeWord)
    entryHi := withVpn2 s.cp0.entryHi (vpn2Of s.drawn.drawn.drawn.freeWord)
    entryLo0 := s.freeWord &&& entryLoMask
    entryLo1 := s.drawn.freeWord &&& entryLoMask }
  { s with cp0 := c }.drawn.drawn.drawn.drawn

/-- The extra state of an exception (R965 to R972). -/
def State.noteExc (s : State) : Exc → State
  | .mod va | .tlbRefill va _ | .tlbInvalid va _ => s.noteTlb va
  | .addressError va _ => s.noteAddress va
  | _ => s

/-- EPC and Cause.BD, written only while Status.EXL = 0 (R960). -/
def State.noteReturn (s : State) : State :=
  if s.exl then s
  else { s with cp0 := { s.cp0 with epc := s.restartPc, cause := putBit s.cp0.cause 31 (s.slot != .none) } }

/-- The base of the vectors (R956). -/
def State.vectorBase (s : State) : Word := if s.bev then 0xBFC00200 else 0x80000000

/-- Is an exception one the instruction at PC raises itself (R990)? -/
def Exc.synchronous (e : Exc) : Bool := e != .int

/-- TakeException (R960, R961): the saved registers, the code, the extra registers, EXL, and the vector. -/
def takeException (e : Exc) (s : State) : State :=
  let offset := e.offset s.exl (isSet s.cp0.cause 23)
  let s := s.noteReturn.noteExc e
  { s with
    cp0 := { s.cp0 with cause := putField s.cp0.cause 2 e.code, status := putBit s.cp0.status 1 true }
    pc := s.vectorBase + offset
    slot := .none
    waiting := false
    excTaken := e.synchronous }

/-- Status after an NMI: BEV, NMI, ERL set and TS clear (R957). -/
def nmiStatus (v : Word) : Word := putBit (putBit (putBit (putBit v 22 true) 21 false) 19 true) 2 true

/-- TakeNMI (R957). -/
def takeNmi (s : State) : State :=
  { s with
    cp0 := { s.cp0 with status := nmiStatus s.cp0.status, errorEpc := s.restartPc }
    pc := 0xBFC00000
    slot := .none
    waiting := false
    nmiPending := false }

/-- The return from an exception (R717, R962). -/
def returnFromException (s : State) : State :=
  if s.erl then
    { s with
      pc := s.cp0.errorEpc, cp0 := { s.cp0 with status := putBit s.cp0.status 2 false }, llbit := false, slot := .none }
  else
    { s with
      pc := s.cp0.epc, cp0 := { s.cp0 with status := putBit s.cp0.status 1 false }, llbit := false, slot := .none }

/-! ## Sequencing (R600) -/

/-- The control decision of an instruction (R600). -/
inductive Decision where
  | nothing
  | taken (target : Word)
  | notTaken
  | nullify
  deriving DecidableEq, Repr

/-- PC and slot after an instruction that raised no exception (R600). -/
def State.sequence (s : State) (d : Decision) : State :=
  match s.slot with
  | .taken t => { s with pc := t, slot := .none }
  | .fall => { s with pc := s.pc + 4, slot := .none }
  | .none =>
    match d with
    | .nothing => { s with pc := s.pc + 4 }
    | .taken t => { s with pc := s.pc + 4, slot := .taken t }
    | .notTaken => { s with pc := s.pc + 4, slot := .fall }
    | .nullify => { s with pc := s.pc + 8 }

/-- PC and slot after an instruction without a control decision. -/
def State.advance (s : State) : State := s.sequence .nothing

/-- The outcome of an instruction from the result of its operation. -/
def finish (r : Res Unit) : Outcome State Fault Refusal :=
  match r with
  | .ok _ s => .next s.advance
  | .exc e s => .next (takeException e s)
  | .fault f => .fault f
  | .refuse x => .refused x

/-- The outcome of a jump or branch, refused in a delay slot (R604, U58). -/
def finishControl (r : Res Decision) : Outcome State Fault Refusal :=
  match r with
  | .ok d s => if s.slot = .none then .next (s.sequence d) else .refused .controlInDelaySlot
  | .exc e s => .next (takeException e s)
  | .fault f => .fault f
  | .refuse x => .refused x

/-- Coprocessor Unusable unless CP0 is usable (R700). -/
def needCp0 {α : Type} (s : State) (r : Res α) : Res α := if s.cp0Usable then r else .exc .cpu s
/-- Coprocessor Unusable unless the FPU is usable (R750). -/
def needFpu {α : Type} (s : State) (r : Res α) : Res α := if s.fpuUsable then r else .exc .cpu s

/-! ## Translation (R430, R431) -/

/-- FM translation of a mapped address (R431). -/
def fixedMap (va : Word) (s : State) : Word × Bool :=
  if isSet va 31 then (va, cacheable s.cp0.k23) else (va + 0x40000000, cacheable s.cp0.ku)

/-- Translate (R430): the physical address and whether the access is cached. -/
def translate (va : Word) (k : Access) (s : State) : Res (Word × Bool) :=
  if s.userMode && isSet va 31 then .exc (.addressError va (k == .store)) s
  else if fieldOf va 29 3 = 4#3 then .ok (va - 0x80000000, cacheable s.cp0.k0) s
  else if fieldOf va 29 3 = 5#3 then .ok (va - 0xA0000000, false) s
  else if !isSet va 31 && s.erl then .ok (va, false) s
  else if s.fixedMapping then .ok (fixedMap va s) s
  else tlbLookup va k s

/-! ## Data accesses (R403) -/

/-- The word that holds the bytes of a load from va; size is the access size in bytes (R402, R403). -/
def memRead (va : Word) (size : Nat) (s : State) : Res Word :=
  if va.toNat % size ≠ 0 then .exc (.addressError va false) s
  else (translate va .load s).andThen fun t s => busRead t.1 s

/-- Byte lanes stored to the word that holds va (R402, R403). -/
def memWrite (va : Word) (size : Nat) (q : StoreReq) (s : State) : Res Unit :=
  if va.toNat % size ≠ 0 then .exc (.addressError va true) s
  else (translate va .store s).andThen fun t s => busWrite t.1 q s

/-- The moves of DMA channels between the two accesses of a doubleword load or store (R1055, log 13). -/
def dmaMoves : List (BitVec 4) → State → Res Unit
  | [], s => .done s
  | c :: rest, s => (dmaMove c s).andThen fun _ s => dmaMoves rest s

/-- The bursts that hold one of some slaves carried to their end, within n words (R1055). -/
def finishBursts : Nat → List Slave → State → Res Unit
  | 0, _, s => .done s
  | n + 1, l, s =>
    match s.burstAhead l with
    | some c => (dmaMove (BitVec.ofFin c) s).andThen fun _ s => finishBursts n l s
    | none => .done s

/-- The DMA moves the schedule puts before the second access, at pa, once: the access waits for the end of a burst at its slave
(R1055). -/
def runBetween (pa : Word) (s : State) : Res Unit :=
  if s.between = [] then .done s
  else (dmaMoves s.between { s with between := [] }).andThen fun _ s => finishBursts 256 (cpuReach pa) s

/-- A doubleword load: two word accesses, low word first, after one check of both addresses (R401, R804, D55), with the DMA
moves that fall between them (R1055). -/
def memRead64 (va : Word) (s : State) : Res Dword :=
  if va.toNat % 8 ≠ 0 then .exc (.addressError va false) s
  else (translate va .load s).andThen fun t s =>
    (busRead t.1 s).andThen fun lo s => (runBetween (t.1 + 4) s).andThen fun _ s =>
      (busRead (t.1 + 4) s).mapVal fun hi => hi ++ lo

/-- A doubleword store (R401, R804, R1055, D55). -/
def memWrite64 (va : Word) (v : Dword) (s : State) : Res Unit :=
  if va.toNat % 8 ≠ 0 then .exc (.addressError va true) s
  else (translate va .store s).andThen fun t s =>
    (busWrite t.1 (.word (fieldOf v 0 32)) s).andThen fun _ s => (runBetween (t.1 + 4) s).andThen fun _ s =>
      busWrite (t.1 + 4) (.word (fieldOf v 32 32)) s

/-! ## The instruction cache (R450 to R452) -/

/-- The cache line of an address (R451). -/
def lineOf (va : Word) : Nat := (fieldOf va 4 10 : BitVec 10).toNat
/-- The word of a line an address selects. -/
def lineWordOf (va : Word) : Nat := (fieldOf va 2 2 : BitVec 2).toNat

/-- A line of check bits, each the low seven bits of a word. -/
def CacheLine.withChecks (l : CacheLine) (w0 w1 w2 w3 : Word) : CacheLine :=
  { l with h0 := fieldOf w0 0 7, h1 := fieldOf w1 0 7, h2 := fieldOf w2 0 7, h3 := fieldOf w3 0 7 }

/-- Refill of a line from memory (R451): one burst of four words, which also ends injected errors of the line. By the mode of
the cache's controller (R283) the check-bit block stays, or takes the encoder's bits (unspecified, U49), or alone takes the
words read. -/
def refill (line : Nat) (pa : Word) (s : State) : Res Unit :=
  let base := pa &&& 0xFFFFFFF0
  (busRead base s).andThen fun d0 s => (busRead (base + 4) s).andThen fun d1 s =>
  (busRead (base + 8) s).andThen fun d2 s => (busRead (base + 12) s).andThen fun d3 s =>
    let old := s.cacheLine line
    let l : CacheLine := { old with valid := true, tag := fieldOf pa 14 18, d0 := d0, d1 := d1, d2 := d2, d3 := d3 }
    let ecc := { s.ecc with cacheFaults := s.ecc.cacheFaults.filter fun f => f.index.toNat / 4 != line }
    match s.ecc.icache.mode with
    | 0#2 => .done { s with icache := putCacheLine s.icache l, ecc := ecc }
    | 1#2 =>
      let l := l.withChecks (s.freeAt 0) (s.freeAt 1) (s.freeAt 2) (s.freeAt 3)
      .done ({ s with icache := putCacheLine s.icache l, ecc := ecc }.drawnBy 4)
    | 2#2 => .done { s with icache := putCacheLine s.icache (old.withChecks d0 d1 d2 d3) }
    | _ => .fault .eccModeReserved

/-- Does a line hold the word of a physical address? The stored tag decides in every MODE of CSR_ICACHE: tags have no check-bit block here,
and mode 10 changes no hit (R280 protects ITAG, R283 gives its table for 32-bit modules alone; DESIGN CHOICE, log 23). -/
def CacheLine.holds (l : CacheLine) (pa : Word) : Bool := l.valid && l.tag == fieldOf pa 14 18

/-- The injected error of a cache word, if any (R284): of several at one word the one injected first. A tag error belongs to the one
word it is injected at; it is not seen at the other words of the line and changes no hit (DESIGN CHOICE, log 23). -/
def State.cacheFaultAt (s : State) (va : Word) : Option CacheFault :=
  s.ecc.cacheFaults.find? fun f => f.index == fieldOf va 2 12

/-- An error of the cache counted and its index queued (R284, R286). -/
def State.noteCacheEcc (s : State) (f : CacheFault) : State :=
  let count (c : EccCtl) (code : BitVec 2) : EccCtl := if code = 0 then c else c.countError code
  let entry : Word := zext (f.index ++ f.tagCode ++ f.dataCode)
  { s with ecc := s.ecc.setCtl .icache ((count (count s.ecc.icache f.dataCode) f.tagCode).push .icache entry) }

/-- What the cache's module delivers of a word (R283): the data, or in mode 10 its check bits. -/
def State.cacheOutput (s : State) (va : Word) : Word :=
  let l := s.cacheLine (lineOf va)
  if s.ecc.icache.mode = 2 then zext (l.check (lineWordOf va)) else l.word (lineWordOf va)

/-- A refill followed by the read of the word. -/
def refillRead (va pa : Word) (s : State) : Res Word :=
  (refill (lineOf va) pa s).andThen fun _ s => .ok (s.cacheOutput va) s

/-- Does a cached fetch read memory: a miss, or a double error, which rewrites the line (R451, R286)? -/
def State.cacheMisses (s : State) (va pa : Word) : Bool :=
  !(s.cacheLine (lineOf va)).holds pa ||
  (s.ecc.icache.mode == 1 && match s.cacheFaultAt va with
    | some f => f.dataCode == 2 || f.tagCode == 2
    | none => false)

/-- ICacheRead (R451, R452). In mode 10 of the cache's controller the check-bit block answers (R283). An injected error counts at a
hit alone: a miss refills the line, which drops the error uncounted (R452, R286; DESIGN CHOICE, log 23). Flipped data bits of code 0 are
not seen and delivered, also beside an error of the tag (DESIGN CHOICE, log 23). -/
def icacheRead (va pa : Word) (s : State) : Res Word :=
  let l := s.cacheLine (lineOf va)
  let w := s.cacheOutput va
  match s.ecc.icache.mode with
  | 3#2 => .fault .eccModeReserved
  | m =>
    if !l.holds pa then refillRead va pa s
    else match s.cacheFaultAt va with
      | none => .ok w s
      | some f =>
        if m = 2 then .ok w s
        else if m = 0 ∨ (f.dataCode = 0 ∧ f.tagCode = 0) then .ok (w ^^^ f.flips) s
        else if f.dataCode = 2 ∨ f.tagCode = 2 then refillRead va pa (s.noteCacheEcc f)
        else .ok (if f.dataCode = 0 then w ^^^ f.flips else w) (s.noteCacheEcc f)

/-! ## Fetch (R403) -/

/-- Fetch(PC): TLB exceptions before the alignment error (R955, D24); execution from kuseg with Status.ERL = 1 stops (U6),
and so does a cached fetch in cache test mode (U48). -/
def fetch (s : State) : Res Word :=
  (translate s.pc .fetch s).andThen fun t s =>
    if s.pc &&& 3 ≠ 0 then .exc (.addressError s.pc false) s
    else if s.erl && !isSet s.pc 31 then .fault .errorLevelInKuseg
    else if !t.2 then busRead t.1 s
    else if s.tstCache then .fault .cacheTestMode
    else icacheRead s.pc t.1 s

/-- The exception of a word that no row of the opcode table matches (R495, R497, R498): Coprocessor Unusable where the
coprocessor is not allowed, else Reserved Instruction. -/
def undecodedExc (w : Word) (s : State) : Exc :=
  let op : BitVec 6 := fieldOf w 26 6
  let cu (n : Nat) : Bool := isSet s.cp0.status (28 + n)
  if op = 0x10 ∧ !s.cp0Usable then .cpu
  else if (op = 0x11 ∨ (op = 0 ∧ fieldOf w 0 6 = 1#6)) ∧ !cu 1 then .cpu
  else if (op = 0x12 ∨ op = 0x32 ∨ op = 0x3A ∨ op = 0x36 ∨ op = 0x3E) ∧ !cu 2 then .cpu
  else if op = 0x13 ∧ !cu 3 then .cpu
  else .ri

end Sys2Proof.Machine
end

