-- ==== Sys2Proof/Machine/Operands.lean ====
section
/-! DEFINITION. Operands: the operand forms of the instructions: immediates, addresses, branch and jump targets, bytes and
halfwords of a word, and the registers of the FPU (spec R50, R51, R601 to R603, R650, R753). -/

namespace Sys2Proof.Machine

open Sys2Proof

/-! ## Addresses -/

/-- The effective address of a load or store (R650). -/
def State.effAddr (s : State) (base : BitVec 5) (offset : BitVec 16) : Word := s.readGpr base + sext offset

/-- The target of a conditional branch (R601). -/
def State.branchTarget (s : State) (offset : BitVec 16) : Word := s.pc + 4 + sext (offset ++ 0#2)

/-- The target of J and JAL (R602). -/
def State.jumpTarget (s : State) (index : BitVec 26) : Word := (fieldOf (s.pc + 4) 28 4 : BitVec 4) ++ index ++ 0#2

/-- The link value (R603). -/
def State.linkValue (s : State) : Word := s.pc + 8

/-! ## Parts of a word (R400) -/

/-- The byte an address selects in its word. -/
def byteAt (w va : Word) : Byte := byteOf w (va.toNat % 4)
/-- The halfword an address selects in its word. -/
def halfAt (w va : Word) : Half := fieldOf w (8 * (va.toNat % 4)) 16

/-- The store of a byte (R662, R1156). -/
def StoreReq.byte (va v : Word) : StoreReq :=
  { lanes := 1#4 <<< (va.toNat % 4), data := v <<< (8 * (va.toNat % 4)), sb := true, low := fieldOf v 0 8 }
/-- The store of a halfword (R663). -/
def StoreReq.half (va v : Word) : StoreReq :=
  { lanes := 3#4 <<< (va.toNat % 4), data := v <<< (8 * (va.toNat % 4)), sb := false, low := fieldOf v 0 8 }
/-- The store of SWL: the most significant bytes up to va (R665). -/
def StoreReq.left (va v : Word) : StoreReq :=
  { lanes := 0xF#4 >>> (3 - va.toNat % 4), data := v >>> (8 * (3 - va.toNat % 4)), sb := false, low := fieldOf v 0 8 }
/-- The store of SWR: the least significant bytes from va (R666). -/
def StoreReq.right (va v : Word) : StoreReq :=
  { lanes := 0xF#4 <<< (va.toNat % 4), data := v <<< (8 * (va.toNat % 4)), sb := false, low := fieldOf v 0 8 }

/-- What LWL leaves in the register (R660). -/
def mergeLeft (va w old : Word) : Word :=
  let n := 8 * (3 - va.toNat % 4)
  mergeBits (0xFFFFFFFF <<< n) (w <<< n) old
/-- What LWR leaves in the register (R661). -/
def mergeRight (va w old : Word) : Word :=
  let n := 8 * (va.toNat % 4)
  mergeBits (0xFFFFFFFF >>> n) (w >>> n) old

/-! ## FPU registers (R50, R51, R753) -/

/-- FGR[n]. -/
def State.readFgr (s : State) (n : BitVec 5) : Word := s.fgr[n.toNat]'n.isLt
/-- FGR[n] <- v. -/
def State.putFgr (s : State) (n : BitVec 5) (v : Word) : State := { s with fgr := s.fgr.set n.toNat v n.isLt }
/-- FPR_D[n] = (FGR[n+1], FGR[n]) (R51). -/
def State.readFpr (s : State) (n : BitVec 5) : Dword := s.readFgr (n + 1) ++ s.readFgr n
/-- FPR_D[n] <- v, both halves (R753). -/
def State.putFpr (s : State) (n : BitVec 5) (v : Dword) : State :=
  (s.putFgr n (fieldOf v 0 32)).putFgr (n + 1) (fieldOf v 32 32)

/-- Is a register number odd (R753)? -/
def oddReg (n : BitVec 5) : Bool := isSet n 0
/-- Refused when one of the register numbers is odd (R753, U7); tested after the usability of the FPU (R750). -/
def evenOnly {α : Type} (regs : List (BitVec 5)) (r : Res α) : Res α := if regs.any oddReg then .refuse .oddFpr else r

end Sys2Proof.Machine
end

