-- ==== Sys2Proof/Machine/Flags.lean ====
section
/-! DEFINITION. Flags: integer overflow (spec R521), and FCSR: its fields and views (R55 to R61), the condition codes, and the
completion of an FPU arithmetic instruction (R760, R764). -/

namespace Sys2Proof.Machine

open Sys2Proof

/-! ## Integer overflow (R521) -/

/-- Does an exact result not fit in 32 bits, signed? -/
def overflows (x : Int) : Bool := decide (x < -(2 ^ 31)) || decide ((2 ^ 31 : Int) ≤ x)

/-- The exact sum narrowed to 32 bits, or none when it overflows (R521). -/
def checkedAdd (x y : Word) : Option Word :=
  if overflows (x.toInt + y.toInt) then none else some (BitVec.ofInt 32 (x.toInt + y.toInt))

/-- The exact difference narrowed to 32 bits, or none when it overflows (R521). -/
def checkedSub (x y : Word) : Option Word :=
  if overflows (x.toInt - y.toInt) then none else some (BitVec.ofInt 32 (x.toInt - y.toInt))

/-! ## FCSR (R55 to R61) -/

/-- Bits of FCSR that exist (R55). -/
def fcsrMask : Word := 0xFF83FFFF
/-- Place of FCC[cc] in FCSR (R55). -/
def fccBit (cc : BitVec 3) : Nat := if cc = 0 then 23 else 24 + cc.toNat
/-- FCC[cc]. -/
def State.fcc (s : State) (cc : BitVec 3) : Bool := isSet s.fcsr (fccBit cc)
/-- FCC[cc] <- b. -/
def State.putFcc (s : State) (cc : BitVec 3) (b : Bool) : State := { s with fcsr := putBit s.fcsr (fccBit cc) b }

/-- FCSR.Cause: E, V, Z, O, U, I. -/
def fcsrCause (v : Word) : BitVec 6 := fieldOf v 12 6
/-- FCSR.Enables: V, Z, O, U, I. -/
def fcsrEnables (v : Word) : BitVec 5 := fieldOf v 7 5
/-- FCSR.Flags: V, Z, O, U, I. -/
def fcsrFlags (v : Word) : BitVec 5 := fieldOf v 2 5
/-- FCSR.RM (R57). -/
def State.roundingMode (s : State) : BitVec 2 := fieldOf s.fcsr 0 2

/-- FCCR as it reads (R58). -/
def fccrView (v : Word) : Word := zext (fieldOf v 25 7 ++ fieldOf v 23 1 : BitVec 8)
/-- FEXR as it reads (R59). -/
def fexrView (v : Word) : Word := v &&& 0x0003F07C
/-- FENR as it reads (R60). -/
def fenrView (v : Word) : Word := (v &&& 0x00000F83) ||| bitAt (isSet v 24) 2

/-- FCSR after a write of FCCR (R58, R61). -/
def writeFccr (v old : Word) : Word := putField (putField old 25 (fieldOf v 1 7 : BitVec 7)) 23 (fieldOf v 0 1 : BitVec 1)
/-- FCSR after a write of FEXR (R59, R61). -/
def writeFexr (v old : Word) : Word := mergeBits 0x0003F07C v old
/-- FCSR after a write of FENR (R60, R61). -/
def writeFenr (v old : Word) : Word := putBit (mergeBits 0x00000F83 v old) 24 (isSet v 2)

/-- Do conditions trap: E, or one that is enabled (R760, R764)? -/
def condsTrap (conds : BitVec 6) (enables : BitVec 5) : Bool := isSet conds 5 || fieldOf conds 0 5 &&& enables != 0

/-- What an operation takes from FCSR and the parameters. -/
def State.fpEnv (s : State) : FpEnv :=
  { rm := s.roundingMode, fs := isSet s.fcsr 24, enableO := isSet s.fcsr 9, enableU := isSet s.fcsr 8
    nanEncoding := s.params.nanEncoding, denormalResult := s.params.denormalResult
    denormalOperand := s.params.denormalOperand }

/-- FCSR with Cause rewritten (R760). -/
def withCause (v : Word) (conds : BitVec 6) : Word := putField v 12 conds
/-- FCSR with the conditions accumulated in Flags (R760). -/
def withFlags (v : Word) (conds : BitVec 6) : Word := putField v 2 (fcsrFlags v ||| fieldOf conds 0 5)

/-- Completion of an arithmetic instruction (R760): Cause is rewritten; a trapping condition raises FPE and changes nothing
else; otherwise Flags accumulate and the result is written. -/
def completeFpu (conds : BitVec 6) (write : State → State) (s : State) : Res Unit :=
  if condsTrap conds (fcsrEnables s.fcsr) then .exc .fpe { s with fcsr := withCause s.fcsr conds }
  else .done (write { s with fcsr := withFlags (withCause s.fcsr conds) conds })

/-- FPE when Cause and Enables say so after a CTC1 (R764). -/
def moveTrap (s : State) : Res Unit :=
  if condsTrap (fcsrCause s.fcsr) (fcsrEnables s.fcsr) then .exc .fpe s else .done s

end Sys2Proof.Machine
end

