-- ==== Sys2Proof/Machine/Arith.lean ====
section
/-! DEFINITION. Arith: integer arithmetic, logic, shifts, bit counting and conditional moves (spec R520 to R545, R560 to R565). -/

namespace Sys2Proof.Machine

open Sys2Proof

/-! ## Shared forms -/

/-- An instruction that writes one general register. -/
def setReg (n : BitVec 5) (v : Word) (s : State) : Outcome State Fault Refusal := finish (.done (s.putGpr n v))

/-- An instruction that writes one general register, or raises Integer Overflow where there is no result (R521). -/
def setRegChecked (n : BitVec 5) (v : Option Word) (s : State) : Outcome State Fault Refusal :=
  match v with
  | some x => setReg n x s
  | none => finish (.exc .ov s)

/-- 1 or 0. -/
def boolWord (b : Bool) : Word := if b then 1 else 0

/-- The number of leading zeros (R560). -/
def leadingZeros (x : Word) : Word := if x = 0 then 32 else BitVec.ofNat 32 (31 - Nat.log2 x.toNat)

/-! ## Add, subtract, compare -/

/-- ADD (R522). -/
def execAdd (rs rt rd : GprNum) (s : State) : Outcome State Fault Refusal :=
  setRegChecked rd (checkedAdd (s.readGpr rs) (s.readGpr rt)) s

/-- ADDI (R523). -/
def execAddi (rs rt : GprNum) (imm : BitVec 16) (s : State) : Outcome State Fault Refusal :=
  setRegChecked rt (checkedAdd (s.readGpr rs) (sext imm)) s

/-- ADDIU (R524). -/
def execAddiu (rs rt : GprNum) (imm : BitVec 16) (s : State) : Outcome State Fault Refusal :=
  setReg rt (s.readGpr rs + sext imm) s

/-- ADDU (R525). -/
def execAddu (rs rt rd : GprNum) (s : State) : Outcome State Fault Refusal := setReg rd (s.readGpr rs + s.readGpr rt) s

/-- SUB (R526). -/
def execSub (rs rt rd : GprNum) (s : State) : Outcome State Fault Refusal :=
  setRegChecked rd (checkedSub (s.readGpr rs) (s.readGpr rt)) s

/-- SUBU (R527). -/
def execSubu (rs rt rd : GprNum) (s : State) : Outcome State Fault Refusal := setReg rd (s.readGpr rs - s.readGpr rt) s

/-- SLT (R528). -/
def execSlt (rs rt rd : GprNum) (s : State) : Outcome State Fault Refusal :=
  setReg rd (boolWord ((s.readGpr rs).slt (s.readGpr rt))) s

/-- SLTI (R529). -/
def execSlti (rs rt : GprNum) (imm : BitVec 16) (s : State) : Outcome State Fault Refusal :=
  setReg rt (boolWord ((s.readGpr rs).slt (sext imm))) s

/-- SLTIU (R530): the sign-extended immediate compared unsigned. -/
def execSltiu (rs rt : GprNum) (imm : BitVec 16) (s : State) : Outcome State Fault Refusal :=
  setReg rt (boolWord ((s.readGpr rs).ult (sext imm))) s

/-- SLTU (R531). -/
def execSltu (rs rt rd : GprNum) (s : State) : Outcome State Fault Refusal :=
  setReg rd (boolWord ((s.readGpr rs).ult (s.readGpr rt))) s

/-! ## Logic -/

/-- AND (R532). -/
def execAndr (rs rt rd : GprNum) (s : State) : Outcome State Fault Refusal :=
  setReg rd (s.readGpr rs &&& s.readGpr rt) s

/-- OR (R534). -/
def execOrr (rs rt rd : GprNum) (s : State) : Outcome State Fault Refusal := setReg rd (s.readGpr rs ||| s.readGpr rt) s

/-- XOR (R536). -/
def execXorr (rs rt rd : GprNum) (s : State) : Outcome State Fault Refusal :=
  setReg rd (s.readGpr rs ^^^ s.readGpr rt) s

/-- ANDI (R533). -/
def execAndi (rs rt : GprNum) (imm : BitVec 16) (s : State) : Outcome State Fault Refusal :=
  setReg rt (s.readGpr rs &&& zext imm) s

/-- ORI (R535). -/
def execOri (rs rt : GprNum) (imm : BitVec 16) (s : State) : Outcome State Fault Refusal :=
  setReg rt (s.readGpr rs ||| zext imm) s

/-- XORI (R537). -/
def execXori (rs rt : GprNum) (imm : BitVec 16) (s : State) : Outcome State Fault Refusal :=
  setReg rt (s.readGpr rs ^^^ zext imm) s

/-- NOR (R538). -/
def execNorr (rs rt rd : GprNum) (s : State) : Outcome State Fault Refusal :=
  setReg rd (~~~(s.readGpr rs ||| s.readGpr rt)) s

/-- LUI (R539). -/
def execLui (rt : GprNum) (imm : BitVec 16) (s : State) : Outcome State Fault Refusal := setReg rt (imm ++ 0#16) s

/-! ## Shifts -/

/-- SLL (R540). -/
def execSll (rt rd : GprNum) (sa : BitVec 5) (s : State) : Outcome State Fault Refusal :=
  setReg rd (s.readGpr rt <<< sa.toNat) s

/-- SRL (R541). -/
def execSrl (rt rd : GprNum) (sa : BitVec 5) (s : State) : Outcome State Fault Refusal :=
  setReg rd (s.readGpr rt >>> sa.toNat) s

/-- SRA (R542). -/
def execSra (rt rd : GprNum) (sa : BitVec 5) (s : State) : Outcome State Fault Refusal :=
  setReg rd ((s.readGpr rt).sshiftRight sa.toNat) s

/-- The shift amount of a variable shift: bits 4:0 (R543). -/
def shiftAmount (x : Word) : Nat := (fieldOf x 0 5 : BitVec 5).toNat

/-- SLLV (R543). -/
def execSllv (rs rt rd : GprNum) (s : State) : Outcome State Fault Refusal :=
  setReg rd (s.readGpr rt <<< shiftAmount (s.readGpr rs)) s

/-- SRLV (R544). -/
def execSrlv (rs rt rd : GprNum) (s : State) : Outcome State Fault Refusal :=
  setReg rd (s.readGpr rt >>> shiftAmount (s.readGpr rs)) s

/-- SRAV (R545). -/
def execSrav (rs rt rd : GprNum) (s : State) : Outcome State Fault Refusal :=
  setReg rd ((s.readGpr rt).sshiftRight (shiftAmount (s.readGpr rs))) s

/-! ## Bit counting and conditional moves -/

/-- CLZ (R560); the rt field is ignored (U57). -/
def execClz (rs _rt rd : GprNum) (s : State) : Outcome State Fault Refusal := setReg rd (leadingZeros (s.readGpr rs)) s

/-- CLO (R561); the rt field is ignored (U57). -/
def execClo (rs _rt rd : GprNum) (s : State) : Outcome State Fault Refusal :=
  setReg rd (leadingZeros (~~~(s.readGpr rs))) s

/-- A conditional move between general registers. -/
def moveIf (c : Bool) (rs rd : GprNum) (s : State) : Res Unit := .done (if c then s.putGpr rd (s.readGpr rs) else s)

/-- MOVN (R562). -/
def execMovn (rs rt rd : GprNum) (s : State) : Outcome State Fault Refusal :=
  finish (moveIf (s.readGpr rt != 0) rs rd s)

/-- MOVZ (R563). -/
def execMovz (rs rt rd : GprNum) (s : State) : Outcome State Fault Refusal :=
  finish (moveIf (s.readGpr rt == 0) rs rd s)

/-- MOVF (R564). -/
def execMovf (rs : GprNum) (cc : BitVec 3) (rd : GprNum) (s : State) : Outcome State Fault Refusal :=
  finish (needFpu s (moveIf (!s.fcc cc) rs rd s))

/-- MOVT (R565). -/
def execMovt (rs : GprNum) (cc : BitVec 3) (rd : GprNum) (s : State) : Outcome State Fault Refusal :=
  finish (needFpu s (moveIf (s.fcc cc) rs rd s))

end Sys2Proof.Machine
end

