-- ==== Sys2Proof/Machine/Branch.lean ====
section
/-! DEFINITION. Branch: jumps and branches (spec R600 to R630). -/

namespace Sys2Proof.Machine

open Sys2Proof

/-! ## Shared forms -/

/-- A jump. -/
def jumpTo (t : Word) (s : State) : Outcome State Fault Refusal := finishControl (.ok (.taken t) s)

/-- A conditional branch; likely ones nullify the delay slot when not taken (R600, R622). -/
def branchIf (c likely : Bool) (offset : BitVec 16) (s : State) : Outcome State Fault Refusal :=
  finishControl (.ok (if c then .taken (s.branchTarget offset) else if likely then .nullify else .notTaken) s)

/-- A conditional branch that writes GPR[31] whether or not it is taken (R603); refused with rs = 31 (R604, U58). -/
def branchAndLink (rs : GprNum) (c likely : Bool) (offset : BitVec 16) (s : State) : Outcome State Fault Refusal :=
  if rs = 31 then .refused .linkIsSource else branchIf c likely offset (s.putGpr 31 s.linkValue)

/-! ## Jumps -/

/-- J (R610). -/
def execJ (index : BitVec 26) (s : State) : Outcome State Fault Refusal := jumpTo (s.jumpTarget index) s

/-- JAL (R611). -/
def execJal (index : BitVec 26) (s : State) : Outcome State Fault Refusal :=
  jumpTo (s.jumpTarget index) (s.putGpr 31 s.linkValue)

/-- JR (R612); the hint is ignored. -/
def execJr (rs : GprNum) (_hint : BitVec 5) (s : State) : Outcome State Fault Refusal := jumpTo (s.readGpr rs) s

/-- JALR (R613); the hint is ignored, rd = rs is refused (R604, U58). -/
def execJalr (rs rd : GprNum) (_hint : BitVec 5) (s : State) : Outcome State Fault Refusal :=
  if rd = rs then .refused .linkIsSource else jumpTo (s.readGpr rs) (s.putGpr rd s.linkValue)

/-! ## Conditional branches -/

/-- BEQ (R614). -/
def execBeq (rs rt : GprNum) (offset : BitVec 16) (s : State) : Outcome State Fault Refusal :=
  branchIf (s.readGpr rs == s.readGpr rt) false offset s

/-- BNE (R615). -/
def execBne (rs rt : GprNum) (offset : BitVec 16) (s : State) : Outcome State Fault Refusal :=
  branchIf (s.readGpr rs != s.readGpr rt) false offset s

/-- BLEZ (R616). -/
def execBlez (rs : GprNum) (offset : BitVec 16) (s : State) : Outcome State Fault Refusal :=
  branchIf ((s.readGpr rs).sle 0) false offset s

/-- BGTZ (R617). -/
def execBgtz (rs : GprNum) (offset : BitVec 16) (s : State) : Outcome State Fault Refusal :=
  branchIf ((0 : Word).slt (s.readGpr rs)) false offset s

/-- BLTZ (R618). -/
def execBltz (rs : GprNum) (offset : BitVec 16) (s : State) : Outcome State Fault Refusal :=
  branchIf (isSet (s.readGpr rs) 31) false offset s

/-- BGEZ (R619). -/
def execBgez (rs : GprNum) (offset : BitVec 16) (s : State) : Outcome State Fault Refusal :=
  branchIf (!isSet (s.readGpr rs) 31) false offset s

/-- BLTZAL (R620). -/
def execBltzal (rs : GprNum) (offset : BitVec 16) (s : State) : Outcome State Fault Refusal :=
  branchAndLink rs (isSet (s.readGpr rs) 31) false offset s

/-- BGEZAL (R621). -/
def execBgezal (rs : GprNum) (offset : BitVec 16) (s : State) : Outcome State Fault Refusal :=
  branchAndLink rs (!isSet (s.readGpr rs) 31) false offset s

/-! ## Branch-likely forms -/

/-- BEQL (R623). -/
def execBeql (rs rt : GprNum) (offset : BitVec 16) (s : State) : Outcome State Fault Refusal :=
  branchIf (s.readGpr rs == s.readGpr rt) true offset s

/-- BNEL (R624). -/
def execBnel (rs rt : GprNum) (offset : BitVec 16) (s : State) : Outcome State Fault Refusal :=
  branchIf (s.readGpr rs != s.readGpr rt) true offset s

/-- BLEZL (R625). -/
def execBlezl (rs : GprNum) (offset : BitVec 16) (s : State) : Outcome State Fault Refusal :=
  branchIf ((s.readGpr rs).sle 0) true offset s

/-- BGTZL (R626). -/
def execBgtzl (rs : GprNum) (offset : BitVec 16) (s : State) : Outcome State Fault Refusal :=
  branchIf ((0 : Word).slt (s.readGpr rs)) true offset s

/-- BLTZL (R627). -/
def execBltzl (rs : GprNum) (offset : BitVec 16) (s : State) : Outcome State Fault Refusal :=
  branchIf (isSet (s.readGpr rs) 31) true offset s

/-- BGEZL (R628). -/
def execBgezl (rs : GprNum) (offset : BitVec 16) (s : State) : Outcome State Fault Refusal :=
  branchIf (!isSet (s.readGpr rs) 31) true offset s

/-- BLTZALL (R629). -/
def execBltzall (rs : GprNum) (offset : BitVec 16) (s : State) : Outcome State Fault Refusal :=
  branchAndLink rs (isSet (s.readGpr rs) 31) true offset s

/-- BGEZALL (R630). -/
def execBgezall (rs : GprNum) (offset : BitVec 16) (s : State) : Outcome State Fault Refusal :=
  branchAndLink rs (!isSet (s.readGpr rs) 31) true offset s

end Sys2Proof.Machine
end

