-- ==== Sys2Proof/Machine/Fpu.lean ====
section
/-! DEFINITION. Fpu: the floating-point coprocessor (spec R750 to R843). -/

namespace Sys2Proof.Machine

open Sys2Proof

/-! ## Shared forms -/

/-- The operand in FGR[n] as a natural number. -/
def State.single (s : State) (n : FprNum) : Nat := (s.readFgr n).toNat
/-- The operand in FPR_D[n] as a natural number. -/
def State.double (s : State) (n : FprNum) : Nat := (s.readFpr n).toNat

/-- Completion with a 32-bit result in FGR[fd] (R760). -/
def completeS (fd : FprNum) (r : FpResult) (s : State) : Res Unit :=
  completeFpu r.conds (fun t => t.putFgr fd (BitVec.ofNat 32 r.bits)) s
/-- Completion with a 64-bit result in FPR_D[fd] (R760). -/
def completeD (fd : FprNum) (r : FpResult) (s : State) : Res Unit :=
  completeFpu r.conds (fun t => t.putFpr fd (BitVec.ofNat 64 r.bits)) s

/-- An FPU instruction over even registers (R750, R753). -/
def fpuOp (regs : List FprNum) (r : Res Unit) (s : State) : Outcome State Fault Refusal :=
  finish (needFpu s (evenOnly regs r))

/-! ## Arithmetic (R765 to R778) -/

/-- ADD.S (R765). -/
def execAddS (ft fs fd : FprNum) (s : State) : Outcome State Fault Refusal :=
  fpuOp [ft, fs, fd] (completeS fd (FpFmt.single.add s.fpEnv false (s.single fs) (s.single ft)) s) s

/-- ADD.D (R766). -/
def execAddD (ft fs fd : FprNum) (s : State) : Outcome State Fault Refusal :=
  fpuOp [ft, fs, fd] (completeD fd (FpFmt.double.add s.fpEnv false (s.double fs) (s.double ft)) s) s

/-- SUB.S (R767). -/
def execSubS (ft fs fd : FprNum) (s : State) : Outcome State Fault Refusal :=
  fpuOp [ft, fs, fd] (completeS fd (FpFmt.single.add s.fpEnv true (s.single fs) (s.single ft)) s) s

/-- SUB.D (R768). -/
def execSubD (ft fs fd : FprNum) (s : State) : Outcome State Fault Refusal :=
  fpuOp [ft, fs, fd] (completeD fd (FpFmt.double.add s.fpEnv true (s.double fs) (s.double ft)) s) s

/-- MUL.S (R769). -/
def execMulS (ft fs fd : FprNum) (s : State) : Outcome State Fault Refusal :=
  fpuOp [ft, fs, fd] (completeS fd (FpFmt.single.mul s.fpEnv (s.single fs) (s.single ft)) s) s

/-- MUL.D (R770). -/
def execMulD (ft fs fd : FprNum) (s : State) : Outcome State Fault Refusal :=
  fpuOp [ft, fs, fd] (completeD fd (FpFmt.double.mul s.fpEnv (s.double fs) (s.double ft)) s) s

/-- DIV.S (R771). -/
def execDivS (ft fs fd : FprNum) (s : State) : Outcome State Fault Refusal :=
  fpuOp [ft, fs, fd] (completeS fd (FpFmt.single.div s.fpEnv (s.single fs) (s.single ft)) s) s

/-- DIV.D (R772). -/
def execDivD (ft fs fd : FprNum) (s : State) : Outcome State Fault Refusal :=
  fpuOp [ft, fs, fd] (completeD fd (FpFmt.double.div s.fpEnv (s.double fs) (s.double ft)) s) s

/-- SQRT.S (R773). -/
def execSqrtS (fs fd : FprNum) (s : State) : Outcome State Fault Refusal :=
  fpuOp [fs, fd] (completeS fd (FpFmt.single.sqrt s.fpEnv (s.single fs)) s) s

/-- SQRT.D (R774). -/
def execSqrtD (fs fd : FprNum) (s : State) : Outcome State Fault Refusal :=
  fpuOp [fs, fd] (completeD fd (FpFmt.double.sqrt s.fpEnv (s.double fs)) s) s

/-- ABS.S (R775). -/
def execAbsS (fs fd : FprNum) (s : State) : Outcome State Fault Refusal :=
  fpuOp [fs, fd] (completeS fd (FpFmt.single.abs s.fpEnv (s.single fs)) s) s

/-- ABS.D (R776). -/
def execAbsD (fs fd : FprNum) (s : State) : Outcome State Fault Refusal :=
  fpuOp [fs, fd] (completeD fd (FpFmt.double.abs s.fpEnv (s.double fs)) s) s

/-- NEG.S (R777). -/
def execNegS (fs fd : FprNum) (s : State) : Outcome State Fault Refusal :=
  fpuOp [fs, fd] (completeS fd (FpFmt.single.negate s.fpEnv (s.single fs)) s) s

/-- NEG.D (R778). -/
def execNegD (fs fd : FprNum) (s : State) : Outcome State Fault Refusal :=
  fpuOp [fs, fd] (completeD fd (FpFmt.double.negate s.fpEnv (s.double fs)) s) s

/-! ## Moves between registers (R779, R780, R816 to R824) -/

/-- A conditional copy of FGR[fs] (R816). -/
def copyS (c : Bool) (fs fd : FprNum) (s : State) : Res Unit := .done (if c then s.putFgr fd (s.readFgr fs) else s)
/-- A conditional copy of FPR_D[fs] (R816). -/
def copyD (c : Bool) (fs fd : FprNum) (s : State) : Res Unit := .done (if c then s.putFpr fd (s.readFpr fs) else s)

/-- MOV.S (R779). -/
def execMovS (fs fd : FprNum) (s : State) : Outcome State Fault Refusal := fpuOp [fs, fd] (copyS true fs fd s) s

/-- MOV.D (R780). -/
def execMovD (fs fd : FprNum) (s : State) : Outcome State Fault Refusal := fpuOp [fs, fd] (copyD true fs fd s) s

/-- MOVF.S (R817). -/
def execMovfS (cc : BitVec 3) (fs fd : FprNum) (s : State) : Outcome State Fault Refusal :=
  fpuOp [fs, fd] (copyS (!s.fcc cc) fs fd s) s

/-- MOVF.D (R818). -/
def execMovfD (cc : BitVec 3) (fs fd : FprNum) (s : State) : Outcome State Fault Refusal :=
  fpuOp [fs, fd] (copyD (!s.fcc cc) fs fd s) s

/-- MOVT.S (R819). -/
def execMovtS (cc : BitVec 3) (fs fd : FprNum) (s : State) : Outcome State Fault Refusal :=
  fpuOp [fs, fd] (copyS (s.fcc cc) fs fd s) s

/-- MOVT.D (R820). -/
def execMovtD (cc : BitVec 3) (fs fd : FprNum) (s : State) : Outcome State Fault Refusal :=
  fpuOp [fs, fd] (copyD (s.fcc cc) fs fd s) s

/-- MOVN.S (R821). -/
def execMovnS (rt : GprNum) (fs fd : FprNum) (s : State) : Outcome State Fault Refusal :=
  fpuOp [fs, fd] (copyS (s.readGpr rt != 0) fs fd s) s

/-- MOVN.D (R822). -/
def execMovnD (rt : GprNum) (fs fd : FprNum) (s : State) : Outcome State Fault Refusal :=
  fpuOp [fs, fd] (copyD (s.readGpr rt != 0) fs fd s) s

/-- MOVZ.S (R823). -/
def execMovzS (rt : GprNum) (fs fd : FprNum) (s : State) : Outcome State Fault Refusal :=
  fpuOp [fs, fd] (copyS (s.readGpr rt == 0) fs fd s) s

/-- MOVZ.D (R824). -/
def execMovzD (rt : GprNum) (fs fd : FprNum) (s : State) : Outcome State Fault Refusal :=
  fpuOp [fs, fd] (copyD (s.readGpr rt == 0) fs fd s) s

/-! ## Conversions (R781 to R798) -/

/-- CVT.S.D (R781). -/
def execCvtSD (fs fd : FprNum) (s : State) : Outcome State Fault Refusal :=
  fpuOp [fs, fd] (completeS fd (FpFmt.double.convert .single s.fpEnv (s.double fs)) s) s

/-- CVT.S.W (R782). -/
def execCvtSW (fs fd : FprNum) (s : State) : Outcome State Fault Refusal :=
  fpuOp [fs, fd] (completeS fd (FpFmt.single.ofWord s.fpEnv (s.readFgr fs)) s) s

/-- CVT.D.S (R783). -/
def execCvtDS (fs fd : FprNum) (s : State) : Outcome State Fault Refusal :=
  fpuOp [fs, fd] (completeD fd (FpFmt.single.convert .double s.fpEnv (s.single fs)) s) s

/-- CVT.D.W (R784). -/
def execCvtDW (fs fd : FprNum) (s : State) : Outcome State Fault Refusal :=
  fpuOp [fs, fd] (completeD fd (FpFmt.double.ofWord s.fpEnv (s.readFgr fs)) s) s

/-- CVT.W.S (R785). -/
def execCvtWS (fs fd : FprNum) (s : State) : Outcome State Fault Refusal :=
  fpuOp [fs, fd] (completeS fd (FpFmt.single.toWord s.fpEnv s.roundingMode (s.single fs)) s) s

/-- CVT.W.D (R786). -/
def execCvtWD (fs fd : FprNum) (s : State) : Outcome State Fault Refusal :=
  fpuOp [fs, fd] (completeS fd (FpFmt.double.toWord s.fpEnv s.roundingMode (s.double fs)) s) s

/-- ROUND.W.S (R791). -/
def execRoundWS (fs fd : FprNum) (s : State) : Outcome State Fault Refusal :=
  fpuOp [fs, fd] (completeS fd (FpFmt.single.toWord s.fpEnv 0 (s.single fs)) s) s

/-- ROUND.W.D (R792). -/
def execRoundWD (fs fd : FprNum) (s : State) : Outcome State Fault Refusal :=
  fpuOp [fs, fd] (completeS fd (FpFmt.double.toWord s.fpEnv 0 (s.double fs)) s) s

/-- TRUNC.W.S (R793). -/
def execTruncWS (fs fd : FprNum) (s : State) : Outcome State Fault Refusal :=
  fpuOp [fs, fd] (completeS fd (FpFmt.single.toWord s.fpEnv 1 (s.single fs)) s) s

/-- TRUNC.W.D (R794). -/
def execTruncWD (fs fd : FprNum) (s : State) : Outcome State Fault Refusal :=
  fpuOp [fs, fd] (completeS fd (FpFmt.double.toWord s.fpEnv 1 (s.double fs)) s) s

/-- CEIL.W.S (R795). -/
def execCeilWS (fs fd : FprNum) (s : State) : Outcome State Fault Refusal :=
  fpuOp [fs, fd] (completeS fd (FpFmt.single.toWord s.fpEnv 2 (s.single fs)) s) s

/-- CEIL.W.D (R796). -/
def execCeilWD (fs fd : FprNum) (s : State) : Outcome State Fault Refusal :=
  fpuOp [fs, fd] (completeS fd (FpFmt.double.toWord s.fpEnv 2 (s.double fs)) s) s

/-- FLOOR.W.S (R797). -/
def execFloorWS (fs fd : FprNum) (s : State) : Outcome State Fault Refusal :=
  fpuOp [fs, fd] (completeS fd (FpFmt.single.toWord s.fpEnv 3 (s.single fs)) s) s

/-- FLOOR.W.D (R798). -/
def execFloorWD (fs fd : FprNum) (s : State) : Outcome State Fault Refusal :=
  fpuOp [fs, fd] (completeS fd (FpFmt.double.toWord s.fpEnv 3 (s.double fs)) s) s

/-! ## Moves between CPU and FPU (R799 to R802) -/

/-- FCR[n] (R53, R801); another number gives any value (U9). -/
def readFcr (n : BitVec 5) (s : State) : Res Word :=
  match n.toNat with
  | 0 => .ok 0x00030000 s
  | 25 => .ok (fccrView s.fcsr) s
  | 26 => .ok (fexrView s.fcsr) s
  | 28 => .ok (fenrView s.fcsr) s
  | 31 => .ok s.fcsr s
  | _ => anyWord s

/-- FCR[n] <- v (R802); FIR and other numbers ignore it (U9). -/
def State.writeFcr (s : State) (n : BitVec 5) (v : Word) : State :=
  match n.toNat with
  | 25 => { s with fcsr := writeFccr v s.fcsr }
  | 26 => { s with fcsr := writeFexr v s.fcsr }
  | 28 => { s with fcsr := writeFenr v s.fcsr }
  | 31 => { s with fcsr := v &&& fcsrMask }
  | _ => s

/-- MFC1 (R799). -/
def execMfc1 (rt : GprNum) (fs : FprNum) (s : State) : Outcome State Fault Refusal :=
  finish (needFpu s (.done (s.putGpr rt (s.readFgr fs))))

/-- MTC1 (R800). -/
def execMtc1 (rt : GprNum) (fs : FprNum) (s : State) : Outcome State Fault Refusal :=
  finish (needFpu s (.done (s.putFgr fs (s.readGpr rt))))

/-- CFC1 (R801). -/
def execCfc1 (rt : GprNum) (fs : FprNum) (s : State) : Outcome State Fault Refusal :=
  finish (needFpu s ((readFcr fs s).andThen fun v s => .done (s.putGpr rt v)))

/-- CTC1 (R802, R764). -/
def execCtc1 (rt : GprNum) (fs : FprNum) (s : State) : Outcome State Fault Refusal :=
  finish (needFpu s (moveTrap (s.writeFcr fs (s.readGpr rt))))

/-! ## Loads and stores (R804 to R809) -/

/-- LWC1 (R806). -/
def execLwc1 (base : GprNum) (ft : FprNum) (offset : BitVec 16) (s : State) : Outcome State Fault Refusal :=
  finish (needFpu s ((memRead (s.effAddr base offset) 4 s).andThen fun w s => .done (s.putFgr ft w)))

/-- SWC1 (R807). -/
def execSwc1 (base : GprNum) (ft : FprNum) (offset : BitVec 16) (s : State) : Outcome State Fault Refusal :=
  finish (needFpu s (memWrite (s.effAddr base offset) 4 (.word (s.readFgr ft)) s))

/-- LDC1 (R808). -/
def execLdc1 (base : GprNum) (ft : FprNum) (offset : BitVec 16) (s : State) : Outcome State Fault Refusal :=
  fpuOp [ft] ((memRead64 (s.effAddr base offset) s).andThen fun v s => .done (s.putFpr ft v)) s

/-- SDC1 (R809). -/
def execSdc1 (base : GprNum) (ft : FprNum) (offset : BitVec 16) (s : State) : Outcome State Fault Refusal :=
  fpuOp [ft] (memWrite64 (s.effAddr base offset) (s.readFpr ft) s) s

/-! ## Branches (R810 to R815) -/

/-- A branch on a condition code (R810). -/
def branchFcc (cc : BitVec 3) (want likely : Bool) (offset : BitVec 16) (s : State) : Outcome State Fault Refusal :=
  if s.fpuUsable then branchIf (s.fcc cc == want) likely offset s else finish (.exc .cpu s)

/-- BC1F (R812). -/
def execBc1f (cc : BitVec 3) (offset : BitVec 16) (s : State) : Outcome State Fault Refusal :=
  branchFcc cc false false offset s

/-- BC1T (R813). -/
def execBc1t (cc : BitVec 3) (offset : BitVec 16) (s : State) : Outcome State Fault Refusal :=
  branchFcc cc true false offset s

/-- BC1FL (R814). -/
def execBc1fl (cc : BitVec 3) (offset : BitVec 16) (s : State) : Outcome State Fault Refusal :=
  branchFcc cc false true offset s

/-- BC1TL (R815). -/
def execBc1tl (cc : BitVec 3) (offset : BitVec 16) (s : State) : Outcome State Fault Refusal :=
  branchFcc cc true true offset s

/-! ## Compares (R825 to R841) -/

/-- A compare of single operands (R825). -/
def compareS (cond : BitVec 4) (ft fs : FprNum) (cc : BitVec 3) (s : State) : Outcome State Fault Refusal :=
  let r := FpFmt.single.compare s.params.nanEncoding cond (s.single fs) (s.single ft)
  fpuOp [ft, fs] (completeFpu (if r.2 then condV else 0) (fun t => t.putFcc cc r.1) s) s
/-- A compare of double operands (R825). -/
def compareD (cond : BitVec 4) (ft fs : FprNum) (cc : BitVec 3) (s : State) : Outcome State Fault Refusal :=
  let r := FpFmt.double.compare s.params.nanEncoding cond (s.double fs) (s.double ft)
  fpuOp [ft, fs] (completeFpu (if r.2 then condV else 0) (fun t => t.putFcc cc r.1) s) s

/-- C.F.S (R826). -/
def execCFS (ft fs : FprNum) (cc : BitVec 3) (s : State) : Outcome State Fault Refusal := compareS 0b0000 ft fs cc s

/-- C.F.D (R826). -/
def execCFD (ft fs : FprNum) (cc : BitVec 3) (s : State) : Outcome State Fault Refusal := compareD 0b0000 ft fs cc s

/-- C.UN.S (R827). -/
def execCUnS (ft fs : FprNum) (cc : BitVec 3) (s : State) : Outcome State Fault Refusal := compareS 0b0001 ft fs cc s

/-- C.UN.D (R827). -/
def execCUnD (ft fs : FprNum) (cc : BitVec 3) (s : State) : Outcome State Fault Refusal := compareD 0b0001 ft fs cc s

/-- C.EQ.S (R828). -/
def execCEqS (ft fs : FprNum) (cc : BitVec 3) (s : State) : Outcome State Fault Refusal := compareS 0b0010 ft fs cc s

/-- C.EQ.D (R828). -/
def execCEqD (ft fs : FprNum) (cc : BitVec 3) (s : State) : Outcome State Fault Refusal := compareD 0b0010 ft fs cc s

/-- C.UEQ.S (R829). -/
def execCUeqS (ft fs : FprNum) (cc : BitVec 3) (s : State) : Outcome State Fault Refusal := compareS 0b0011 ft fs cc s

/-- C.UEQ.D (R829). -/
def execCUeqD (ft fs : FprNum) (cc : BitVec 3) (s : State) : Outcome State Fault Refusal := compareD 0b0011 ft fs cc s

/-- C.OLT.S (R830). -/
def execCOltS (ft fs : FprNum) (cc : BitVec 3) (s : State) : Outcome State Fault Refusal := compareS 0b0100 ft fs cc s

/-- C.OLT.D (R830). -/
def execCOltD (ft fs : FprNum) (cc : BitVec 3) (s : State) : Outcome State Fault Refusal := compareD 0b0100 ft fs cc s

/-- C.ULT.S (R831). -/
def execCUltS (ft fs : FprNum) (cc : BitVec 3) (s : State) : Outcome State Fault Refusal := compareS 0b0101 ft fs cc s

/-- C.ULT.D (R831). -/
def execCUltD (ft fs : FprNum) (cc : BitVec 3) (s : State) : Outcome State Fault Refusal := compareD 0b0101 ft fs cc s

/-- C.OLE.S (R832). -/
def execCOleS (ft fs : FprNum) (cc : BitVec 3) (s : State) : Outcome State Fault Refusal := compareS 0b0110 ft fs cc s

/-- C.OLE.D (R832). -/
def execCOleD (ft fs : FprNum) (cc : BitVec 3) (s : State) : Outcome State Fault Refusal := compareD 0b0110 ft fs cc s

/-- C.ULE.S (R833). -/
def execCUleS (ft fs : FprNum) (cc : BitVec 3) (s : State) : Outcome State Fault Refusal := compareS 0b0111 ft fs cc s

/-- C.ULE.D (R833). -/
def execCUleD (ft fs : FprNum) (cc : BitVec 3) (s : State) : Outcome State Fault Refusal := compareD 0b0111 ft fs cc s

/-- C.SF.S (R834). -/
def execCSfS (ft fs : FprNum) (cc : BitVec 3) (s : State) : Outcome State Fault Refusal := compareS 0b1000 ft fs cc s

/-- C.SF.D (R834). -/
def execCSfD (ft fs : FprNum) (cc : BitVec 3) (s : State) : Outcome State Fault Refusal := compareD 0b1000 ft fs cc s

/-- C.NGLE.S (R835). -/
def execCNgleS (ft fs : FprNum) (cc : BitVec 3) (s : State) : Outcome State Fault Refusal := compareS 0b1001 ft fs cc s

/-- C.NGLE.D (R835). -/
def execCNgleD (ft fs : FprNum) (cc : BitVec 3) (s : State) : Outcome State Fault Refusal := compareD 0b1001 ft fs cc s

/-- C.SEQ.S (R836). -/
def execCSeqS (ft fs : FprNum) (cc : BitVec 3) (s : State) : Outcome State Fault Refusal := compareS 0b1010 ft fs cc s

/-- C.SEQ.D (R836). -/
def execCSeqD (ft fs : FprNum) (cc : BitVec 3) (s : State) : Outcome State Fault Refusal := compareD 0b1010 ft fs cc s

/-- C.NGL.S (R837). -/
def execCNglS (ft fs : FprNum) (cc : BitVec 3) (s : State) : Outcome State Fault Refusal := compareS 0b1011 ft fs cc s

/-- C.NGL.D (R837). -/
def execCNglD (ft fs : FprNum) (cc : BitVec 3) (s : State) : Outcome State Fault Refusal := compareD 0b1011 ft fs cc s

/-- C.LT.S (R838). -/
def execCLtS (ft fs : FprNum) (cc : BitVec 3) (s : State) : Outcome State Fault Refusal := compareS 0b1100 ft fs cc s

/-- C.LT.D (R838). -/
def execCLtD (ft fs : FprNum) (cc : BitVec 3) (s : State) : Outcome State Fault Refusal := compareD 0b1100 ft fs cc s

/-- C.NGE.S (R839). -/
def execCNgeS (ft fs : FprNum) (cc : BitVec 3) (s : State) : Outcome State Fault Refusal := compareS 0b1101 ft fs cc s

/-- C.NGE.D (R839). -/
def execCNgeD (ft fs : FprNum) (cc : BitVec 3) (s : State) : Outcome State Fault Refusal := compareD 0b1101 ft fs cc s

/-- C.LE.S (R840). -/
def execCLeS (ft fs : FprNum) (cc : BitVec 3) (s : State) : Outcome State Fault Refusal := compareS 0b1110 ft fs cc s

/-- C.LE.D (R840). -/
def execCLeD (ft fs : FprNum) (cc : BitVec 3) (s : State) : Outcome State Fault Refusal := compareD 0b1110 ft fs cc s

/-- C.NGT.S (R841). -/
def execCNgtS (ft fs : FprNum) (cc : BitVec 3) (s : State) : Outcome State Fault Refusal := compareS 0b1111 ft fs cc s

/-- C.NGT.D (R841). -/
def execCNgtD (ft fs : FprNum) (cc : BitVec 3) (s : State) : Outcome State Fault Refusal := compareD 0b1111 ft fs cc s

end Sys2Proof.Machine
end

