-- ==== Sys2Proof/Machine/LoadStore.lean ====
section
/-! DEFINITION. LoadStore: loads, stores, LL and SC, PREF, SYNC (spec R650 to R671). -/

namespace Sys2Proof.Machine

open Sys2Proof

/-! ## Shared forms -/

/-- A load: the register written is computed from the word read and its own old value. -/
def loadTo (rt : GprNum) (va : Word) (size : Nat) (f : Word → Word → Word) (s : State) : Outcome State Fault Refusal :=
  finish ((memRead va size s).andThen fun w s => .done (s.putGpr rt (f w (s.readGpr rt))))

/-! ## Loads (R655 to R661) -/

/-- LB (R655). -/
def execLb (base rt : GprNum) (offset : BitVec 16) (s : State) : Outcome State Fault Refusal :=
  loadTo rt (s.effAddr base offset) 1 (fun w _ => sext (byteAt w (s.effAddr base offset))) s

/-- LBU (R656). -/
def execLbu (base rt : GprNum) (offset : BitVec 16) (s : State) : Outcome State Fault Refusal :=
  loadTo rt (s.effAddr base offset) 1 (fun w _ => zext (byteAt w (s.effAddr base offset))) s

/-- LH (R657). -/
def execLh (base rt : GprNum) (offset : BitVec 16) (s : State) : Outcome State Fault Refusal :=
  loadTo rt (s.effAddr base offset) 2 (fun w _ => sext (halfAt w (s.effAddr base offset))) s

/-- LHU (R658). -/
def execLhu (base rt : GprNum) (offset : BitVec 16) (s : State) : Outcome State Fault Refusal :=
  loadTo rt (s.effAddr base offset) 2 (fun w _ => zext (halfAt w (s.effAddr base offset))) s

/-- LW (R659). -/
def execLw (base rt : GprNum) (offset : BitVec 16) (s : State) : Outcome State Fault Refusal :=
  loadTo rt (s.effAddr base offset) 4 (fun w _ => w) s

/-- LWL (R660). -/
def execLwl (base rt : GprNum) (offset : BitVec 16) (s : State) : Outcome State Fault Refusal :=
  loadTo rt (s.effAddr base offset) 1 (mergeLeft (s.effAddr base offset)) s

/-- LWR (R661). -/
def execLwr (base rt : GprNum) (offset : BitVec 16) (s : State) : Outcome State Fault Refusal :=
  loadTo rt (s.effAddr base offset) 1 (mergeRight (s.effAddr base offset)) s

/-! ## Stores (R662 to R666) -/

/-- SB (R662). -/
def execSb (base rt : GprNum) (offset : BitVec 16) (s : State) : Outcome State Fault Refusal :=
  finish (memWrite (s.effAddr base offset) 1 (.byte (s.effAddr base offset) (s.readGpr rt)) s)

/-- SH (R663). -/
def execSh (base rt : GprNum) (offset : BitVec 16) (s : State) : Outcome State Fault Refusal :=
  finish (memWrite (s.effAddr base offset) 2 (.half (s.effAddr base offset) (s.readGpr rt)) s)

/-- SW (R664). -/
def execSw (base rt : GprNum) (offset : BitVec 16) (s : State) : Outcome State Fault Refusal :=
  finish (memWrite (s.effAddr base offset) 4 (.word (s.readGpr rt)) s)

/-- SWL (R665). -/
def execSwl (base rt : GprNum) (offset : BitVec 16) (s : State) : Outcome State Fault Refusal :=
  finish (memWrite (s.effAddr base offset) 1 (.left (s.effAddr base offset) (s.readGpr rt)) s)

/-- SWR (R666). -/
def execSwr (base rt : GprNum) (offset : BitVec 16) (s : State) : Outcome State Fault Refusal :=
  finish (memWrite (s.effAddr base offset) 1 (.right (s.effAddr base offset) (s.readGpr rt)) s)

/-! ## LL, SC, PREF, SYNC (R668 to R671) -/

/-- The operation of LL: the physical address is remembered in LLAddr and LLbit set. -/
def loadLinked (rt : GprNum) (va : Word) (s : State) : Res Unit :=
  if va.toNat % 4 ≠ 0 then .exc (.addressError va false) s
  else (translate va .load s).andThen fun t s => (busRead t.1 s).andThen fun w s =>
    .done ({ s with cp0 := { s.cp0 with llAddr := fieldOf t.1 4 28 }, llbit := true }.putGpr rt w)

/-- The operation of SC: the address is checked before LLbit (R669). -/
def storeConditional (rt : GprNum) (va : Word) (s : State) : Res Unit :=
  if va.toNat % 4 ≠ 0 then .exc (.addressError va true) s
  else (translate va .store s).andThen fun t s =>
    if s.llbit then
      (busWrite t.1 (.word (s.readGpr rt)) s).andThen fun _ s => .done ({ s with llbit := false }.putGpr rt 1)
    else .done (s.putGpr rt 0)

/-- LL (R668). -/
def execLl (base rt : GprNum) (offset : BitVec 16) (s : State) : Outcome State Fault Refusal :=
  finish (loadLinked rt (s.effAddr base offset) s)

/-- SC (R669). -/
def execSc (base rt : GprNum) (offset : BitVec 16) (s : State) : Outcome State Fault Refusal :=
  finish (storeConditional rt (s.effAddr base offset) s)

/-- PREF: no effect (R670, D5). -/
def execPref (_base : GprNum) (_hint : BitVec 5) (_offset : BitVec 16) (s : State) : Outcome State Fault Refusal :=
  finish (.done s)

/-- SYNC: no effect in a model that performs accesses in order (R671, D5). -/
def execSync (_stype : BitVec 5) (s : State) : Outcome State Fault Refusal := finish (.done s)

end Sys2Proof.Machine
end

