-- ==== Sys2Proof/Machine/MulDiv.lean ====
section
/-! DEFINITION. MulDiv: the multiply/divide unit (spec R546 to R559). -/

namespace Sys2Proof.Machine

open Sys2Proof

/-! ## Shared forms -/

/-- HI and LO from a 64-bit value (R546); unread says that U56 may follow (log 20). -/
def State.putHiLo (s : State) (v : Dword) (unread : Bool) : State :=
  { s with hi := fieldOf v 32 32, lo := fieldOf v 0 32, mduUnread := unread }

/-- The exact product as 64 bits, signed (R547). -/
def productSigned (x y : Word) : Dword := BitVec.ofInt 64 (x.toInt * y.toInt)
/-- The exact product as 64 bits, unsigned (R548). -/
def productUnsigned (x y : Word) : Dword := BitVec.ofNat 64 (x.toNat * y.toNat)

/-- HI and LO made any value (D13, U56). -/
def State.freeHiLo (s : State) (unread : Bool) : State :=
  { s with hi := s.freeWord, lo := s.drawn.freeWord, mduUnread := unread }.drawn.drawn

/-- The accumulator. -/
def State.acc (s : State) : Dword := s.hi ++ s.lo

/-! ## Multiply and divide -/

/-- MULT (R547). -/
def execMult (rs rt : GprNum) (s : State) : Outcome State Fault Refusal :=
  finish (.done (s.putHiLo (productSigned (s.readGpr rs) (s.readGpr rt)) true))

/-- MULTU (R548). -/
def execMultu (rs rt : GprNum) (s : State) : Outcome State Fault Refusal :=
  finish (.done (s.putHiLo (productUnsigned (s.readGpr rs) (s.readGpr rt)) true))

/-- MUL (R549): HI and LO become any value (U56). -/
def execMul (rs rt rd : GprNum) (s : State) : Outcome State Fault Refusal :=
  finish (.done ((s.freeHiLo s.mduUnread).putGpr rd (s.readGpr rs * s.readGpr rt)))

/-- MADD (R550). -/
def execMadd (rs rt : GprNum) (s : State) : Outcome State Fault Refusal :=
  finish (.done (s.putHiLo (s.acc + productSigned (s.readGpr rs) (s.readGpr rt)) s.mduUnread))

/-- MADDU (R551). -/
def execMaddu (rs rt : GprNum) (s : State) : Outcome State Fault Refusal :=
  finish (.done (s.putHiLo (s.acc + productUnsigned (s.readGpr rs) (s.readGpr rt)) s.mduUnread))

/-- MSUB (R552). -/
def execMsub (rs rt : GprNum) (s : State) : Outcome State Fault Refusal :=
  finish (.done (s.putHiLo (s.acc - productSigned (s.readGpr rs) (s.readGpr rt)) s.mduUnread))

/-- MSUBU (R553). -/
def execMsubu (rs rt : GprNum) (s : State) : Outcome State Fault Refusal :=
  finish (.done (s.putHiLo (s.acc - productUnsigned (s.readGpr rs) (s.readGpr rt)) s.mduUnread))

/-- Quotient rounded toward zero in LO and remainder in HI (R554). -/
def quotientSigned (x y : Word) : Dword :=
  BitVec.ofInt 32 (x.toInt.tmod y.toInt) ++ BitVec.ofInt 32 (x.toInt.tdiv y.toInt)
/-- The same, unsigned (R555). -/
def quotientUnsigned (x y : Word) : Dword := BitVec.ofNat 32 (x.toNat % y.toNat) ++ BitVec.ofNat 32 (x.toNat / y.toNat)

/-- DIV (R554); by zero, HI and LO become any value (D13). -/
def execDiv (rs rt : GprNum) (s : State) : Outcome State Fault Refusal :=
  finish (.done (if s.readGpr rt = 0 then s.freeHiLo true else s.putHiLo (quotientSigned (s.readGpr rs) (s.readGpr rt)) true))

/-- DIVU (R555); by zero, HI and LO become any value (D13). -/
def execDivu (rs rt : GprNum) (s : State) : Outcome State Fault Refusal :=
  finish (.done (if s.readGpr rt = 0 then s.freeHiLo true else s.putHiLo (quotientUnsigned (s.readGpr rs) (s.readGpr rt)) true))

/-! ## Moves of HI and LO -/

/-- MFHI (R556). -/
def execMfhi (rd : GprNum) (s : State) : Outcome State Fault Refusal := setReg rd s.hi { s with mduUnread := false }

/-- MFLO (R557). -/
def execMflo (rd : GprNum) (s : State) : Outcome State Fault Refusal := setReg rd s.lo { s with mduUnread := false }

/-- MTHI (R558); after an unread product or quotient LO becomes any value (U56). -/
def execMthi (rs : GprNum) (s : State) : Outcome State Fault Refusal :=
  finish (.done (if s.mduUnread then { s with hi := s.readGpr rs, lo := s.freeWord }.drawn else { s with hi := s.readGpr rs }))

/-- MTLO (R559); after an unread product or quotient HI becomes any value (U56). -/
def execMtlo (rs : GprNum) (s : State) : Outcome State Fault Refusal :=
  finish (.done (if s.mduUnread then { s with lo := s.readGpr rs, hi := s.freeWord }.drawn else { s with lo := s.readGpr rs }))

end Sys2Proof.Machine
end

