-- ==== Sys2Proof/Machine/System.lean ====
section
/-! DEFINITION. System: SYSCALL, BREAK, traps, CP0 moves, ERET, TLB instructions, CACHE, WAIT (spec R700 to R732). -/

namespace Sys2Proof.Machine

open Sys2Proof

/-! ## SYSCALL, BREAK, traps (R701 to R715) -/

/-- A trap instruction (R703). -/
def trapIf (c : Bool) (s : State) : Outcome State Fault Refusal := finish (if c then .exc .tr s else .done s)

/-- SYSCALL (R701). -/
def execSyscall (_code : BitVec 20) (s : State) : Outcome State Fault Refusal := finish (.exc .sys s)

/-- BREAK (R702). -/
def execBrk (_code : BitVec 20) (s : State) : Outcome State Fault Refusal := finish (.exc .bp s)

/-- TEQ (R704). -/
def execTeq (rs rt : GprNum) (_code : BitVec 10) (s : State) : Outcome State Fault Refusal :=
  trapIf (s.readGpr rs == s.readGpr rt) s

/-- TNE (R705). -/
def execTne (rs rt : GprNum) (_code : BitVec 10) (s : State) : Outcome State Fault Refusal :=
  trapIf (s.readGpr rs != s.readGpr rt) s

/-- TGE (R706). -/
def execTge (rs rt : GprNum) (_code : BitVec 10) (s : State) : Outcome State Fault Refusal :=
  trapIf ((s.readGpr rt).sle (s.readGpr rs)) s

/-- TGEU (R707). -/
def execTgeu (rs rt : GprNum) (_code : BitVec 10) (s : State) : Outcome State Fault Refusal :=
  trapIf ((s.readGpr rt).ule (s.readGpr rs)) s

/-- TLT (R708). -/
def execTlt (rs rt : GprNum) (_code : BitVec 10) (s : State) : Outcome State Fault Refusal :=
  trapIf ((s.readGpr rs).slt (s.readGpr rt)) s

/-- TLTU (R709). -/
def execTltu (rs rt : GprNum) (_code : BitVec 10) (s : State) : Outcome State Fault Refusal :=
  trapIf ((s.readGpr rs).ult (s.readGpr rt)) s

/-- TEQI (R710). -/
def execTeqi (rs : GprNum) (imm : BitVec 16) (s : State) : Outcome State Fault Refusal :=
  trapIf (s.readGpr rs == sext imm) s

/-- TNEI (R711). -/
def execTnei (rs : GprNum) (imm : BitVec 16) (s : State) : Outcome State Fault Refusal :=
  trapIf (s.readGpr rs != sext imm) s

/-- TGEI (R712). -/
def execTgei (rs : GprNum) (imm : BitVec 16) (s : State) : Outcome State Fault Refusal :=
  trapIf ((sext imm).sle (s.readGpr rs)) s

/-- TGEIU (R713). -/
def execTgeiu (rs : GprNum) (imm : BitVec 16) (s : State) : Outcome State Fault Refusal :=
  trapIf ((sext imm).ule (s.readGpr rs)) s

/-- TLTI (R714). -/
def execTlti (rs : GprNum) (imm : BitVec 16) (s : State) : Outcome State Fault Refusal :=
  trapIf ((s.readGpr rs).slt (sext imm)) s

/-- TLTIU (R715). -/
def execTltiu (rs : GprNum) (imm : BitVec 16) (s : State) : Outcome State Fault Refusal :=
  trapIf ((s.readGpr rs).ult (sext imm)) s

/-! ## CP0 moves and ERET (R716 to R718) -/

/-- MFC0 (R716). -/
def execMfc0 (rt : GprNum) (rd : BitVec 5) (sel : BitVec 3) (s : State) : Outcome State Fault Refusal :=
  finish (needCp0 s ((readCp0 rd sel s).andThen fun v s => .done (s.putGpr rt v)))

/-- MTC0 (R718). -/
def execMtc0 (rt : GprNum) (rd : BitVec 5) (sel : BitVec 3) (s : State) : Outcome State Fault Refusal :=
  finish (needCp0 s (.done (s.writeCp0 rd sel (s.readGpr rt))))

/-- ERET (R717); no delay slot, refused in one (R604, D26). -/
def execEret (s : State) : Outcome State Fault Refusal :=
  if !s.cp0Usable then finish (.exc .cpu s)
  else if s.slot ≠ .none then .refused .controlInDelaySlot
  else .next (returnFromException s)

/-! ## TLB instructions (R720 to R724) -/

/-- Index.Index. -/
def State.indexEntry (s : State) : Fin 16 := (fieldOf s.cp0.index 0 4 : BitVec 4).toFin

/-- TLBP (R720); with fixed mapping Index.P becomes 1 (D54). -/
def execTlbp (s : State) : Outcome State Fault Refusal :=
  finish (needCp0 s (if s.fixedMapping then
    .done { s with cp0 := { s.cp0 with index := putBit s.cp0.index 31 true } } else tlbProbe s))

/-- TLBR (R721); no effect with fixed mapping (D54). -/
def execTlbr (s : State) : Outcome State Fault Refusal :=
  finish (needCp0 s (.done (if s.fixedMapping then s else s.tlbRead s.indexEntry)))

/-- TLBWI (R722); no effect with fixed mapping (D54). -/
def execTlbwi (s : State) : Outcome State Fault Refusal :=
  finish (needCp0 s (if s.fixedMapping then .done s else tlbWrite s.indexEntry s))

/-- TLBWR (R723): any entry from Wired to 15 (D17); no effect with fixed mapping (D54). -/
def execTlbwr (s : State) : Outcome State Fault Refusal :=
  finish (needCp0 s (if s.fixedMapping then .done s else tlbWrite s.randomUse.cp0.random.toFin s.randomUse))

/-! ## CACHE, WAIT (R730, R731) -/

/-- The lines with one made invalid. -/
def State.dropLine (s : State) (n : Nat) : State :=
  { s with icache := s.icache.map fun l => if l.line = n then { l with valid := false } else l }

/-- The operation of CACHE at va (R730, D6): Index Invalidate, Hit Invalidate and Fill of the instruction cache. Hit Invalidate and
Fill translate as a load does: R730 says only that they may raise TLB exceptions (DESIGN CHOICE, log 21). -/
def cacheOp (op : BitVec 5) (va : Word) (s : State) : Res Unit :=
  if op = 0b00000 then .done (s.dropLine (lineOf va))
  else if op = 0b10000 then
    (translate va .load s).andThen fun t s =>
      .done (if (s.cacheLine (lineOf va)).holds t.1 then s.dropLine (lineOf va) else s)
  else if op = 0b10100 then (translate va .load s).andThen fun t s => refill (lineOf va) t.1 s
  else .done s

/-- CACHE (R730). -/
def execCache (base : GprNum) (op : BitVec 5) (offset : BitVec 16) (s : State) : Outcome State Fault Refusal :=
  finish (needCp0 s (cacheOp op (s.effAddr base offset) s))

/-- WAIT (R731); refused in a delay slot (R604, U58). -/
def execWait (_code : BitVec 19) (s : State) : Outcome State Fault Refusal :=
  finishControl (needCp0 s (.ok .nothing { s with waiting := true }))

end Sys2Proof.Machine
end

