-- ==== Sys2Proof/Machine/Hazard.lean ====
section
/-! DEFINITION. Hazard: the software rules that the `strict` profile enforces (spec R1230 to R1237, log 17). -/

namespace Sys2Proof.Machine

open Sys2Proof

/-! ## What an instruction reads -/

/-- The general registers an instruction reads (R1232). -/
def gprReads : Instr → List (BitVec 5)
  | .add rs rt _ => [rs, rt]
  | .addi rs _ _ => [rs]
  | .addiu rs _ _ => [rs]
  | .addu rs rt _ => [rs, rt]
  | .sub rs rt _ => [rs, rt]
  | .subu rs rt _ => [rs, rt]
  | .slt rs rt _ => [rs, rt]
  | .slti rs _ _ => [rs]
  | .sltiu rs _ _ => [rs]
  | .sltu rs rt _ => [rs, rt]
  | .andr rs rt _ => [rs, rt]
  | .andi rs _ _ => [rs]
  | .orr rs rt _ => [rs, rt]
  | .ori rs _ _ => [rs]
  | .xorr rs rt _ => [rs, rt]
  | .xori rs _ _ => [rs]
  | .norr rs rt _ => [rs, rt]
  | .lui _ _ => []
  | .sll rt _ _ => [rt]
  | .srl rt _ _ => [rt]
  | .sra rt _ _ => [rt]
  | .sllv rs rt _ => [rs, rt]
  | .srlv rs rt _ => [rs, rt]
  | .srav rs rt _ => [rs, rt]
  | .mult rs rt => [rs, rt]
  | .multu rs rt => [rs, rt]
  | .mul rs rt _ => [rs, rt]
  | .madd rs rt => [rs, rt]
  | .maddu rs rt => [rs, rt]
  | .msub rs rt => [rs, rt]
  | .msubu rs rt => [rs, rt]
  | .div rs rt => [rs, rt]
  | .divu rs rt => [rs, rt]
  | .mfhi _ => []
  | .mflo _ => []
  | .mthi rs => [rs]
  | .mtlo rs => [rs]
  | .clz rs _ _ => [rs]
  | .clo rs _ _ => [rs]
  | .movn rs rt _ => [rs, rt]
  | .movz rs rt _ => [rs, rt]
  | .movf rs _ _ => [rs]
  | .movt rs _ _ => [rs]
  | .j _ => []
  | .jal _ => []
  | .jr rs _ => [rs]
  | .jalr rs _ _ => [rs]
  | .beq rs rt _ => [rs, rt]
  | .bne rs rt _ => [rs, rt]
  | .blez rs _ => [rs]
  | .bgtz rs _ => [rs]
  | .bltz rs _ => [rs]
  | .bgez rs _ => [rs]
  | .bltzal rs _ => [rs]
  | .bgezal rs _ => [rs]
  | .beql rs rt _ => [rs, rt]
  | .bnel rs rt _ => [rs, rt]
  | .blezl rs _ => [rs]
  | .bgtzl rs _ => [rs]
  | .bltzl rs _ => [rs]
  | .bgezl rs _ => [rs]
  | .bltzall rs _ => [rs]
  | .bgezall rs _ => [rs]
  | .lb base _ _ => [base]
  | .lbu base _ _ => [base]
  | .lh base _ _ => [base]
  | .lhu base _ _ => [base]
  | .lw base _ _ => [base]
  | .lwl base rt _ => [base, rt]
  | .lwr base rt _ => [base, rt]
  | .sb base rt _ => [base, rt]
  | .sh base rt _ => [base, rt]
  | .sw base rt _ => [base, rt]
  | .swl base rt _ => [base, rt]
  | .swr base rt _ => [base, rt]
  | .ll base _ _ => [base]
  | .sc base rt _ => [base, rt]
  | .pref _ _ _ => []
  | .sync _ => []
  | .syscall _ => []
  | .brk _ => []
  | .teq rs rt _ => [rs, rt]
  | .tne rs rt _ => [rs, rt]
  | .tge rs rt _ => [rs, rt]
  | .tgeu rs rt _ => [rs, rt]
  | .tlt rs rt _ => [rs, rt]
  | .tltu rs rt _ => [rs, rt]
  | .teqi rs _ => [rs]
  | .tnei rs _ => [rs]
  | .tgei rs _ => [rs]
  | .tgeiu rs _ => [rs]
  | .tlti rs _ => [rs]
  | .tltiu rs _ => [rs]
  | .mfc0 _ _ _ => []
  | .eret => []
  | .mtc0 rt _ _ => [rt]
  | .tlbp => []
  | .tlbr => []
  | .tlbwi => []
  | .tlbwr => []
  | .cache base _ _ => [base]
  | .wait _ => []
  | .addS _ _ _ => []
  | .addD _ _ _ => []
  | .subS _ _ _ => []
  | .subD _ _ _ => []
  | .mulS _ _ _ => []
  | .mulD _ _ _ => []
  | .divS _ _ _ => []
  | .divD _ _ _ => []
  | .sqrtS _ _ => []
  | .sqrtD _ _ => []
  | .absS _ _ => []
  | .absD _ _ => []
  | .negS _ _ => []
  | .negD _ _ => []
  | .movS _ _ => []
  | .movD _ _ => []
  | .cvtSD _ _ => []
  | .cvtSW _ _ => []
  | .cvtDS _ _ => []
  | .cvtDW _ _ => []
  | .cvtWS _ _ => []
  | .cvtWD _ _ => []
  | .roundWS _ _ => []
  | .roundWD _ _ => []
  | .truncWS _ _ => []
  | .truncWD _ _ => []
  | .ceilWS _ _ => []
  | .ceilWD _ _ => []
  | .floorWS _ _ => []
  | .floorWD _ _ => []
  | .mfc1 _ _ => []
  | .mtc1 rt _ => [rt]
  | .cfc1 _ _ => []
  | .ctc1 rt _ => [rt]
  | .lwc1 base _ _ => [base]
  | .swc1 base _ _ => [base]
  | .ldc1 base _ _ => [base]
  | .sdc1 base _ _ => [base]
  | .movfS _ _ _ => []
  | .movfD _ _ _ => []
  | .movtS _ _ _ => []
  | .movtD _ _ _ => []
  | .movnS rt _ _ => [rt]
  | .movnD rt _ _ => [rt]
  | .movzS rt _ _ => [rt]
  | .movzD rt _ _ => [rt]
  | .bc1f _ _ => []
  | .bc1t _ _ => []
  | .bc1fl _ _ => []
  | .bc1tl _ _ => []
  | .cFS _ _ _ => []
  | .cFD _ _ _ => []
  | .cUnS _ _ _ => []
  | .cUnD _ _ _ => []
  | .cEqS _ _ _ => []
  | .cEqD _ _ _ => []
  | .cUeqS _ _ _ => []
  | .cUeqD _ _ _ => []
  | .cOltS _ _ _ => []
  | .cOltD _ _ _ => []
  | .cUltS _ _ _ => []
  | .cUltD _ _ _ => []
  | .cOleS _ _ _ => []
  | .cOleD _ _ _ => []
  | .cUleS _ _ _ => []
  | .cUleD _ _ _ => []
  | .cSfS _ _ _ => []
  | .cSfD _ _ _ => []
  | .cNgleS _ _ _ => []
  | .cNgleD _ _ _ => []
  | .cSeqS _ _ _ => []
  | .cSeqD _ _ _ => []
  | .cNglS _ _ _ => []
  | .cNglD _ _ _ => []
  | .cLtS _ _ _ => []
  | .cLtD _ _ _ => []
  | .cNgeS _ _ _ => []
  | .cNgeD _ _ _ => []
  | .cLeS _ _ _ => []
  | .cLeD _ _ _ => []
  | .cNgtS _ _ _ => []
  | .cNgtD _ _ _ => []

/-- The FPU registers an instruction reads (R1232). -/
def fgrReads : Instr → List (BitVec 5)
  | .add _ _ _ => []
  | .addi _ _ _ => []
  | .addiu _ _ _ => []
  | .addu _ _ _ => []
  | .sub _ _ _ => []
  | .subu _ _ _ => []
  | .slt _ _ _ => []
  | .slti _ _ _ => []
  | .sltiu _ _ _ => []
  | .sltu _ _ _ => []
  | .andr _ _ _ => []
  | .andi _ _ _ => []
  | .orr _ _ _ => []
  | .ori _ _ _ => []
  | .xorr _ _ _ => []
  | .xori _ _ _ => []
  | .norr _ _ _ => []
  | .lui _ _ => []
  | .sll _ _ _ => []
  | .srl _ _ _ => []
  | .sra _ _ _ => []
  | .sllv _ _ _ => []
  | .srlv _ _ _ => []
  | .srav _ _ _ => []
  | .mult _ _ => []
  | .multu _ _ => []
  | .mul _ _ _ => []
  | .madd _ _ => []
  | .maddu _ _ => []
  | .msub _ _ => []
  | .msubu _ _ => []
  | .div _ _ => []
  | .divu _ _ => []
  | .mfhi _ => []
  | .mflo _ => []
  | .mthi _ => []
  | .mtlo _ => []
  | .clz _ _ _ => []
  | .clo _ _ _ => []
  | .movn _ _ _ => []
  | .movz _ _ _ => []
  | .movf _ _ _ => []
  | .movt _ _ _ => []
  | .j _ => []
  | .jal _ => []
  | .jr _ _ => []
  | .jalr _ _ _ => []
  | .beq _ _ _ => []
  | .bne _ _ _ => []
  | .blez _ _ => []
  | .bgtz _ _ => []
  | .bltz _ _ => []
  | .bgez _ _ => []
  | .bltzal _ _ => []
  | .bgezal _ _ => []
  | .beql _ _ _ => []
  | .bnel _ _ _ => []
  | .blezl _ _ => []
  | .bgtzl _ _ => []
  | .bltzl _ _ => []
  | .bgezl _ _ => []
  | .bltzall _ _ => []
  | .bgezall _ _ => []
  | .lb _ _ _ => []
  | .lbu _ _ _ => []
  | .lh _ _ _ => []
  | .lhu _ _ _ => []
  | .lw _ _ _ => []
  | .lwl _ _ _ => []
  | .lwr _ _ _ => []
  | .sb _ _ _ => []
  | .sh _ _ _ => []
  | .sw _ _ _ => []
  | .swl _ _ _ => []
  | .swr _ _ _ => []
  | .ll _ _ _ => []
  | .sc _ _ _ => []
  | .pref _ _ _ => []
  | .sync _ => []
  | .syscall _ => []
  | .brk _ => []
  | .teq _ _ _ => []
  | .tne _ _ _ => []
  | .tge _ _ _ => []
  | .tgeu _ _ _ => []
  | .tlt _ _ _ => []
  | .tltu _ _ _ => []
  | .teqi _ _ => []
  | .tnei _ _ => []
  | .tgei _ _ => []
  | .tgeiu _ _ => []
  | .tlti _ _ => []
  | .tltiu _ _ => []
  | .mfc0 _ _ _ => []
  | .eret => []
  | .mtc0 _ _ _ => []
  | .tlbp => []
  | .tlbr => []
  | .tlbwi => []
  | .tlbwr => []
  | .cache _ _ _ => []
  | .wait _ => []
  | .addS ft fs _ => [fs, ft]
  | .addD ft fs _ => [fs, fs + 1, ft, ft + 1]
  | .subS ft fs _ => [fs, ft]
  | .subD ft fs _ => [fs, fs + 1, ft, ft + 1]
  | .mulS ft fs _ => [fs, ft]
  | .mulD ft fs _ => [fs, fs + 1, ft, ft + 1]
  | .divS ft fs _ => [fs, ft]
  | .divD ft fs _ => [fs, fs + 1, ft, ft + 1]
  | .sqrtS fs _ => [fs]
  | .sqrtD fs _ => [fs, fs + 1]
  | .absS fs _ => [fs]
  | .absD fs _ => [fs, fs + 1]
  | .negS fs _ => [fs]
  | .negD fs _ => [fs, fs + 1]
  | .movS fs _ => [fs]
  | .movD fs _ => [fs, fs + 1]
  | .cvtSD fs _ => [fs, fs + 1]
  | .cvtSW fs _ => [fs]
  | .cvtDS fs _ => [fs]
  | .cvtDW fs _ => [fs]
  | .cvtWS fs _ => [fs]
  | .cvtWD fs _ => [fs, fs + 1]
  | .roundWS fs _ => [fs]
  | .roundWD fs _ => [fs, fs + 1]
  | .truncWS fs _ => [fs]
  | .truncWD fs _ => [fs, fs + 1]
  | .ceilWS fs _ => [fs]
  | .ceilWD fs _ => [fs, fs + 1]
  | .floorWS fs _ => [fs]
  | .floorWD fs _ => [fs, fs + 1]
  | .mfc1 _ fs => [fs]
  | .mtc1 _ _ => []
  | .cfc1 _ _ => []
  | .ctc1 _ _ => []
  | .lwc1 _ _ _ => []
  | .swc1 _ ft _ => [ft]
  | .ldc1 _ _ _ => []
  | .sdc1 _ ft _ => [ft, ft + 1]
  | .movfS _ fs _ => [fs]
  | .movfD _ fs _ => [fs, fs + 1]
  | .movtS _ fs _ => [fs]
  | .movtD _ fs _ => [fs, fs + 1]
  | .movnS _ fs _ => [fs]
  | .movnD _ fs _ => [fs, fs + 1]
  | .movzS _ fs _ => [fs]
  | .movzD _ fs _ => [fs, fs + 1]
  | .bc1f _ _ => []
  | .bc1t _ _ => []
  | .bc1fl _ _ => []
  | .bc1tl _ _ => []
  | .cFS ft fs _ => [fs, ft]
  | .cFD ft fs _ => [fs, fs + 1, ft, ft + 1]
  | .cUnS ft fs _ => [fs, ft]
  | .cUnD ft fs _ => [fs, fs + 1, ft, ft + 1]
  | .cEqS ft fs _ => [fs, ft]
  | .cEqD ft fs _ => [fs, fs + 1, ft, ft + 1]
  | .cUeqS ft fs _ => [fs, ft]
  | .cUeqD ft fs _ => [fs, fs + 1, ft, ft + 1]
  | .cOltS ft fs _ => [fs, ft]
  | .cOltD ft fs _ => [fs, fs + 1, ft, ft + 1]
  | .cUltS ft fs _ => [fs, ft]
  | .cUltD ft fs _ => [fs, fs + 1, ft, ft + 1]
  | .cOleS ft fs _ => [fs, ft]
  | .cOleD ft fs _ => [fs, fs + 1, ft, ft + 1]
  | .cUleS ft fs _ => [fs, ft]
  | .cUleD ft fs _ => [fs, fs + 1, ft, ft + 1]
  | .cSfS ft fs _ => [fs, ft]
  | .cSfD ft fs _ => [fs, fs + 1, ft, ft + 1]
  | .cNgleS ft fs _ => [fs, ft]
  | .cNgleD ft fs _ => [fs, fs + 1, ft, ft + 1]
  | .cSeqS ft fs _ => [fs, ft]
  | .cSeqD ft fs _ => [fs, fs + 1, ft, ft + 1]
  | .cNglS ft fs _ => [fs, ft]
  | .cNglD ft fs _ => [fs, fs + 1, ft, ft + 1]
  | .cLtS ft fs _ => [fs, ft]
  | .cLtD ft fs _ => [fs, fs + 1, ft, ft + 1]
  | .cNgeS ft fs _ => [fs, ft]
  | .cNgeD ft fs _ => [fs, fs + 1, ft, ft + 1]
  | .cLeS ft fs _ => [fs, ft]
  | .cLeD ft fs _ => [fs, fs + 1, ft, ft + 1]
  | .cNgtS ft fs _ => [fs, ft]
  | .cNgtD ft fs _ => [fs, fs + 1, ft, ft + 1]

/-- The address of a data access, of CACHE too (R650, R730). -/
def dataAddr (i : Instr) (s : State) : Option Word :=
  match i with
  | .add _ _ _ => none
  | .addi _ _ _ => none
  | .addiu _ _ _ => none
  | .addu _ _ _ => none
  | .sub _ _ _ => none
  | .subu _ _ _ => none
  | .slt _ _ _ => none
  | .slti _ _ _ => none
  | .sltiu _ _ _ => none
  | .sltu _ _ _ => none
  | .andr _ _ _ => none
  | .andi _ _ _ => none
  | .orr _ _ _ => none
  | .ori _ _ _ => none
  | .xorr _ _ _ => none
  | .xori _ _ _ => none
  | .norr _ _ _ => none
  | .lui _ _ => none
  | .sll _ _ _ => none
  | .srl _ _ _ => none
  | .sra _ _ _ => none
  | .sllv _ _ _ => none
  | .srlv _ _ _ => none
  | .srav _ _ _ => none
  | .mult _ _ => none
  | .multu _ _ => none
  | .mul _ _ _ => none
  | .madd _ _ => none
  | .maddu _ _ => none
  | .msub _ _ => none
  | .msubu _ _ => none
  | .div _ _ => none
  | .divu _ _ => none
  | .mfhi _ => none
  | .mflo _ => none
  | .mthi _ => none
  | .mtlo _ => none
  | .clz _ _ _ => none
  | .clo _ _ _ => none
  | .movn _ _ _ => none
  | .movz _ _ _ => none
  | .movf _ _ _ => none
  | .movt _ _ _ => none
  | .j _ => none
  | .jal _ => none
  | .jr _ _ => none
  | .jalr _ _ _ => none
  | .beq _ _ _ => none
  | .bne _ _ _ => none
  | .blez _ _ => none
  | .bgtz _ _ => none
  | .bltz _ _ => none
  | .bgez _ _ => none
  | .bltzal _ _ => none
  | .bgezal _ _ => none
  | .beql _ _ _ => none
  | .bnel _ _ _ => none
  | .blezl _ _ => none
  | .bgtzl _ _ => none
  | .bltzl _ _ => none
  | .bgezl _ _ => none
  | .bltzall _ _ => none
  | .bgezall _ _ => none
  | .lb base _ offset => some (s.effAddr base offset)
  | .lbu base _ offset => some (s.effAddr base offset)
  | .lh base _ offset => some (s.effAddr base offset)
  | .lhu base _ offset => some (s.effAddr base offset)
  | .lw base _ offset => some (s.effAddr base offset)
  | .lwl base _ offset => some (s.effAddr base offset)
  | .lwr base _ offset => some (s.effAddr base offset)
  | .sb base _ offset => some (s.effAddr base offset)
  | .sh base _ offset => some (s.effAddr base offset)
  | .sw base _ offset => some (s.effAddr base offset)
  | .swl base _ offset => some (s.effAddr base offset)
  | .swr base _ offset => some (s.effAddr base offset)
  | .ll base _ offset => some (s.effAddr base offset)
  | .sc base _ offset => some (s.effAddr base offset)
  | .pref _ _ _ => none
  | .sync _ => none
  | .syscall _ => none
  | .brk _ => none
  | .teq _ _ _ => none
  | .tne _ _ _ => none
  | .tge _ _ _ => none
  | .tgeu _ _ _ => none
  | .tlt _ _ _ => none
  | .tltu _ _ _ => none
  | .teqi _ _ => none
  | .tnei _ _ => none
  | .tgei _ _ => none
  | .tgeiu _ _ => none
  | .tlti _ _ => none
  | .tltiu _ _ => none
  | .mfc0 _ _ _ => none
  | .eret => none
  | .mtc0 _ _ _ => none
  | .tlbp => none
  | .tlbr => none
  | .tlbwi => none
  | .tlbwr => none
  | .cache base op offset => if op = 0b10000 ∨ op = 0b10100 then some (s.effAddr base offset) else none
  | .wait _ => none
  | .addS _ _ _ => none
  | .addD _ _ _ => none
  | .subS _ _ _ => none
  | .subD _ _ _ => none
  | .mulS _ _ _ => none
  | .mulD _ _ _ => none
  | .divS _ _ _ => none
  | .divD _ _ _ => none
  | .sqrtS _ _ => none
  | .sqrtD _ _ => none
  | .absS _ _ => none
  | .absD _ _ => none
  | .negS _ _ => none
  | .negD _ _ => none
  | .movS _ _ => none
  | .movD _ _ => none
  | .cvtSD _ _ => none
  | .cvtSW _ _ => none
  | .cvtDS _ _ => none
  | .cvtDW _ _ => none
  | .cvtWS _ _ => none
  | .cvtWD _ _ => none
  | .roundWS _ _ => none
  | .roundWD _ _ => none
  | .truncWS _ _ => none
  | .truncWD _ _ => none
  | .ceilWS _ _ => none
  | .ceilWD _ _ => none
  | .floorWS _ _ => none
  | .floorWD _ _ => none
  | .mfc1 _ _ => none
  | .mtc1 _ _ => none
  | .cfc1 _ _ => none
  | .ctc1 _ _ => none
  | .lwc1 base _ offset => some (s.effAddr base offset)
  | .swc1 base _ offset => some (s.effAddr base offset)
  | .ldc1 base _ offset => some (s.effAddr base offset)
  | .sdc1 base _ offset => some (s.effAddr base offset)
  | .movfS _ _ _ => none
  | .movfD _ _ _ => none
  | .movtS _ _ _ => none
  | .movtD _ _ _ => none
  | .movnS _ _ _ => none
  | .movnD _ _ _ => none
  | .movzS _ _ _ => none
  | .movzD _ _ _ => none
  | .bc1f _ _ => none
  | .bc1t _ _ => none
  | .bc1fl _ _ => none
  | .bc1tl _ _ => none
  | .cFS _ _ _ => none
  | .cFD _ _ _ => none
  | .cUnS _ _ _ => none
  | .cUnD _ _ _ => none
  | .cEqS _ _ _ => none
  | .cEqD _ _ _ => none
  | .cUeqS _ _ _ => none
  | .cUeqD _ _ _ => none
  | .cOltS _ _ _ => none
  | .cOltD _ _ _ => none
  | .cUltS _ _ _ => none
  | .cUltD _ _ _ => none
  | .cOleS _ _ _ => none
  | .cOleD _ _ _ => none
  | .cUleS _ _ _ => none
  | .cUleD _ _ _ => none
  | .cSfS _ _ _ => none
  | .cSfD _ _ _ => none
  | .cNgleS _ _ _ => none
  | .cNgleD _ _ _ => none
  | .cSeqS _ _ _ => none
  | .cSeqD _ _ _ => none
  | .cNglS _ _ _ => none
  | .cNglD _ _ _ => none
  | .cLtS _ _ _ => none
  | .cLtD _ _ _ => none
  | .cNgeS _ _ _ => none
  | .cNgeD _ _ _ => none
  | .cLeS _ _ _ => none
  | .cLeD _ _ _ => none
  | .cNgtS _ _ _ => none
  | .cNgtD _ _ _ => none

/-- The coprocessor whose usability an instruction tests: some false for CP0, some true for the FPU (R700, R750). -/
def copTest : Instr → Option Bool
  | .add _ _ _ => none
  | .addi _ _ _ => none
  | .addiu _ _ _ => none
  | .addu _ _ _ => none
  | .sub _ _ _ => none
  | .subu _ _ _ => none
  | .slt _ _ _ => none
  | .slti _ _ _ => none
  | .sltiu _ _ _ => none
  | .sltu _ _ _ => none
  | .andr _ _ _ => none
  | .andi _ _ _ => none
  | .orr _ _ _ => none
  | .ori _ _ _ => none
  | .xorr _ _ _ => none
  | .xori _ _ _ => none
  | .norr _ _ _ => none
  | .lui _ _ => none
  | .sll _ _ _ => none
  | .srl _ _ _ => none
  | .sra _ _ _ => none
  | .sllv _ _ _ => none
  | .srlv _ _ _ => none
  | .srav _ _ _ => none
  | .mult _ _ => none
  | .multu _ _ => none
  | .mul _ _ _ => none
  | .madd _ _ => none
  | .maddu _ _ => none
  | .msub _ _ => none
  | .msubu _ _ => none
  | .div _ _ => none
  | .divu _ _ => none
  | .mfhi _ => none
  | .mflo _ => none
  | .mthi _ => none
  | .mtlo _ => none
  | .clz _ _ _ => none
  | .clo _ _ _ => none
  | .movn _ _ _ => none
  | .movz _ _ _ => none
  | .movf _ _ _ => some true
  | .movt _ _ _ => some true
  | .j _ => none
  | .jal _ => none
  | .jr _ _ => none
  | .jalr _ _ _ => none
  | .beq _ _ _ => none
  | .bne _ _ _ => none
  | .blez _ _ => none
  | .bgtz _ _ => none
  | .bltz _ _ => none
  | .bgez _ _ => none
  | .bltzal _ _ => none
  | .bgezal _ _ => none
  | .beql _ _ _ => none
  | .bnel _ _ _ => none
  | .blezl _ _ => none
  | .bgtzl _ _ => none
  | .bltzl _ _ => none
  | .bgezl _ _ => none
  | .bltzall _ _ => none
  | .bgezall _ _ => none
  | .lb _ _ _ => none
  | .lbu _ _ _ => none
  | .lh _ _ _ => none
  | .lhu _ _ _ => none
  | .lw _ _ _ => none
  | .lwl _ _ _ => none
  | .lwr _ _ _ => none
  | .sb _ _ _ => none
  | .sh _ _ _ => none
  | .sw _ _ _ => none
  | .swl _ _ _ => none
  | .swr _ _ _ => none
  | .ll _ _ _ => none
  | .sc _ _ _ => none
  | .pref _ _ _ => none
  | .sync _ => none
  | .syscall _ => none
  | .brk _ => none
  | .teq _ _ _ => none
  | .tne _ _ _ => none
  | .tge _ _ _ => none
  | .tgeu _ _ _ => none
  | .tlt _ _ _ => none
  | .tltu _ _ _ => none
  | .teqi _ _ => none
  | .tnei _ _ => none
  | .tgei _ _ => none
  | .tgeiu _ _ => none
  | .tlti _ _ => none
  | .tltiu _ _ => none
  | .mfc0 _ _ _ => some false
  | .eret => some false
  | .mtc0 _ _ _ => some false
  | .tlbp => some false
  | .tlbr => some false
  | .tlbwi => some false
  | .tlbwr => some false
  | .cache _ _ _ => some false
  | .wait _ => some false
  | .addS _ _ _ => some true
  | .addD _ _ _ => some true
  | .subS _ _ _ => some true
  | .subD _ _ _ => some true
  | .mulS _ _ _ => some true
  | .mulD _ _ _ => some true
  | .divS _ _ _ => some true
  | .divD _ _ _ => some true
  | .sqrtS _ _ => some true
  | .sqrtD _ _ => some true
  | .absS _ _ => some true
  | .absD _ _ => some true
  | .negS _ _ => some true
  | .negD _ _ => some true
  | .movS _ _ => some true
  | .movD _ _ => some true
  | .cvtSD _ _ => some true
  | .cvtSW _ _ => some true
  | .cvtDS _ _ => some true
  | .cvtDW _ _ => some true
  | .cvtWS _ _ => some true
  | .cvtWD _ _ => some true
  | .roundWS _ _ => some true
  | .roundWD _ _ => some true
  | .truncWS _ _ => some true
  | .truncWD _ _ => some true
  | .ceilWS _ _ => some true
  | .ceilWD _ _ => some true
  | .floorWS _ _ => some true
  | .floorWD _ _ => some true
  | .mfc1 _ _ => some true
  | .mtc1 _ _ => some true
  | .cfc1 _ _ => some true
  | .ctc1 _ _ => some true
  | .lwc1 _ _ _ => some true
  | .swc1 _ _ _ => some true
  | .ldc1 _ _ _ => some true
  | .sdc1 _ _ _ => some true
  | .movfS _ _ _ => some true
  | .movfD _ _ _ => some true
  | .movtS _ _ _ => some true
  | .movtD _ _ _ => some true
  | .movnS _ _ _ => some true
  | .movnD _ _ _ => some true
  | .movzS _ _ _ => some true
  | .movzD _ _ _ => some true
  | .bc1f _ _ => some true
  | .bc1t _ _ => some true
  | .bc1fl _ _ => some true
  | .bc1tl _ _ => some true
  | .cFS _ _ _ => some true
  | .cFD _ _ _ => some true
  | .cUnS _ _ _ => some true
  | .cUnD _ _ _ => some true
  | .cEqS _ _ _ => some true
  | .cEqD _ _ _ => some true
  | .cUeqS _ _ _ => some true
  | .cUeqD _ _ _ => some true
  | .cOltS _ _ _ => some true
  | .cOltD _ _ _ => some true
  | .cUltS _ _ _ => some true
  | .cUltD _ _ _ => some true
  | .cOleS _ _ _ => some true
  | .cOleD _ _ _ => some true
  | .cUleS _ _ _ => some true
  | .cUleD _ _ _ => some true
  | .cSfS _ _ _ => some true
  | .cSfD _ _ _ => some true
  | .cNgleS _ _ _ => some true
  | .cNgleD _ _ _ => some true
  | .cSeqS _ _ _ => some true
  | .cSeqD _ _ _ => some true
  | .cNglS _ _ _ => some true
  | .cNglD _ _ _ => some true
  | .cLtS _ _ _ => some true
  | .cLtD _ _ _ => some true
  | .cNgeS _ _ _ => some true
  | .cNgeD _ _ _ => some true
  | .cLeS _ _ _ => some true
  | .cLeD _ _ _ => some true
  | .cNgtS _ _ _ => some true
  | .cNgtD _ _ _ => some true

/-! ## Loads and stores of R1232 and R1233 -/

/-- The general register a load writes; GPR[0] holds no result. -/
def loadedGpr : Instr → Option (BitVec 5)
  | .lb _ rt _ | .lbu _ rt _ | .lh _ rt _ | .lhu _ rt _ | .lw _ rt _ | .lwl _ rt _ | .lwr _ rt _ | .ll _ rt _ =>
    if rt = 0 then none else some rt
  | _ => none

/-- The FPU registers a load writes. -/
def loadedFpr : Instr → List (BitVec 5)
  | .lwc1 _ ft _ => [ft]
  | .ldc1 _ ft _ => [ft, ft + 1]
  | _ => []

/-- Is an instruction a load of R1232? -/
def isLoad : Instr → Bool
  | .lb _ _ _ | .lbu _ _ _ | .lh _ _ _ | .lhu _ _ _ | .lw _ _ _ | .lwl _ _ _ | .lwr _ _ _ | .ll _ _ _
  | .lwc1 _ _ _ | .ldc1 _ _ _ => true
  | _ => false

/-- Is an instruction a store of R1233? -/
def isStore : Instr → Bool
  | .sb _ _ _ | .sh _ _ _ | .sw _ _ _ | .swl _ _ _ | .swr _ _ _ | .sc _ _ _ | .swc1 _ _ _ | .sdc1 _ _ _ => true
  | _ => false

/-! ## The window after a CP0 write (R1236) -/

/-- What an instruction changes in CP0 or the TLB; s is the state before it and t the state after it. -/
def cp0WriteOf (i : Instr) (s t : State) : Option Cp0Write :=
  match i with
  | .mtc0 _ rd sel =>
    if sel ≠ 0 then none
    else match rd.toNat with
      | 9 => some (if s.cp0.timerLatch then .reg 9 else .compare)
      | 10 => some (if s.asid = t.asid then .reg 10 else .entryHi)
      | 11 => some .compare
      | 12 => some (.status s.cp0.status)
      | 13 => some (.cause s.cp0.cause)
      | 16 => some .config
      | _ => some (.reg rd)
  | .eret => some (.status s.cp0.status)
  | .tlbwi | .tlbwr => some .tlb
  | _ => none

/-- Does an address go through the TLB (R430)? -/
def State.usesTlb (s : State) (va : Word) : Bool :=
  !s.fixedMapping && fieldOf va 29 3 != 4#3 && fieldOf va 29 3 != 5#3 && (isSet va 31 || !s.erl)

/-- The CP0 registers a TLB instruction reads (R720 to R723). -/
def tlbReads : Instr → List (BitVec 5)
  | .tlbp => [10]
  | .tlbr => [0]
  | .tlbwi => [0, 2, 3, 5, 10]
  | .tlbwr => [2, 3, 5, 6, 10]
  | _ => []

/-- The addresses of a step: the fetch and the data access. -/
def State.stepAddrs (s : State) (i : Instr) : List Word := s.pc :: (dataAddr i s).toList

/-- Does an instruction depend on a recent write (R1236)? -/
def dependsOn (i : Instr) (s : State) (w : Cp0Write) : Bool :=
  match w with
  | .tlb => (s.stepAddrs i).any s.usesTlb
  | .entryHi => (s.stepAddrs i).any s.usesTlb || (tlbReads i).contains 10
  | .status old =>
    let t := s.putStatus old
    (copTest i == some false && s.cp0Usable != t.cp0Usable) || (copTest i == some true && s.fpuUsable != t.fpuUsable) ||
    (s.userMode != t.userMode && (s.stepAddrs i).any fun a => isSet a 31)
  | .config => fieldOf s.pc 29 3 == 4#3 && cacheable s.cp0.k0
  | .reg n => (tlbReads i).contains n
  | .cause _ | .compare => false

/-- Does the fetch of an instruction depend on a recent write (R1236)? -/
def State.fetchDepends (s : State) (w : Cp0Write) : Bool :=
  match w with
  | .tlb | .entryHi => s.usesTlb s.pc
  | .status old => s.userMode != (s.putStatus old).userMode && isSet s.pc 31
  | .config => fieldOf s.pc 29 3 == 4#3 && cacheable s.cp0.k0
  | .reg _ | .cause _ | .compare => false

/-- A fetch that the `strict` profile refuses, also where it would raise an exception (R1236). -/
def fetchHazard (s : State) : Option Refusal :=
  if s.params.hazardProfile = .strict ∧ s.hazard.cp0Writes.any fun x => s.fetchDepends x.1 then some .hazardCp0 else none

/-- A fetched word that is no instruction and that the `strict` profile refuses: in a delay slot (R1231), or where a recent
write of Status decides which exception it raises (R1236). -/
def wordHazard (w : Word) (s : State) : Option Refusal :=
  let depends (x : Cp0Write) : Bool := match x with
    | .status old => undecodedExc w s != undecodedExc w (s.putStatus old)
    | _ => false
  if s.params.hazardProfile = .architectural then none
  else if s.slot ≠ .none then some .hazardDelaySlot
  else if s.hazard.cp0Writes.any fun x => depends x.1 then some .hazardCp0
  else none

/-- The address of CSR in kseg1 (R1237). -/
def csrAddress : Word := 0xB82F4008

/-- Does an instruction leave the straight line of the program: jumps, branches, ERET, WAIT, SYSCALL and BREAK? -/
def leavesLine : Instr → Bool
  | .j _ | .jal _ | .jr _ _ | .jalr _ _ _ | .beq _ _ _ | .bne _ _ _ | .blez _ _ | .bgtz _ _ | .bltz _ _ | .bgez _ _
  | .bltzal _ _ | .bgezal _ _ | .beql _ _ _ | .bnel _ _ _ | .blezl _ _ | .bgtzl _ _ | .bltzl _ _ | .bgezl _ _
  | .bltzall _ _ | .bgezall _ _ | .bc1f _ _ | .bc1t _ _ | .bc1fl _ _ | .bc1tl _ _ | .eret | .wait _ | .syscall _ | .brk _ => true
  | _ => false

/-- May an interrupt handler execute an instruction while it owes the duty of R1237: the store or the load the duty names, or one
that prepares it and neither accesses memory nor leaves the line (log 17)? -/
def FlushDuty.allows (d : FlushDuty) (i : Instr) (s : State) : Bool :=
  let prepares := (dataAddr i s).isNone && !leavesLine i
  match d, i with
  | .none, _ => true
  | .store, .sw base rt offset => s.effAddr base offset == csrAddress && isSet (s.readGpr rt) 12
  | .load, .lw base _ offset => s.effAddr base offset == csrAddress
  | _, _ => prepares

/-- What a handler owes to R1237 after an instruction executed in state s. -/
def FlushDuty.after (d : FlushDuty) (i : Instr) (s : State) : FlushDuty :=
  match d, i with
  | .store, .sw base rt offset =>
    if s.effAddr base offset = csrAddress ∧ isSet (s.readGpr rt) 12 then .load else .store
  | .load, .lw base _ offset => if s.effAddr base offset = csrAddress then .none else .load
  | d, _ => d

/-- What the `strict` profile refuses (R1231 to R1237); w is the fetched word. -/
def hazardOf (w : Word) (i : Instr) (s : State) : Option Refusal :=
  if s.params.hazardProfile = .architectural then none
  else if s.slot ≠ .none ∧ w ≠ 0 then some .hazardDelaySlot
  else if (gprReads i).any (fun r => s.hazard.loadedGpr == some r) || (fgrReads i).any s.hazard.loadedFpr.contains then
    some .hazardLoadUse
  else if s.hazard.stored && isLoad i then some .hazardStoreLoad
  else if s.hazard.cp0Writes.any fun x => dependsOn i s x.1 then some .hazardCp0
  else if !s.hazard.flush.allows i s then some .hazardFlush
  else none

/-- The recent CP0 writes one instruction later. -/
def ageWrites (l : List (Cp0Write × Nat)) : List (Cp0Write × Nat) :=
  l.filterMap fun x => if x.2 ≤ 1 then none else some (x.1, x.2 - 1)

/-- A recent write after bits of Status were changed by the hardware: the old Status it remembers takes them too, so that it differs
from Status only where the write made a difference. -/
def Cp0Write.withBits (mask v : Word) : Cp0Write → Cp0Write
  | .status old => .status (mergeBits mask v old)
  | w => w

/-- The recent writes of s in a state t that the hardware made from s by an exception. -/
def State.carriedWrites (t s : State) : List (Cp0Write × Nat) :=
  s.hazard.cp0Writes.map fun x => (x.1.withBits (t.cp0.status ^^^ s.cp0.status) t.cp0.status, x.2)

/-- The duties that wait after a handler is left at pc by an entry of another kind or level: R1237 binds interrupt handlers alone. -/
def HazardTrack.suspend (h : HazardTrack) (pc : Word) : List (Word × FlushDuty) :=
  let rest := h.owed.filter (·.1 != pc)
  if h.flush = .none then rest else (pc, h.flush) :: rest

/-- The duty taken up again where ERET returns into its handler, at the instruction it was left at or the next one (log 17). -/
def HazardTrack.resume (h : HazardTrack) (pc : Word) : HazardTrack :=
  match h.owed.find? fun x => pc == x.1 || pc == x.1 + 4 with
  | some x => { h with flush := x.2, owed := h.owed.filter (·.1 != x.1) }
  | none => h

/-- What a handler that is entered without an instruction takes over: the load or store before the entry is the one directly before the
first instruction of the handler (R1232, R1233). -/
def HazardTrack.lastAccess (h : HazardTrack) : HazardTrack :=
  { HazardTrack.clear with loadedGpr := h.loadedGpr, loadedFpr := h.loadedFpr, stored := h.stored }

/-- The tracking at an entry that turns state s into t: the load or store of `last`, the CP0 writes, and the flush duty that waits. -/
def State.trackEntry (t s : State) (last : HazardTrack) (writes : List (Cp0Write × Nat)) : State :=
  if t.params.hazardProfile = .architectural then t
  else { t with hazard := { last with cp0Writes := writes, owed := s.hazard.suspend s.pc } }

/-- The tracking after an exception raised by the instruction of state s, which is the one before the handler and neither loads nor
stores. It counts as one of the three of R1236 (log 17). -/
def State.trackExc (t s : State) : State := t.trackEntry s .clear (ageWrites (t.carriedWrites s))

/-- The tracking after an exception of the fetch in state s: no instruction was executed, so that a load or store before it is directly
before the handler (R1232, R1233), while the fetch counts as one of the three of R1236 (log 17). -/
def State.trackFetchExc (t s : State) : State := t.trackEntry s s.hazard.lastAccess (ageWrites (t.carriedWrites s))

/-- The tracking after the entry of an NMI in state s: no instruction was executed (R1232, R1233, R1236). -/
def State.trackNmi (t s : State) : State := t.trackEntry s s.hazard.lastAccess (t.carriedWrites s)

/-- The tracking after an instruction: s is the state before it and t the state after it. Nothing is tracked under the
`architectural` profile. -/
def State.track (t : State) (i : Instr) (s : State) : State :=
  if t.params.hazardProfile = .architectural then t
  else if t.excTaken then t.trackExc s
  else
    let h : HazardTrack :=
      { loadedGpr := loadedGpr i, loadedFpr := loadedFpr i, stored := isStore i, flush := s.hazard.flush.after i s
        cp0Writes := ((cp0WriteOf i s t).map fun w => (w, 3)).toList ++ ageWrites s.hazard.cp0Writes, owed := s.hazard.owed }
    { t with hazard := if i = .eret then h.resume t.pc else h }

/-! ## Interrupts behind a CP0 write (R1236) -/

/-- s with a recent write undone, as far as the request of an interrupt sees it. -/
def State.withOld (s : State) : Cp0Write → State
  | .status old => s.putStatus old
  | .cause old => { s with cp0 := { s.cp0 with cause := mergeBits 0x300 old s.cp0.cause } }
  | .compare => { s with cp0 := { s.cp0 with timerLatch := false } }
  | _ => s

/-- May the recognition of a requested interrupt be late: the request rests on a write that stands at the first or second boundary
behind it; at the third boundary the interrupt is recognised (R1236). -/
def State.mayDelayInterrupt (s : State) : Bool :=
  s.params.hazardProfile == .strict &&
  s.hazard.cp0Writes.any fun x => decide (2 ≤ x.2) && !(s.withOld x.1).interruptRequest

/-- The tracking at the entry of an interrupt handler, which executes no instruction (R1232, R1233): the handler owes the flush of
R1237, and Status.EXL is set by the hardware. -/
def State.enterHandler (s : State) : State :=
  if s.params.hazardProfile = .architectural then s
  else
    let h : HazardTrack :=
      { s.hazard.lastAccess with
        cp0Writes := s.hazard.cp0Writes.map fun x => (x.1.withBits 2 2, x.2), flush := .store, owed := s.hazard.suspend s.pc }
    { s with hazard := h }

end Sys2Proof.Machine
end

