-- ==== Sys2Proof/Machine/Agents.lean ====
section
/-! DEFINITION. Agents: the moves of everything but the CPU's instructions: CLK ticks, pins, ports, DMA, DSP, reset (spec R1050
to R1052, R1060 to R1070, R1186, R1200 to R1206; log 13, log 14). -/

namespace Sys2Proof.Machine

open Sys2Proof

/-! ## Time -/

/-- The clock of the MFBSP ports (R183, R184, C24). -/
def State.mfbspClock (s : State) : Bool := isSet s.sys.clkEn 8

/-- The timers of the core clock in one CLK tick (R1050, R1060, R1066, R1070). -/
def coreTick (s : State) : State :=
  if s.sys.coreClockOn then
    { s with cp0 := s.cp0.tick, itimer := s.itimer.tick, uart := s.uart.tick s.clk }.putWdt s.wdt.tick
  else s

/-- The input samplers of the MFBSP ports in one CLK tick (R358). -/
def portTick (s : State) : State :=
  { s with mfbsp := Vector.ofFn fun p : Fin 4 => if s.mfbspClock then s.mfbsp[p].tick else s.mfbsp[p] }

/-! RTCXTI (R1051, D31): its period is `rttSpan` parts, of which each CLK tick takes f_RTCXTI / f_CLK; a tick of RTCXTI is due when
`rttGap` has reached the period, and none is later than the CLK tick after that. f_RTCXTI above f_CLK / 7 counts as f_CLK / 7. A store
to CR_PLL leaves the part of the period that has passed as it is, so that only the ratio changes (R1187). -/

/-- f_CLK (R182): XTI by the multiplier of CR_PLL.CLK_SEL_CORE, code 0 dividing by 16, or XTI itself with PLL_EN = 0. A store to
CR_PLL changes it at once (R1187 says within 2 ms; DESIGN CHOICE, log 14). -/
def State.fClk (s : State) : Nat :=
  let code : BitVec 5 := fieldOf s.sys.crPll 0 5
  if !s.params.pllEnPin then 16 * s.params.fXti else if code = 0 then s.params.fXti else 16 * code.toNat * s.params.fXti

/-- f_CLK as it counts for RTCXTI: at least seven times f_RTCXTI (D31). -/
def State.rttClk (s : State) : Nat := max s.fClk (7 * s.params.fRtc)

/-- The parts of a period of RTCXTI: a multiple of every f_CLK that CR_PLL can choose; the last factor is a multiple of all the
multipliers 1 to 31 (R182). -/
def rttSpan (p : Params) : Nat := 7 * p.fRtc * (16 * max 1 p.fXti * 72201776446800)

/-- The parts that a CLK tick takes of the period. -/
def State.rttPart (s : State) : Nat := s.params.fRtc * (rttSpan s.params / s.rttClk)

/-- Is an RTCXTI tick due? -/
def State.rttDue (s : State) : Bool := s.params.fRtc != 0 && decide (rttSpan s.params ≤ s.rttGap)

/-- One RTCXTI tick (R1065), enabled when it is due. -/
def rttTick (s : State) : State :=
  if s.rttDue then { s with rtimer := s.rtimer.tick, rttGap := s.rttGap - rttSpan s.params } else s

/-- One CLK tick (R1051), behind an RTCXTI tick that is due. -/
def clkTick (s : State) : State :=
  let s := rttTick s
  { portTick (coreTick s) with clk := s.clk + 1, rttGap := s.rttGap + s.rttPart }

/-- The end of a step of the CPU: the marks of one step are cleared, and SDRAM comes nearer to its use after EXIT (R1238). -/
def State.endStep (s : State) : State :=
  { s with excTaken := false, between := [], mport := { s.mport with sdrWait := s.mport.sdrWait - 1 } }

/-! ## Pins (R1052) -/

/-- The slaves of the switch that the fetch at PC reaches: one that the cache does not answer, over the switch (R1055). -/
def State.fetchSlaves (s : State) : List Slave :=
  match translate s.pc .fetch s with
  | .ok (pa, cached) _ => if cached && !s.cacheMisses s.pc pa then [] else cpuReach pa
  | _ => []

/-- The NOP behind the store that stopped the core clock, executed with the clock on again (R1186). Values would depend on another
word standing there, so that is outside the model's domain (R1238). -/
def execWakeNop (s : State) : Res Unit :=
  match fetchHazard s with
  | some r => .refuse r
  | none =>
    match fetch s with
    | .ok w u => if w = 0 then .done (clkTick ((u.advance.track (.sll 0 0 0) u).endStep)) else .refuse .clockOffNoNop
    | .exc _ _ => .refuse .clockOffNoNop
    | .fault f => .fault f
    | .refuse r => .refuse r

/-- The core clock switched on again: the CPU executes the NOP behind the store which stopped it and resumes after it (R1186). A burst
that holds the slave of its fetch ends first (R1055, log 13). -/
def State.wakeCore (s : State) : Res Unit :=
  if s.sys.coreClockOn then .done s
  else
    (finishBursts 256 s.fetchSlaves s).andThen fun _ s =>
      execWakeNop { s with sys := { s.sys with coreClockOn := true, clkEn := putBit s.sys.clkEn 0 true } }

/-- Levels of nIRQ: falling edges are latched in edge mode (R196), an active level wakes the core (R1186, D58). -/
def setIrqPins (v : BitVec 4) (s : State) : Res Unit :=
  let edges := s.sys.nIrq &&& ~~~v &&& s.sys.irqMode
  let s := { s with sys := { s.sys with nIrq := v, irqLatch := s.sys.irqLatch ||| edges } }
  if v ≠ 0xF then s.wakeCore else .done s

/-- Level of NMI: a rising edge requests the exception and wakes the core (R69, R957, R1186). -/
def setNmiPin (v : Bool) (s : State) : Res Unit :=
  let rising := v && !s.sys.nmiPin
  let s := { s with sys := { s.sys with nmiPin := v }, nmiPending := s.nmiPending || rising }
  if rising then s.wakeCore else .done s

/-- Falling edges of nDMAR remembered by the MEM channels with MASK = 1 and their clock on (R1125, R1185). -/
def setDmarPins (v : BitVec 4) (s : State) : State :=
  let edges := s.sys.nDmar &&& ~~~v
  let note (c : Fin 16) : DmaChannel :=
    let ch := s.channel c
    let noted := isMemChannel c && isSet ch.csr 10 && s.dmaClock c && isSet edges (channelNumber c).val
    if noted then { ch with dmarEdge := true } else ch
  { s with sys := { s.sys with nDmar := v }, dma := { s.dma with channels := Vector.ofFn note } }

/-! ## Reset (R1200 to R1206) -/

/-- Hardware reset of a running chip: the reset state, but memories, their injected errors, the levels of the pins, the host's
streams and parameters stay; SDRAM loses its data, whichever chip select its addresses fall to later (R1206, log 13), and a high LCLK
or LACK shows at once (R366). -/
def hardwareReset (s : State) : State :=
  { State.reset with
    mem := s.mem
    checkBits := s.checkBits
    ecc := { Ecc.reset with faults := s.ecc.faults }
    sys := { Sys.reset with nIrq := s.sys.nIrq, nDmar := s.sys.nDmar, nmiPin := s.sys.nmiPin }
    mfbsp := Vector.ofFn fun p : Fin 4 => { Mfbsp.reset with pins := s.mfbsp[p].pins }.noteService
    dma := { Dma.reset with flyIn := s.dma.flyIn }
    mport := { Mport.reset with sdrLost := s.mport.loseSdr.sdrLost }
    params := s.params
    moves := s.moves
    freeCtr := s.freeCtr }

/-! ## Moves (R1050) -/

/-- The clock of a SWIC (R184). -/
def State.swicClock (s : State) (n : Bool) : Bool := isSet s.sys.clkEn (if n then 25 else 24)

/-- A change of a port whose clock is on and which is not in the forbidden mode (U52). -/
def portMoveOn (p : BitVec 2) (f : Mfbsp → Mfbsp) (s : State) : Res Unit :=
  let p : Fin 4 := p.toFin
  if !s.mfbspClock then .done s
  else if s.mfbsp[p].clash then .fault .mfbspModeClash
  else .done (s.putMfbsp p (f s.mfbsp[p]))

/-- One move of an agent; a move that is not enabled changes nothing. -/
def agentMove (m : Move) (s : State) : Res Unit :=
  match m with
  | .clk => .done (clkTick s)
  | .rtt => .done (rttTick s)
  | .sdrDone => .done (if s.sys.coreClockOn then { s with mport := s.mport.sdrComplete } else s)
  | .dma c => dmaMove c s
  | .between l => .done { s with between := l }
  | .dsp i => if s.dsp.inFlight.isSome then .done s else dspStep i s
  | .dspBegin i => .done (dspBegin i s)
  | .dspEnd => dspEnd s
  | .uartStart => .done (if s.sys.coreClockOn then { s with uart := s.uart.lineStart } else s)
  | .uartRx c waits => .done (if s.sys.coreClockOn then { s with uart := s.uart.lineReceive c waits } else s)
  | .swicIn n e => .done (if s.swicClock n then s.putSwic n ((s.swic n).event e) else s)
  | .swicTx n => .done (if s.swicClock n then s.putSwic n ((s.swic n).transmit s.clk) else s)
  | .mfbspTxStart p => portMoveOn p (fun m => m.startTransmit s.freeWord) s.drawn
  | .mfbspRxStart p => portMoveOn p Mfbsp.startReceive s
  | .mfbspTx p => portMoveOn p (fun m => m.transmit s.clk s.freeWord) s.drawn
  | .mfbspRx p w => portMoveOn p (fun m => m.receive w s.freeWord) s.drawn
  | .mfbspBad p => portMoveOn p Mfbsp.badWord s
  | .mfbspPins p v => .done (s.putMfbsp p.toFin (s.mfbsp[p.toFin].setPins v))
  | .nIrq v => setIrqPins v s
  | .nmi v => setNmiPin v s
  | .nDmar v => .done (setDmarPins v s)
  | .flyIn n w => .done { s with dma := { s.dma with flyIn := s.dma.flyIn.set n.toFin (s.dma.flyIn[n.toFin] ++ [w]) } }
  | .eccFault f => .done { s with ecc := { s.ecc with faults := s.ecc.faults ++ [f] } }
  | .cacheFault f => .done { s with ecc := { s.ecc with cacheFaults := s.ecc.cacheFaults ++ [f] } }
  | .reset => .done (hardwareReset s)

end Sys2Proof.Machine
end

