-- ==== Sys2Proof/Machine/Run.lean ====
section
/-! DEFINITION. Run: one step of the CPU: NMI, waiting, interrupts, fetch, decode, execute, and the CLK tick that follows (spec
R520, R600, R990, R1050, R1051; log 14, log 16). -/

namespace Sys2Proof.Machine

open Sys2Proof

/-- A fetched word executed: the exception of a word that is no instruction (R495), else its meaning, within what the `strict`
profile allows. -/
def execWord (w : Word) (s : State) : Outcome State Fault Refusal :=
  match decode w with
  | .error _ =>
    match wordHazard w s with
    | some r => .refused r
    | none => .next ((takeException (undecodedExc w s) s).trackExc s)
  | .ok i =>
    match hazardOf w i s with
    | some r => .refused r
    | none =>
      match exec i s with
      | .next t => .next (t.track i s)
      | .fault f => .fault f
      | .refused r => .refused r

/-- Fetch, decode, execute (R520, R600). -/
def runInstr (s : State) : Outcome State Fault Refusal :=
  match fetchHazard s with
  | some r => .refused r
  | none =>
    match fetch s with
    | .ok w s => execWord w s
    | .exc e s => .next ((takeException e s).trackFetchExc s)
    | .fault f => .fault f
    | .refuse r => .refused r

/-- A step at which an interrupt is requested (R990): the exception the instruction at PC raises, if any, else the
interrupt, also in front of an instruction the model would stop on. -/
def runInterrupt (s : State) : Outcome State Fault Refusal :=
  match runInstr s with
  | .next t => .next (if t.excTaken then t else takeException .int s.enterHandler)
  | _ => .next (takeException .int s.enterHandler)

/-- Is an interrupt taken at this boundary? Under `strict` recognition may be late (R1236). -/
def State.interruptNow (s : State) : Bool := s.interruptRequest && (!s.mayDelayInterrupt || s.freeBit)

/-- The head of a step (R990), with `excTaken` cleared. -/
def runCpu (s : State) : Outcome State Fault Refusal :=
  if s.nmiPending then .next ((takeNmi s).trackNmi s)
  else if s.waiting && !s.maskedRequest then .next s
  else
    let s := { s with waiting := false, excTaken := false }
    let t := if s.mayDelayInterrupt && s.interruptRequest then s.drawn else s
    if s.interruptNow then runInterrupt t else runInstr t

/-- The slaves of the switch that the next step of the CPU reaches: a fetch that the cache does not answer, and a data access;
CRAM is reached over the CPU's own bus (R1055). A waiting CPU and the entry of an NMI reach none. -/
def State.cpuSlaves (s : State) : List Slave :=
  let data : List Slave := match fetch s with
    | .ok w _ => match decode w with
      | .ok i => match (dataAddr i s).map fun va => translate va .load s with
        | some (.ok (pa, _) _) => cpuReach pa
        | _ => []
      | .error _ => []
    | _ => []
  if s.nmiPending || (s.waiting && !s.maskedRequest) then [] else s.fetchSlaves ++ data

/-- The CLK tick after a step of the CPU (R1051, log 14). -/
def afterCpu (r : Outcome State Fault Refusal) : Outcome State Fault Refusal :=
  match r with
  | .next s => .next (clkTick s.endStep)
  | .fault f => .fault f
  | .refused x => .refused x

/-- The move of an agent as an outcome; agents raise no CPU exception. -/
def agentOutcome (r : Res Unit) : Outcome State Fault Refusal :=
  match r with
  | .ok _ s => .next s
  | .exc _ s => .next s
  | .fault f => .fault f
  | .refuse x => .refused x

/-- A step of the CPU. It waits while a burst of a DMA channel holds a slave it needs, and that burst moves on instead (R1055).
With the core clock off only an active nIRQ level moves it (R1186). -/
def cpuStep (s : State) : Outcome State Fault Refusal :=
  if s.sys.coreClockOn then
    match s.burstAhead s.cpuSlaves with
    | some c => agentOutcome (dmaMove (BitVec.ofFin c) s)
    | none => afterCpu (runCpu s)
  else if s.sys.nIrq ≠ 0xF then agentOutcome s.wakeCore
  else .next s

/-- One step of the chip (R1050, R1051): the next move of the schedule, or a step of the CPU when the schedule names none. -/
def runStep (s : State) : Outcome State Fault Refusal :=
  match s.moves with
  | m :: rest => agentOutcome (agentMove m { s with moves := rest })
  | [] => cpuStep s

/-- Bytes stored from an address up. -/
def placeBytes (m : List Cell) (a : Nat) : List Byte → List Cell
  | [] => m
  | b :: rest => placeBytes (Memory.write m a b) (a + 1) rest

/-- The physical address the next fetch of the state after reset reads. -/
def fetchHome : Nat := 0x1FC00000

/-- A program word placed where the next step of s fetches it: s made to execute at the reset vector, with no other move in
front (log 15). -/
def State.placeWord (s : State) (w : Word) : State :=
  { s with
    mem := placeBytes s.mem fetchHome (wordBytes w)
    pc := 0xBFC00000
    slot := .none
    waiting := false
    nmiPending := false
    moves := [] }

end Sys2Proof.Machine
end

