-- ==== Sys2Proof/Machine/Step.lean ====
section
/-! DEFINITION. Step: the step of the machine and the placing of an instruction for the next fetch (log 15). -/

namespace Sys2Proof.Machine

open Sys2Proof

/-- One step of the chip. -/
def step (s : State) : Outcome State Fault Refusal := runStep s

/-- s with an instruction stored where the next step fetches (log 15). -/
def State.withFetchWord (s : State) (nbits w : Nat) : State := s.placeWord (tableWord nbits w)

end Sys2Proof.Machine
end

