-- ==== Sys2Proof/Machine/Ending.lean ====
section
/-! DEFINITION. Ending: when a run of the chip has ended (spec R1056, D57), and which runs are fair (R1050, R1240). -/

namespace Sys2Proof.Machine

open Sys2Proof

/-! ## Quiet devices (R1056, D57) -/

/-- May a DMA channel move: a burst or a parameter block is pending, or it is ready for a new burst (R1111)? -/
def State.channelWorks (s : State) (c : Fin 16) : Bool :=
  let ch := s.channel c
  ch.moving || (s.dmaClock c && (ch.loadPending || if isMemChannel c then s.memReady c else s.portMayMove c))

/-- Has the UART characters to send? -/
def Uart.works (u : Uart) : Bool := u.divisor != 0 && (!u.txFifo.isEmpty || u.txSr.isSome)
/-- Has a SWIC something to send? -/
def Swic.works (w : Swic) : Bool := w.inRun && (w.flControl || !w.txFifo.isEmpty || (w.txType.isSome && w.txByte == 0))
/-- Has an MFBSP port words queued? -/
def Mfbsp.queued (m : Mfbsp) : Bool :=
  m.on && !m.clash && (!m.txWords.isEmpty || !m.txSync.isEmpty || m.txHalf.isSome || m.txShift.isSome)
/-- Can an MFBSP port send of its own: with its own clock and frame, or as long as the far end of a link keeps LACK high (R1180,
R1181)? -/
def Mfbsp.works (m : Mfbsp) : Bool :=
  m.queued && (m.txShift.isSome || (if m.serial then isSet m.tctr 0 && m.ownTx else m.ltran && isSet m.pins 0))

/-- Has no device work pending: DMA, DSP, SDRAM commands, queued output of the ports? -/
def State.devicesQuiet (s : State) : Bool :=
  ((List.finRange 16).all fun c => !s.channelWorks c) && !s.dspRunning && !(s.sys.coreClockOn && s.mport.sdrBusy) &&
  !(s.sys.coreClockOn && s.uart.works) && !(s.swicClock false && s.swic0.works) && !(s.swicClock true && s.swic1.works) &&
  !(s.mfbspClock && s.mfbsp.toList.any Mfbsp.queued)

/-! ## Stopping conditions (R1056) -/

/-- Is a move the host's: an input from outside, which comes only if the schedule names it? -/
def Move.fromHost : Move → Bool
  | .between _ | .uartStart | .uartRx _ _ | .swicIn _ _ | .mfbspRxStart _ | .mfbspRx _ _ | .mfbspBad _ | .mfbspPins _ _ | .nIrq _
  | .nmi _ | .nDmar _ | .flyIn _ _ | .eccFault _ | .cacheFault _ | .reset => true
  | .clk | .rtt | .sdrDone | .dma _ | .dsp _ | .dspBegin _ | .dspEnd | .swicTx _ | .mfbspTxStart _ | .mfbspTx _ => false

/-- The states that a waiting chip can come to without a CPU step: by moves of its agents, and by the schedule. -/
inductive ComesTo : State → State → Prop where
  | refl (s : State) : ComesTo s s
  | agent {s t u : State} (m : Move) (h : m.fromHost = false) (hm : agentOutcome (agentMove m s) = .next t) (hu : ComesTo t u) :
      ComesTo s u
  | schedule {s t u : State} (h : s.moves ≠ []) (hm : runStep s = .next t) (hu : ComesTo t u) : ComesTo s u

/-- Condition (a): the CPU waits, and no interrupt source that Status and the mask registers enable can still fire, nor an NMI, nor
a reset come. -/
def State.waitsForEver (s : State) : Prop :=
  s.waiting = true ∧ ∀ t, ComesTo s t → t.waiting = true ∧ t.maskedRequest = false ∧ t.nmiPending = false

/-- An event of the pins nIRQ or NMI, or a reset, stands in the schedule. -/
def Move.wakes : Move → Bool
  | .nIrq _ | .nmi _ | .reset => true
  | _ => false

/-- Condition (b): the core clock is off and no pin event follows. -/
def State.clockOffForEver (s : State) : Bool := !s.sys.coreClockOn && s.sys.nIrq == 0xF && !s.moves.any Move.wakes

/-- The run has ended: condition (a), (b), or (c) the PC a host names is reached; and the devices are quiet. -/
def State.ended (s : State) (stop : Option Word) : Prop :=
  s.devicesQuiet = true ∧ (s.waitsForEver ∨ s.clockOffForEver = true ∨ stop = some s.pc)

/-! ## Agents and fairness (R1050, R1240) -/

/-- The agents of R1050; `time` delivers the CLK ticks of IT, WDT and Count. -/
inductive Agent where
  | cpu
  | dsp
  | dma (c : BitVec 4)
  | time
  | rtt
  | sdram
  | uart
  | swic (n : Bool)
  | mfbsp (p : BitVec 2)
  | host
  deriving DecidableEq, Repr

/-- The agent of a move. -/
def Move.agent : Move → Agent
  | .clk => .time
  | .rtt => .rtt
  | .sdrDone => .sdram
  | .dma c => .dma c
  | .dsp _ | .dspBegin _ | .dspEnd => .dsp
  | .uartStart | .uartRx _ _ => .uart
  | .swicIn n _ | .swicTx n => .swic n
  | .mfbspTxStart p | .mfbspRxStart p | .mfbspTx p | .mfbspRx p _ | .mfbspBad p => .mfbsp p
  | .between _ | .mfbspPins _ _ | .nIrq _ | .nmi _ | .nDmar _ | .flyIn _ _ | .eccFault _ | .cacheFault _ | .reset => .host

/-- Is an agent enabled (R1050)? Ports are while they can send; what arrives is the host's. -/
def State.enabled (s : State) : Agent → Bool
  | .cpu => s.sys.coreClockOn && (!s.waiting || s.maskedRequest || s.nmiPending)
  | .dsp => s.dspRunning
  | .dma c => s.channelWorks c.toFin
  | .time => s.sys.coreClockOn
  | .rtt => s.rttDue
  | .sdram => s.sys.coreClockOn && s.mport.sdrBusy
  | .uart => s.sys.coreClockOn && s.uart.works
  | .swic n => s.swicClock n && (s.swic n).works
  | .mfbsp p => s.mfbspClock && s.mfbsp[p.toFin].works
  | .host => false

/-- The agents that a CLK tick moves, also the tick that a CPU step brings: `time`, and the UART, whose transmitter it drives (R1051,
R1170). -/
def ticks : Agent → Bool
  | .time | .uart => true
  | _ => false

/-- An agent takes the chip from s to t. -/
def MovedBy (a : Agent) (s t : State) : Prop :=
  ((a = .cpu ∨ (ticks a = true ∧ t.clk = s.clk + 1)) ∧ cpuStep s = .next t) ∨
    ∃ m : Move, (m.agent = a ∨ (m = .clk ∧ ticks a = true)) ∧ agentOutcome (agentMove m s) = .next t

/-- What a move of an agent does for that agent: a CPU step that no burst holds off (R1055), a tick delivered, or a change of the
agent's own state. -/
def State.progress (s t : State) : Agent → Bool
  | .cpu => (s.holder none s.cpuSlaves).isNone
  | .dsp => t.dsp != s.dsp
  | .dma c => t.channel c.toFin != s.channel c.toFin
  | .time => t.clk != s.clk
  | .rtt => decide (t.rttGap < s.rttGap)
  | .sdram => t.mport != s.mport
  | .uart => t.clk != s.clk || t.uart != s.uart
  | .swic n => t.swic n != s.swic n
  | .mfbsp p => t.mfbsp[p.toFin] != s.mfbsp[p.toFin]
  | .host => true

/-- A run of the chip: one move after the other (R1051). -/
def IsRun (r : Nat → State) : Prop := ∀ n, ∃ a, MovedBy a (r n) (r (n + 1))

/-- A fair run: every enabled agent eventually moves, with effect, unless it ceases to be enabled (R1240). -/
def FairRun (r : Nat → State) : Prop :=
  IsRun r ∧ ∀ a n, (r n).enabled a = true →
    ∃ k, n ≤ k ∧ ((MovedBy a (r k) (r (k + 1)) ∧ (r k).progress (r (k + 1)) a = true) ∨ (r k).enabled a = false)

end Sys2Proof.Machine
end

