-- ==== Sys2Proof/Safety.lean ====
section
/-! DEFINITION. Safety: the terms statements are made in: what an instruction leaves alone, how PC moves on, plain memory, the
well-formed states, and what an exception entry looks like. -/

namespace Sys2Proof.Machine

open Sys2Proof

/-! ## What changes -/

/-- PC and the sequencing state move on as after an instruction without a control decision (R600). -/
def MovesOn (s t : State) : Prop :=
  t.slot = .none ∧ t.pc = (match s.slot with | .taken a => a | _ => s.pc + 4)

/-- A jump or branch whose target is a: its delay slot is next (R600). -/
def Jumps (a : Word) (s t : State) : Prop := t.pc = s.pc + 4 ∧ t.slot = .taken a

/-- A branch that is not taken: its delay slot is next (R600). -/
def FallsThrough (s t : State) : Prop := t.pc = s.pc + 4 ∧ t.slot = .fall

/-- A likely branch that is not taken: its delay slot is skipped (R600, R622). -/
def SkipsSlot (s t : State) : Prop := t.pc = s.pc + 8 ∧ t.slot = .none

/-- Every byte of memory and every check bit reads as before. -/
def SameMemory (s t : State) : Prop := (∀ a, Memory.read t.mem a = Memory.read s.mem a) ∧ t.checkBits = s.checkBits

/-- GPR[d] holds v after the step and every other general register what it held; GPR[0] reads as zero (R21). -/
def GprHolds (d : BitVec 5) (v : Word) (s t : State) : Prop :=
  (d ≠ 0 → t.readGpr d = v) ∧ t.readGpr 0 = 0 ∧ ∀ n, n ≠ d → t.readGpr n = s.readGpr n

/-- No general register changes. -/
def SameGprs (s t : State) : Prop := ∀ n, t.readGpr n = s.readGpr n

/-- t differs from s at most in PC and the sequencing state. -/
def OnlyPc (s t : State) : Prop := t = { s with pc := t.pc, slot := t.slot }

/-- t differs from s at most in the general registers, PC and the sequencing state. -/
def OnlyGpr (s t : State) : Prop := t = { s with gpr := t.gpr, pc := t.pc, slot := t.slot }

/-- t differs from s at most in HI, LO, the general registers, PC, the sequencing state and the model's own fields freeCtr and
mduUnread. -/
def OnlyHiLo (s t : State) : Prop :=
  t = { s with
    gpr := t.gpr, hi := t.hi, lo := t.lo, pc := t.pc, slot := t.slot, freeCtr := t.freeCtr, mduUnread := t.mduUnread }

/-- t differs from s at most in HI, LO, PC, the sequencing state and the model's own mduUnread. -/
def OnlyAcc (s t : State) : Prop := t = { s with hi := t.hi, lo := t.lo, pc := t.pc, slot := t.slot, mduUnread := t.mduUnread }

/-- t differs from s at most in the FPU registers, PC and the sequencing state. -/
def OnlyFgr (s t : State) : Prop := t = { s with fgr := t.fgr, pc := t.pc, slot := t.slot }

/-- t differs from s at most in the FPU registers, FCSR, PC and the sequencing state. -/
def OnlyFpu (s t : State) : Prop := t = { s with fgr := t.fgr, fcsr := t.fcsr, pc := t.pc, slot := t.slot }

/-- t differs from s at most in CP0, the general registers, PC, the sequencing state and the model's own counter freeCtr. -/
def OnlyCp0 (s t : State) : Prop :=
  t = { s with gpr := t.gpr, cp0 := t.cp0, pc := t.pc, slot := t.slot, freeCtr := t.freeCtr }

/-- t differs from s at most in memory, PC and the sequencing state. -/
def OnlyMemory (s t : State) : Prop := t = { s with mem := t.mem, pc := t.pc, slot := t.slot }

/-- FGR[d] holds v and every other FPU register what it held. -/
def FgrHolds (d : BitVec 5) (v : Word) (s t : State) : Prop :=
  t.readFgr d = v ∧ ∀ n, n ≠ d → t.readFgr n = s.readFgr n

/-- The pair at the even number d holds v and every other FPU register what it held (R51). -/
def FprHolds (d : BitVec 5) (v : Dword) (s t : State) : Prop :=
  t.readFpr d = v ∧ ∀ n, n ≠ d → n ≠ d + 1 → t.readFgr n = s.readFgr n

/-! ## Outcomes -/

/-- An instruction completes with what P says of the state after it. -/
def Completes (i : Instr) (s : State) (P : State → Prop) : Prop := ∃ t, exec i s = .next t ∧ P t

/-- An instruction that only computes completes: GPR[d] holds v, PC moves on, memory and all else are unchanged. -/
def Computes (i : Instr) (s : State) (d : BitVec 5) (v : Word) : Prop :=
  Completes i s fun t => GprHolds d v s t ∧ MovesOn s t ∧ SameMemory s t ∧ OnlyGpr s t

/-- An instruction takes an exception. -/
def Raises (i : Instr) (s : State) (e : Exc) : Prop := exec i s = .next (takeException e s)

/-- An instruction computes an exact integer: it completes with it in GPR[d] when 32 signed bits hold it, and raises Integer
Overflow otherwise (R521). -/
def ComputesExact (i : Instr) (s : State) (d : BitVec 5) (x : Int) : Prop :=
  if -(2 ^ 31) ≤ x ∧ x < 2 ^ 31 then ∃ v : Word, v.toInt = x ∧ Computes i s d v else Raises i s .ov

/-- An instruction that changes nothing but PC completes. -/
def DoesNothing (i : Instr) (s : State) : Prop := Completes i s fun t => SameGprs s t ∧ MovesOn s t ∧ SameMemory s t ∧ OnlyPc s t

/-- A trap instruction: the Trap exception when c, else nothing (R703). -/
def TrapsIf (i : Instr) (s : State) (c : Prop) : Prop := (c → Raises i s .tr) ∧ (¬c → DoesNothing i s)

/-- A conditional branch completes: when c, with a jump to the target of R601; else with its delay slot next, skipped for a
likely branch (R600, R622). -/
def BranchesIf (i : Instr) (s : State) (c : Prop) (likely : Bool) (offset : BitVec 16) : Prop :=
  Completes i s fun t =>
    (c → Jumps (s.pc + 4 + (offset ++ 0#2).signExtend 32) s t) ∧
    (¬c → if likely then SkipsSlot s t else FallsThrough s t) ∧ SameGprs s t ∧ SameMemory s t ∧ OnlyPc s t

/-- The same with the link written to GPR[31] in either case (R603). -/
def BranchesAndLinks (i : Instr) (s : State) (c : Prop) (likely : Bool) (offset : BitVec 16) : Prop :=
  Completes i s fun t =>
    (c → Jumps (s.pc + 4 + (offset ++ 0#2).signExtend 32) s t) ∧
    (¬c → if likely then SkipsSlot s t else FallsThrough s t) ∧
    GprHolds 31 (s.pc + 8) s t ∧ SameMemory s t ∧ OnlyGpr s t

/-! ## Privilege -/

/-- CP0 may be used: Kernel mode (Status.UM = 0, EXL = 1 or ERL = 1), or Status.CU0 = 1 (R420, R700). -/
def Privileged (s : State) : Prop :=
  isSet s.cp0.status 4 = false ∨ isSet s.cp0.status 1 = true ∨ isSet s.cp0.status 2 = true ∨ isSet s.cp0.status 28 = true

/-- The FPU may be used: Status.CU1 = 1 (R750). -/
def FpuOn (s : State) : Prop := isSet s.cp0.status 29 = true

/-- Does an instruction need the FPU, by its word: opcode COP1, LWC1, LDC1, SWC1, SDC1, or MOVF and MOVT of SPECIAL (R750)? -/
def NeedsFpu (i : Instr) : Prop :=
  opOf (encode i) = 0x11 ∨ opOf (encode i) = 0x31 ∨ opOf (encode i) = 0x35 ∨ opOf (encode i) = 0x39 ∨
  opOf (encode i) = 0x3D ∨ (opOf (encode i) = 0 ∧ fnOf (encode i) = 1)

/-! ## FPU results -/

/-- A register number is even (R753). -/
def EvenReg (n : BitVec 5) : Prop := n.toNat % 2 = 0

/-- Do conditions trap: E, or one that is enabled (R760)? -/
def Trapped (conds : BitVec 6) (fcsr : Word) : Prop :=
  conds.getLsbD 5 = true ∨ ∃ k, k < 5 ∧ conds.getLsbD k = true ∧ fcsr.getLsbD (7 + k) = true

/-- FCSR after an untrapped arithmetic instruction: Cause holds the conditions, Flags gain them, the bits of keep are as before
(R760). -/
def FcsrAfter (conds : BitVec 6) (keep v w : Word) : Prop :=
  (∀ k, k < 6 → w.getLsbD (12 + k) = conds.getLsbD k) ∧
  (∀ k, k < 5 → w.getLsbD (2 + k) = (v.getLsbD (2 + k) || conds.getLsbD k)) ∧ w &&& keep = v &&& keep

/-- The bits of FCSR outside Cause and Flags. -/
def fcsrRest : Word := 0xFFFC0F83

/-- Completion of an arithmetic FPU instruction (R760): with trapping conditions, the exception FPE from the state whose Cause is
rewritten; else FCSR as above, what W says of the state after, and all else but the FPU registers unchanged. -/
def FpuFinishes (i : Instr) (s : State) (conds : BitVec 6) (keep : Word) (W : State → Prop) : Prop :=
  (Trapped conds s.fcsr →
    ∃ w : Word, (∀ k, k < 6 → w.getLsbD (12 + k) = conds.getLsbD k) ∧ w &&& 0xFFFC0FFF = s.fcsr &&& 0xFFFC0FFF ∧
      exec i s = .next (takeException .fpe { s with fcsr := w })) ∧
  (¬Trapped conds s.fcsr →
    Completes i s fun t =>
      FcsrAfter conds keep s.fcsr t.fcsr ∧ W t ∧ MovesOn s t ∧ SameGprs s t ∧ SameMemory s t ∧ OnlyFpu s t)

/-- An arithmetic instruction with a 32-bit result in FGR[fd]. -/
def FinishesS (i : Instr) (s : State) (fd : BitVec 5) (r : FpResult) : Prop :=
  FpuFinishes i s r.conds fcsrRest fun t => FgrHolds fd (BitVec.ofNat 32 r.bits) s t

/-- An arithmetic instruction with a 64-bit result in FPR_D[fd]. -/
def FinishesD (i : Instr) (s : State) (fd : BitVec 5) (r : FpResult) : Prop :=
  FpuFinishes i s r.conds fcsrRest fun t => FprHolds fd (BitVec.ofNat 64 r.bits) s t

/-- An FPU register move completes: FGR[d] holds v, FCSR and all else are unchanged (R757). -/
def MovesFgr (i : Instr) (s : State) (d : BitVec 5) (v : Word) : Prop :=
  Completes i s fun t => FgrHolds d v s t ∧ MovesOn s t ∧ SameGprs s t ∧ SameMemory s t ∧ OnlyFgr s t

/-- The same for a pair. -/
def MovesFpr (i : Instr) (s : State) (d : BitVec 5) (v : Dword) : Prop :=
  Completes i s fun t => FprHolds d v s t ∧ MovesOn s t ∧ SameGprs s t ∧ SameMemory s t ∧ OnlyFgr s t

/-- The condition code bit of FCSR: FCC[0] is bit 23, FCC[n] bit 24 + n (R55). -/
def fccPlace (cc : BitVec 3) : Nat := if cc = 0 then 23 else 24 + cc.toNat

/-! ## FPU values -/

/-- The value of a number; a NaN has none (R752). -/
def FpVal.number : FpVal → Option (WithBot (WithTop ℚ))
  | .nan _ => none
  | .inf true => some ⊥
  | .inf false => some ⊤
  | .fin neg m e => some (((if neg then -1 else 1) * (m : ℚ) * (2 : ℚ) ^ e : ℚ) : WithTop ℚ)

/-- The value of a finite number; 0 for the others. -/
def FpVal.rat : FpVal → ℚ
  | .fin neg m e => (if neg then -1 else 1) * (m : ℚ) * (2 : ℚ) ^ e
  | _ => 0

/-- Is a value finite? -/
def FpVal.IsFinite (x : FpVal) : Prop := ∃ neg m e, x = .fin neg m e

/-- The value of a finite pattern (R752); 0 for the others. -/
def FpFmt.value (f : FpFmt) (x : Nat) : ℚ := (f.unpack .legacy x).rat

/-- q is the value of a finite pattern of the format (R752). -/
def FpFmt.Has (f : FpFmt) (q : ℝ) : Prop := ∃ x, (f.unpack .legacy x).IsFinite ∧ (f.value x : ℝ) = q

/-- The pattern x is r rounded as mode rm says (R57): to the nearest number, the even pattern on a tie; toward zero; up; down. -/
def FpFmt.Rounds (f : FpFmt) (rm : BitVec 2) (r : ℝ) (x : Nat) : Prop :=
  (f.unpack .legacy x).IsFinite ∧
  let w : ℝ := f.value x
  match rm with
  | 0#2 => ∀ q, f.Has q → |w - r| ≤ |q - r| ∧ (|w - r| = |q - r| → q ≠ w → x % 2 = 0)
  | 1#2 => 0 ≤ w * r ∧ |w| ≤ |r| ∧ ∀ q, f.Has q → |q| ≤ |r| → |q| ≤ |w|
  | 2#2 => r ≤ w ∧ ∀ q, f.Has q → r ≤ q → w ≤ q
  | _ => w ≤ r ∧ ∀ q, f.Has q → q ≤ r → q ≤ w

/-- A result delivers the exact value r, which lies between the smallest normal and the largest number of the format: it is r
rounded, with condition I exactly when that is not r (R57, R755). -/
def FpFmt.Delivers (f : FpFmt) (rm : BitVec 2) (r : ℝ) (x : FpResult) : Prop :=
  (2 : ℝ) ^ f.eMin ≤ |r| → |r| ≤ f.value (f.largest false) →
    f.Rounds rm r x.bits ∧ ((f.value x.bits : ℝ) = r → x.conds = 0) ∧ ((f.value x.bits : ℝ) ≠ r → x.conds = condI)

/-- The format with the same precision and exponents that no result leaves: where Round rounds before it looks at the range
(R755, R763). -/
def FpFmt.unbounded (f : FpFmt) : FpFmt := { expBits := f.expBits + 8, fracBits := f.fracBits }

/-- An operand the operations compute with: finite, and no denormal that the parameters turn away (R756, U61). -/
def FpFmt.Takes (f : FpFmt) (v : FpEnv) (x : Nat) : Prop := f.stopsOn v x = false ∧ (f.operand v x).IsFinite

/-- The formats S and D. -/
def fpFormats : List FpFmt := [.single, .double]

/-- The results of finite operands in a format, each with the exact value it stands for (R765 to R774, R781 to R784). -/
inductive FpFmt.Gives (f : FpFmt) (v : FpEnv) : ℝ → FpResult → Prop where
  | sum (x y : Nat) (hx : f.Takes v x) (hy : f.Takes v y) :
      Gives f v ((f.operand v x).rat + (f.operand v y).rat) (f.add v false x y)
  | difference (x y : Nat) (hx : f.Takes v x) (hy : f.Takes v y) :
      Gives f v ((f.operand v x).rat - (f.operand v y).rat) (f.add v true x y)
  | product (x y : Nat) (hx : f.Takes v x) (hy : f.Takes v y) :
      Gives f v ((f.operand v x).rat * (f.operand v y).rat) (f.mul v x y)
  | quotient (x y : Nat) (hx : f.Takes v x) (hy : f.Takes v y) (h : (f.operand v y).rat ≠ 0) :
      Gives f v ((f.operand v x).rat / (f.operand v y).rat) (f.div v x y)
  | root (x : Nat) (hx : f.Takes v x) (h : 0 < (f.operand v x).rat) :
      Gives f v (Real.sqrt (f.operand v x).rat) (f.sqrt v x)
  | conversion (g : FpFmt) (x : Nat) (hg : g ∈ fpFormats) (hx : g.Takes v x) :
      Gives f v (g.operand v x).rat (g.convert f v x)
  | word (n : Word) : Gives f v n.toInt (f.ofWord v n)

/-- The default QNaN (R754). -/
def quietNan (f : FpFmt) (n : NanEncoding) : Nat :=
  match n with
  | .legacy => if f = .single then 0x7FBFFFFF else 0x7FF7FFFFFFFFFFFF
  | .ieee2008 => if f = .single then 0x7FC00000 else 0x7FF8000000000000

/-- What ABS and NEG deliver for the pattern x: the same with another sign bit; for a NaN the default QNaN, with V for a
signalling one (R754, R775, R777; the default QNaN is the choice U60). -/
def signResult (f : FpFmt) (n : NanEncoding) (x resigned : Nat) : FpResult :=
  match f.unpack n x with
  | .nan signalling => { conds := if signalling then condV else 0, bits := quietNan f n }
  | _ => { conds := 0, bits := resigned }

/-- The integer n is r rounded as mode rm says (R57). -/
def RoundsToInt (rm : BitVec 2) (r : ℚ) (n : ℤ) : Prop :=
  match rm with
  | 0#2 => |r - n| ≤ 1 / 2 ∧ (|r - n| = 1 / 2 → n % 2 = 0)
  | 1#2 => n = if 0 ≤ r then ⌊r⌋ else ⌈r⌉
  | 2#2 => n = ⌈r⌉
  | _ => n = ⌊r⌋

/-- A compare (R825) of two values: C.cond completes with FCC[cc] as the condition says, V as R825 says, and no other effect. -/
def ComparesAs (i : Instr) (s : State) (cond : BitVec 4) (cc : BitVec 3) (a b : FpVal) : Prop :=
  let unordered := a.number = none ∨ b.number = none
  let less := ∃ x y, a.number = some x ∧ b.number = some y ∧ x < y
  let equal := ∃ x, a.number = some x ∧ b.number = some x
  let signal := a = .nan true ∨ b = .nan true ∨ (cond.getLsbD 3 = true ∧ unordered)
  ∀ conds : BitVec 6, (signal → conds = condV) → (¬signal → conds = 0) →
    FpuFinishes i s conds (fcsrRest &&& ~~~((1 : Word) <<< fccPlace cc)) fun t =>
      (t.fcsr.getLsbD (fccPlace cc) = true ↔
        (cond.getLsbD 2 = true ∧ less) ∨ (cond.getLsbD 1 = true ∧ equal) ∨ (cond.getLsbD 0 = true ∧ unordered)) ∧
      t.fgr = s.fgr

/-! ## Memory -/

/-- Is the word at a word-aligned physical address plain memory: loads give what stores left there? CRAM or external RAM whose
controller is in mode 00, with no injected error, no DMA writing CRAM, not the 8-bit boot memory, and SDRAM only with refresh on
and the word written (R412, R416, R283, R1151). -/
def PlainRam (s : State) (a : Nat) : Prop :=
  s.ecc.faultAt a = none ∧
  ((inCram a = true ∧ (s.ecc.ctl (s.cramUnit false a)).mode = 0 ∧ s.dmaWritesCram = false) ∨
   (inInternal a = false ∧ (∀ k, k < 4 → extKindOf s.params (a + k) = .ram) ∧ s.ecc.ext.mode = 0 ∧
    ∃ cs, s.extAccess a = .ok (cs, .normal) ∧ s.mport.holds cs a = true ∧ (cs = 3 → s.params.bytePin = false)))

/-- A data access of a size at va reaches plain memory at pa: aligned and translated (R402, R430). -/
def Reaches (s : State) (va : Word) (k : Access) (size : Nat) (pa : Word) : Prop :=
  va.toNat % size = 0 ∧ (∃ c, translate va k s = .ok (pa, c) s) ∧ PlainRam s (wordAddr pa)

/-- The word of plain memory at a physical address, byte by byte (R400). -/
def wordAt (s : State) (a : Nat) : Word :=
  Memory.read s.mem (a + 3) ++ Memory.read s.mem (a + 2) ++ Memory.read s.mem (a + 1) ++ Memory.read s.mem a

/-- Every byte reads as before, but the bytes from a to b - 1, which hold those of v from byte k up. -/
def BytesStored (s t : State) (a b : Nat) (v : Word) (k : Nat) : Prop :=
  (∀ x, Memory.read t.mem x =
    if a ≤ x ∧ x < b then v.extractLsb' (8 * (k + (x - a))) 8 else Memory.read s.mem x) ∧ t.checkBits = s.checkBits

/-- A store to plain memory completes. -/
def StoresBytes (i : Instr) (s : State) (a b : Nat) (v : Word) (k : Nat) : Prop :=
  Completes i s fun t => BytesStored s t a b v k ∧ SameGprs s t ∧ MovesOn s t ∧ OnlyMemory s t

/-- What no load or store touches: HI, LO, CP0, the FPU control register, the TLB, the parameters. -/
def SameControl (s t : State) : Prop :=
  t.hi = s.hi ∧ t.lo = s.lo ∧ t.cp0 = s.cp0 ∧ t.fcsr = s.fcsr ∧ t.tlb = s.tlb ∧ t.llbit = s.llbit ∧ t.params = s.params

/-! ## The TLB -/

/-- Entry i matches a page number under EntryHi.ASID (R432). -/
def TlbMatches (s : State) (i : Fin 16) (vpn2 : BitVec 19) : Prop :=
  s.tlb[i].init = true ∧
  vpn2 &&& ~~~(s.tlb[i].mask.setWidth 19) = s.tlb[i].vpn2 &&& ~~~(s.tlb[i].mask.setWidth 19) ∧
  (s.tlb[i].g = true ∨ s.tlb[i].asid = s.cp0.entryHi.extractLsb' 0 8)

/-- Entry i is the lowest that matches (D15). -/
def TlbFirst (s : State) (i : Fin 16) (vpn2 : BitVec 19) : Prop := TlbMatches s i vpn2 ∧ ∀ j, j < i → ¬TlbMatches s j vpn2

/-- The entries of the TLB hold page masks of R433. -/
def TlbMasksLegal (s : State) : Prop := ∀ i : Fin 16, s.tlb[i].init = true → ∃ k, k ≤ 6 ∧ s.tlb[i].mask.toNat = 4 ^ k - 1

/-- Two entries conflict: they would both match some address (R722, R724). -/
def TlbConflict (a b : TlbEntry) : Prop :=
  b.init = true ∧
  a.vpn2 &&& ~~~((a.mask ||| b.mask).setWidth 19) = b.vpn2 &&& ~~~((a.mask ||| b.mask).setWidth 19) ∧
  (a.g = true ∨ b.g = true ∨ a.asid = b.asid)

/-! ## Steps -/

/-- No burst of a DMA channel is under way, so that nothing holds a slave from the CPU (R1055). -/
def NoBurst (s : State) : Prop := ∀ c : Fin 16, (s.channel c).burstLeft = 0

/-- The next step is one of the CPU, which is on, and no burst stands in its way (R1050). -/
def CpuNext (s : State) : Prop := s.moves = [] ∧ s.sys.coreClockOn = true ∧ NoBurst s

/-- The next step is an instruction: the CPU is not waiting, and neither NMI nor an interrupt is taken (R990). -/
def InstructionNext (s : State) : Prop :=
  CpuNext s ∧ s.nmiPending = false ∧ s.waiting = false ∧ s.interruptRequest = false

/-! ## Well-formed states -/

/-- The reserved bits of CP0 and FCSR read zero and Random lies between Wired and 15 (R28 to R40, R55). -/
def RegistersLegal (s : State) : Prop :=
  s.cp0.index &&& 0x7FFFFFF0 = 0 ∧ s.cp0.entryLo0 &&& ~~~entryLoMask = 0 ∧ s.cp0.entryLo1 &&& ~~~entryLoMask = 0 ∧
  s.cp0.context &&& 0xF = 0 ∧ s.cp0.pageMask &&& ~~~pageMaskMask = 0 ∧ s.cp0.entryHi &&& ~~~entryHiMask = 0 ∧
  s.cp0.status &&& ~~~(statusMask ||| statusClearMask) = 0 ∧ s.cp0.cause &&& 0x7F7FFC03 = 0 ∧
  s.cp0.wired ≤ s.cp0.random ∧ s.fcsr &&& ~~~fcsrMask = 0

/-- Memory and the check-bit blocks are in canonical form. -/
def MemoryLegal (s : State) : Prop := Memory.wf s.mem ∧ Memory.wf s.checkBits

end Sys2Proof.Machine
end

