-- ==== Sys2Proof/Certificates/Slice0/Obligations.lean ====
section
/-! DEFINITION. Obligations: the statements for the provers. Each docstring names the rules of spec/ it formalises and what in it
is the model's own choice. -/

open Sys2Proof Sys2Proof.Machine

/-! ## Integer instructions -/

/-- ADD, ADDI, SUB: the exact signed result, or Integer Overflow with the destination not written (R521, R522, R523, R526). -/
def Obligations.AddOverflow : Prop :=
  ∀ (s : State) (rs rt rd : GprNum) (imm : BitVec 16),
    ComputesExact (.add rs rt rd) s rd ((s.readGpr rs).toInt + (s.readGpr rt).toInt) ∧
    ComputesExact (.addi rs rt imm) s rt ((s.readGpr rs).toInt + imm.toInt) ∧
    ComputesExact (.sub rs rt rd) s rd ((s.readGpr rs).toInt - (s.readGpr rt).toInt)

/-- ADDU, ADDIU, SUBU, the compares and the logic instructions: the value of the destination and the frame (R524, R525, R527 to
R539). -/
def Obligations.RegisterArithmetic : Prop :=
  ∀ (s : State) (rs rt rd : GprNum) (imm : BitVec 16),
    let a := s.readGpr rs
    let b := s.readGpr rt
    Computes (.addu rs rt rd) s rd (a + b) ∧
    Computes (.addiu rs rt imm) s rt (a + imm.signExtend 32) ∧
    Computes (.subu rs rt rd) s rd (a - b) ∧
    Computes (.slt rs rt rd) s rd (if a.toInt < b.toInt then 1 else 0) ∧
    Computes (.slti rs rt imm) s rt (if a.toInt < imm.toInt then 1 else 0) ∧
    Computes (.sltiu rs rt imm) s rt (if a.toNat < (imm.signExtend 32).toNat then 1 else 0) ∧
    Computes (.sltu rs rt rd) s rd (if a.toNat < b.toNat then 1 else 0) ∧
    Computes (.andr rs rt rd) s rd (a &&& b) ∧
    Computes (.andi rs rt imm) s rt (a &&& imm.setWidth 32) ∧
    Computes (.orr rs rt rd) s rd (a ||| b) ∧
    Computes (.ori rs rt imm) s rt (a ||| imm.setWidth 32) ∧
    Computes (.xorr rs rt rd) s rd (a ^^^ b) ∧
    Computes (.xori rs rt imm) s rt (a ^^^ imm.setWidth 32) ∧
    Computes (.norr rs rt rd) s rd (~~~(a ||| b)) ∧
    Computes (.lui rt imm) s rt (imm ++ 0#16)

/-- Shifts: by sa, or by bits 4:0 of GPR[rs]; a right arithmetic shift is a division rounded down (R540 to R545). -/
def Obligations.Shifts : Prop :=
  ∀ (s : State) (rs rt rd : GprNum) (sa : BitVec 5),
    let b := s.readGpr rt
    let n := (s.readGpr rs).toNat % 32
    Computes (.sll rt rd sa) s rd (BitVec.ofNat 32 (b.toNat * 2 ^ sa.toNat)) ∧
    Computes (.srl rt rd sa) s rd (BitVec.ofNat 32 (b.toNat / 2 ^ sa.toNat)) ∧
    Computes (.sra rt rd sa) s rd (BitVec.ofInt 32 (b.toInt / 2 ^ sa.toNat)) ∧
    Computes (.sllv rs rt rd) s rd (BitVec.ofNat 32 (b.toNat * 2 ^ n)) ∧
    Computes (.srlv rs rt rd) s rd (BitVec.ofNat 32 (b.toNat / 2 ^ n)) ∧
    Computes (.srav rs rt rd) s rd (BitVec.ofInt 32 (b.toInt / 2 ^ n))

/-- MULT and MULTU leave the exact 64-bit product in HI and LO; MADD, MADDU, MSUB, MSUBU add it to or subtract it from HI and LO
modulo 2^64; MUL leaves the low word of the signed product in GPR[rd], and HI and LO may hold anything after it (R546 to R553). -/
def Obligations.Multiply : Prop :=
  ∀ (s : State) (rs rt rd : GprNum),
    let a := s.readGpr rs
    let b := s.readGpr rt
    let acc : Dword := s.hi ++ s.lo
    let leaves (i : Instr) (v : Dword → Prop) : Prop :=
      Completes i s fun t => v (t.hi ++ t.lo) ∧ SameGprs s t ∧ MovesOn s t ∧ SameMemory s t ∧ OnlyAcc s t
    leaves (.mult rs rt) (fun v => v.toInt = a.toInt * b.toInt) ∧
    leaves (.multu rs rt) (fun v => v.toNat = a.toNat * b.toNat) ∧
    leaves (.madd rs rt) (fun v => v = acc + BitVec.ofInt 64 (a.toInt * b.toInt)) ∧
    leaves (.maddu rs rt) (fun v => v = acc + BitVec.ofNat 64 (a.toNat * b.toNat)) ∧
    leaves (.msub rs rt) (fun v => v = acc - BitVec.ofInt 64 (a.toInt * b.toInt)) ∧
    leaves (.msubu rs rt) (fun v => v = acc - BitVec.ofNat 64 (a.toNat * b.toNat)) ∧
    Completes (.mul rs rt rd) s fun t =>
      GprHolds rd (BitVec.ofInt 32 (a.toInt * b.toInt)) s t ∧ MovesOn s t ∧ SameMemory s t ∧ OnlyHiLo s t

/-- DIV and DIVU: quotient rounded toward zero in LO and remainder in HI; a division by zero completes, with HI and LO anything
(R554, R555). -/
def Obligations.Divide : Prop :=
  ∀ (s : State) (rs rt : GprNum),
    let a := s.readGpr rs
    let b := s.readGpr rt
    (b ≠ 0 →
      (Completes (.div rs rt) s fun t =>
        t.lo = BitVec.ofInt 32 (a.toInt.tdiv b.toInt) ∧ t.hi.toInt = a.toInt - b.toInt * a.toInt.tdiv b.toInt ∧
        SameGprs s t ∧ MovesOn s t ∧ SameMemory s t ∧ OnlyAcc s t) ∧
      (Completes (.divu rs rt) s fun t =>
        t.lo.toNat = a.toNat / b.toNat ∧ t.hi.toNat = a.toNat % b.toNat ∧
        SameGprs s t ∧ MovesOn s t ∧ SameMemory s t ∧ OnlyAcc s t)) ∧
    (b = 0 →
      (Completes (.div rs rt) s fun t => SameGprs s t ∧ MovesOn s t ∧ SameMemory s t ∧ OnlyHiLo s t) ∧
      (Completes (.divu rs rt) s fun t => SameGprs s t ∧ MovesOn s t ∧ SameMemory s t ∧ OnlyHiLo s t))

/-- MFHI, MFLO, MTHI, MTLO (R556 to R559). After a product or quotient that nothing has read, MTHI leaves LO, and MTLO HI, free
(R546, U56); which instructions count as reading it is the model's choice (log 20). -/
def Obligations.HiLoMoves : Prop :=
  ∀ (s : State) (rs rd : GprNum),
    (Completes (.mfhi rd) s fun t =>
      GprHolds rd s.hi s t ∧ t.hi = s.hi ∧ t.lo = s.lo ∧ MovesOn s t ∧ SameMemory s t ∧ OnlyHiLo s t) ∧
    (Completes (.mflo rd) s fun t =>
      GprHolds rd s.lo s t ∧ t.hi = s.hi ∧ t.lo = s.lo ∧ MovesOn s t ∧ SameMemory s t ∧ OnlyHiLo s t) ∧
    (Completes (.mthi rs) s fun t =>
      t.hi = s.readGpr rs ∧ (s.mduUnread = false → t.lo = s.lo) ∧ SameGprs s t ∧ MovesOn s t ∧ SameMemory s t ∧
      OnlyHiLo s t) ∧
    (Completes (.mtlo rs) s fun t =>
      t.lo = s.readGpr rs ∧ (s.mduUnread = false → t.hi = s.hi) ∧ SameGprs s t ∧ MovesOn s t ∧ SameMemory s t ∧
      OnlyHiLo s t)

/-- CLZ and CLO count the leading zeros or ones, 32 when all bits are alike (R560, R561). That a field rt other than rd is ignored
is the spec's choice for a form the manual leaves unpredictable (U57). -/
def Obligations.CountLeading : Prop :=
  ∀ (s : State) (rs rt rd : GprNum),
    let a := s.readGpr rs
    (∃ n, n ≤ 32 ∧ (∀ k, k < n → a.getLsbD (31 - k) = false) ∧ (n < 32 → a.getLsbD (31 - n) = true) ∧
      Computes (.clz rs rt rd) s rd (BitVec.ofNat 32 n)) ∧
    (∃ n, n ≤ 32 ∧ (∀ k, k < n → a.getLsbD (31 - k) = true) ∧ (n < 32 → a.getLsbD (31 - n) = false) ∧
      Computes (.clo rs rt rd) s rd (BitVec.ofNat 32 n))

/-- MOVN and MOVZ test GPR[rt], MOVF and MOVT a condition code of an FPU that is on; when the test fails the destination keeps its
value (R562 to R565). -/
def Obligations.ConditionalMoves : Prop :=
  ∀ (s : State) (rs rt rd : GprNum) (cc : BitVec 3),
    let a := s.readGpr rs
    let old := s.readGpr rd
    Computes (.movn rs rt rd) s rd (if s.readGpr rt ≠ 0 then a else old) ∧
    Computes (.movz rs rt rd) s rd (if s.readGpr rt = 0 then a else old) ∧
    (FpuOn s →
      Computes (.movf rs cc rd) s rd (if s.fcsr.getLsbD (fccPlace cc) = false then a else old) ∧
      Computes (.movt rs cc rd) s rd (if s.fcsr.getLsbD (fccPlace cc) = true then a else old))

/-! ## Jumps and branches -/

/-- J, JAL, JR, JALR outside a delay slot: target, link value and frame (R602, R603, R610 to R613). -/
def Obligations.JumpTargets : Prop :=
  ∀ (s : State) (index : BitVec 26) (rs rd : GprNum) (hint : BitVec 5), s.slot = .none →
    let target : Word := (s.pc + 4).extractLsb' 28 4 ++ index ++ 0#2
    (Completes (.j index) s fun t => Jumps target s t ∧ SameGprs s t ∧ SameMemory s t ∧ OnlyPc s t) ∧
    (Completes (.jal index) s fun t => Jumps target s t ∧ GprHolds 31 (s.pc + 8) s t ∧ SameMemory s t ∧ OnlyGpr s t) ∧
    (Completes (.jr rs hint) s fun t => Jumps (s.readGpr rs) s t ∧ SameGprs s t ∧ SameMemory s t ∧ OnlyPc s t) ∧
    (rd ≠ rs → Completes (.jalr rs rd hint) s fun t =>
      Jumps (s.readGpr rs) s t ∧ GprHolds rd (s.pc + 8) s t ∧ SameMemory s t ∧ OnlyGpr s t)

/-- The conditional branches outside a delay slot: taken exactly when the condition holds, else the delay slot follows, or is
skipped by the likely forms (R600, R601, R614 to R619, R622 to R628). -/
def Obligations.ConditionalBranches : Prop :=
  ∀ (s : State) (rs rt : GprNum) (offset : BitVec 16), s.slot = .none →
    let a := s.readGpr rs
    let b := s.readGpr rt
    BranchesIf (.beq rs rt offset) s (a = b) false offset ∧
    BranchesIf (.bne rs rt offset) s (a ≠ b) false offset ∧
    BranchesIf (.blez rs offset) s (a.toInt ≤ 0) false offset ∧
    BranchesIf (.bgtz rs offset) s (0 < a.toInt) false offset ∧
    BranchesIf (.bltz rs offset) s (a.toInt < 0) false offset ∧
    BranchesIf (.bgez rs offset) s (0 ≤ a.toInt) false offset ∧
    BranchesIf (.beql rs rt offset) s (a = b) true offset ∧
    BranchesIf (.bnel rs rt offset) s (a ≠ b) true offset ∧
    BranchesIf (.blezl rs offset) s (a.toInt ≤ 0) true offset ∧
    BranchesIf (.bgtzl rs offset) s (0 < a.toInt) true offset ∧
    BranchesIf (.bltzl rs offset) s (a.toInt < 0) true offset ∧
    BranchesIf (.bgezl rs offset) s (0 ≤ a.toInt) true offset

/-- The and-link branches outside a delay slot write GPR[31] whether or not they are taken; rs = 31 is not allowed (R603, R620,
R621, R629, R630). -/
def Obligations.LinkBranches : Prop :=
  ∀ (s : State) (rs : GprNum) (offset : BitVec 16), s.slot = .none → rs ≠ 31 →
    let a := s.readGpr rs
    BranchesAndLinks (.bltzal rs offset) s (a.toInt < 0) false offset ∧
    BranchesAndLinks (.bgezal rs offset) s (0 ≤ a.toInt) false offset ∧
    BranchesAndLinks (.bltzall rs offset) s (a.toInt < 0) true offset ∧
    BranchesAndLinks (.bgezall rs offset) s (0 ≤ a.toInt) true offset

/-- BC1F, BC1T and their likely forms with the FPU on, outside a delay slot (R810, R812 to R815). -/
def Obligations.FpuBranches : Prop :=
  ∀ (s : State) (cc : BitVec 3) (offset : BitVec 16), s.slot = .none → FpuOn s →
    let code := s.fcsr.getLsbD (fccPlace cc)
    BranchesIf (.bc1f cc offset) s (code = false) false offset ∧
    BranchesIf (.bc1t cc offset) s (code = true) false offset ∧
    BranchesIf (.bc1fl cc offset) s (code = false) true offset ∧
    BranchesIf (.bc1tl cc offset) s (code = true) true offset

/-- A jump, branch, ERET or WAIT in a delay slot is refused, and so is an and-link instruction whose link register is its source
(R604, U58). -/
def Obligations.RestrictedTransfers : Prop :=
  ∀ (s : State) (index : BitVec 26) (rs rt rd : GprNum) (hint : BitVec 5) (offset : BitVec 16) (cc : BitVec 3)
    (code : BitVec 19),
    (s.slot ≠ .none → ∀ i : Instr,
      i ∈ [.j index, .jal index, .jr rs hint, .beq rs rt offset, .bne rs rt offset, .blez rs offset, .bgtz rs offset,
        .bltz rs offset, .bgez rs offset, .beql rs rt offset, .bnel rs rt offset, .blezl rs offset, .bgtzl rs offset,
        .bltzl rs offset, .bgezl rs offset] ∨
      (rd ≠ rs ∧ i = .jalr rs rd hint) ∨
      (rs ≠ 31 ∧ i ∈ [.bltzal rs offset, .bgezal rs offset, .bltzall rs offset, .bgezall rs offset]) ∨
      (FpuOn s ∧ i ∈ [.bc1f cc offset, .bc1t cc offset, .bc1fl cc offset, .bc1tl cc offset]) ∨
      (Privileged s ∧ i ∈ [.eret, .wait code]) →
      exec i s = .refused .controlInDelaySlot) ∧
    (∀ i : Instr,
      i ∈ [.jalr rs rs hint, .bltzal 31 offset, .bgezal 31 offset, .bltzall 31 offset, .bgezall 31 offset] →
      exec i s = .refused .linkIsSource)

/-! ## Loads and stores -/

/-- LB, LBU, LH, LHU, LW from plain memory: the little-endian value at the translated address, extended as the name says (R400,
R655 to R659). -/
def Obligations.LoadValues : Prop :=
  ∀ (s : State) (base rt : GprNum) (offset : BitVec 16) (pa : Word),
    let va := s.readGpr base + offset.signExtend 32
    let m (k : Nat) : Byte := Memory.read s.mem (pa.toNat + k)
    (Reaches s va .load 1 pa →
      Computes (.lb base rt offset) s rt ((m 0).signExtend 32) ∧
      Computes (.lbu base rt offset) s rt ((m 0).setWidth 32)) ∧
    (Reaches s va .load 2 pa →
      Computes (.lh base rt offset) s rt ((m 1 ++ m 0).signExtend 32) ∧
      Computes (.lhu base rt offset) s rt ((m 1 ++ m 0).setWidth 32)) ∧
    (Reaches s va .load 4 pa → Computes (.lw base rt offset) s rt (m 3 ++ m 2 ++ m 1 ++ m 0))

/-- LWL and LWR from plain memory, byte by byte: the bytes they load and the bytes of the register they keep (R660, R661). -/
def Obligations.UnalignedLoads : Prop :=
  ∀ (s : State) (base rt : GprNum) (offset : BitVec 16) (pa : Word),
    let va := s.readGpr base + offset.signExtend 32
    let b := va.toNat % 4
    let m (k : Nat) : Byte := Memory.read s.mem (wordAddr pa + k)
    let old (j : Nat) : Byte := (s.readGpr rt).extractLsb' (8 * j) 8
    Reaches s va .load 1 pa →
      (∃ v : Word,
        (∀ j, j < 4 → v.extractLsb' (8 * j) 8 = if 3 - b ≤ j then m (j - (3 - b)) else old j) ∧
        Computes (.lwl base rt offset) s rt v) ∧
      (∃ v : Word,
        (∀ j, j < 4 → v.extractLsb' (8 * j) 8 = if j ≤ 3 - b then m (b + j) else old j) ∧
        Computes (.lwr base rt offset) s rt v)

/-- SB, SH, SW to plain memory: the low bytes of GPR[rt] at the translated address, and nothing else (R662 to R664). -/
def Obligations.StoreValues : Prop :=
  ∀ (s : State) (base rt : GprNum) (offset : BitVec 16) (pa : Word), MemoryLegal s →
    let va := s.readGpr base + offset.signExtend 32
    (Reaches s va .store 1 pa → StoresBytes (.sb base rt offset) s pa.toNat (pa.toNat + 1) (s.readGpr rt) 0) ∧
    (Reaches s va .store 2 pa → StoresBytes (.sh base rt offset) s pa.toNat (pa.toNat + 2) (s.readGpr rt) 0) ∧
    (Reaches s va .store 4 pa → StoresBytes (.sw base rt offset) s pa.toNat (pa.toNat + 4) (s.readGpr rt) 0)

/-- SWL and SWR to plain memory: the most significant bytes of GPR[rt] up to the address, or the least significant from it on, in
the aligned word (R665, R666). -/
def Obligations.UnalignedStores : Prop :=
  ∀ (s : State) (base rt : GprNum) (offset : BitVec 16) (pa : Word), MemoryLegal s →
    let va := s.readGpr base + offset.signExtend 32
    Reaches s va .store 1 pa →
      StoresBytes (.swl base rt offset) s (wordAddr pa) (pa.toNat + 1) (s.readGpr rt) (3 - va.toNat % 4) ∧
      StoresBytes (.swr base rt offset) s pa.toNat (wordAddr pa + 4) (s.readGpr rt) 0

/-- Whatever a load of an integer register reaches (plain memory, a device, the DSP), it takes an exception in the state it started
from, or it changes no other general register, no byte of memory and no control state (R650, R651). -/
def Obligations.LoadFrame : Prop :=
  ∀ (s t : State) (base rt : GprNum) (offset : BitVec 16) (i : Instr),
    i ∈ [.lb base rt offset, .lbu base rt offset, .lh base rt offset, .lhu base rt offset, .lw base rt offset,
      .lwl base rt offset, .lwr base rt offset] →
    exec i s = .next t →
      (∃ e, t = takeException e s) ∨
      (SameControl s t ∧ SameMemory s t ∧ t.fgr = s.fgr ∧ MovesOn s t ∧ t.readGpr 0 = 0 ∧
        ∀ n, n ≠ rt → t.readGpr n = s.readGpr n)

/-- Whatever a store reaches, it takes an exception in the state it started from, or it changes no register and no byte of memory
outside the word that holds the translated address; a store to DSP data memory with SR.BC = 1 changes the partner word too (R650,
R651, R888). -/
def Obligations.StoreFrame : Prop :=
  ∀ (s t : State) (base rt : GprNum) (offset : BitVec 16) (i : Instr), MemoryLegal s →
    i ∈ [.sb base rt offset, .sh base rt offset, .sw base rt offset, .swl base rt offset, .swr base rt offset] →
    exec i s = .next t →
      (∃ e, t = takeException e s) ∨
      (SameControl s t ∧ SameGprs s t ∧ t.fgr = s.fgr ∧ MovesOn s t ∧
        ∀ pa c, translate (s.readGpr base + offset.signExtend 32) .store s = .ok (pa, c) s →
          ∀ a, a / 4 ≠ pa.toNat / 4 →
            (inDspData (wordAddr pa) = true → isSet s.dsp.sr 12 = true → a / 4 ≠ (wordAddr pa ^^^ 4) / 4) →
            Memory.read t.mem a = Memory.read s.mem a)

/-- The exceptions of loads and stores, taken before they do anything else (R402, R403, R651, R804). A misaligned halfword, word or
doubleword access raises Address Error; an aligned one raises what the translation of its address answers. LWC1, SWC1, LDC1, SDC1
do so with the FPU on and an even register for the doublewords; SC whatever LLbit holds. -/
def Obligations.AccessExceptions : Prop :=
  ∀ (s : State) (base rt : GprNum) (ft : FprNum) (offset : BitVec 16),
    let va := s.readGpr base + offset.signExtend 32
    let loads (size : Nat) (i : Instr) : Prop :=
      (va.toNat % size ≠ 0 → Raises i s (.addressError va false)) ∧
      (va.toNat % size = 0 → ∀ e, translate va .load s = .exc e s → Raises i s e)
    let stores (size : Nat) (i : Instr) : Prop :=
      (va.toNat % size ≠ 0 → Raises i s (.addressError va true)) ∧
      (va.toNat % size = 0 → ∀ e, translate va .store s = .exc e s → Raises i s e)
    (∀ i ∈ ([.lb base rt offset, .lbu base rt offset, .lwl base rt offset, .lwr base rt offset] : List Instr), loads 1 i) ∧
    (∀ i ∈ ([.lh base rt offset, .lhu base rt offset] : List Instr), loads 2 i) ∧
    (∀ i ∈ ([.lw base rt offset, .ll base rt offset] : List Instr), loads 4 i) ∧
    (∀ i ∈ ([.sb base rt offset, .swl base rt offset, .swr base rt offset] : List Instr), stores 1 i) ∧
    stores 2 (.sh base rt offset) ∧
    (∀ i ∈ ([.sw base rt offset, .sc base rt offset] : List Instr), stores 4 i) ∧
    (FpuOn s → loads 4 (.lwc1 base ft offset) ∧ stores 4 (.swc1 base ft offset) ∧
      (EvenReg ft → loads 8 (.ldc1 base ft offset) ∧ stores 8 (.sdc1 base ft offset)))

/-- LL from plain memory loads the word, remembers its physical address and sets LLbit. SC stores and writes 1 when LLbit is set,
else writes 0 and stores nothing; LLbit is clear after it (R668, R669). -/
def Obligations.LinkedAccess : Prop :=
  ∀ (s : State) (base rt : GprNum) (offset : BitVec 16) (pa : Word),
    let va := s.readGpr base + offset.signExtend 32
    (Reaches s va .load 4 pa →
      Completes (.ll base rt offset) s fun t =>
        GprHolds rt (wordAt s pa.toNat) s t ∧ MovesOn s t ∧ SameMemory s t ∧
        t = { s with
          gpr := t.gpr, llbit := true, cp0 := { s.cp0 with llAddr := pa.extractLsb' 4 28 }, pc := t.pc, slot := t.slot }) ∧
    (s.llbit = true → MemoryLegal s → Reaches s va .store 4 pa →
      Completes (.sc base rt offset) s fun t =>
        GprHolds rt 1 s t ∧ MovesOn s t ∧ BytesStored s t pa.toNat (pa.toNat + 4) (s.readGpr rt) 0 ∧
        t = { s with gpr := t.gpr, llbit := false, mem := t.mem, pc := t.pc, slot := t.slot }) ∧
    (s.llbit = false → va.toNat % 4 = 0 → (∃ c, translate va .store s = .ok (pa, c) s) →
      Completes (.sc base rt offset) s fun t => GprHolds rt 0 s t ∧ MovesOn s t ∧ SameMemory s t ∧ OnlyGpr s t)

/-- PREF and SYNC change nothing but PC (R670, R671). -/
def Obligations.HintsAndBarriers : Prop :=
  ∀ (s : State) (base : GprNum) (hint stype : BitVec 5) (offset : BitVec 16),
    DoesNothing (.pref base hint offset) s ∧ DoesNothing (.sync stype) s

/-- LWC1, SWC1, LDC1, SDC1 with the FPU on and plain memory behind the address; the doublewords have their low word at the lower
address, accessed first (R400, R806 to R809). DMA may move words between the two accesses (R1055): u is the state after these
moves, s itself where the schedule names none; how the schedule names them is the model's choice (log 13). -/
def Obligations.FpuLoadsStores : Prop :=
  ∀ (s : State) (base : GprNum) (ft : FprNum) (offset : BitVec 16) (pa : Word), FpuOn s →
    let va := s.readGpr base + offset.signExtend 32
    (Reaches s va .load 4 pa → MovesFgr (.lwc1 base ft offset) s ft (wordAt s pa.toNat)) ∧
    (MemoryLegal s → Reaches s va .store 4 pa →
      StoresBytes (.swc1 base ft offset) s pa.toNat (pa.toNat + 4) (s.readFgr ft) 0) ∧
    (EvenReg ft → Reaches s va .load 8 pa → PlainRam s (pa.toNat + 4) → s.between = [] →
      MovesFpr (.ldc1 base ft offset) s ft (wordAt s (pa.toNat + 4) ++ wordAt s pa.toNat)) ∧
    (EvenReg ft → MemoryLegal s → Reaches s va .store 8 pa → PlainRam s (pa.toNat + 4) → s.between = [] →
      Completes (.sdc1 base ft offset) s fun t =>
        (∀ a, Memory.read t.mem a =
          if pa.toNat ≤ a ∧ a < pa.toNat + 8 then (s.readFpr ft).extractLsb' (8 * (a - pa.toNat)) 8
          else Memory.read s.mem a) ∧
        SameGprs s t ∧ MovesOn s t ∧ OnlyMemory s t) ∧
    (∀ u, EvenReg ft → Reaches s va .load 8 pa → runBetween (pa + 4) s = .ok () u → PlainRam u (pa.toNat + 4) →
      Completes (.ldc1 base ft offset) s fun t =>
        FprHolds ft (wordAt u (pa.toNat + 4) ++ wordAt s pa.toNat) s t ∧ MovesOn s t ∧ OnlyFgr u t) ∧
    (∀ u, EvenReg ft → MemoryLegal s → Reaches s va .store 8 pa →
      runBetween (pa + 4) { s with mem := Memory.writeLanes s.mem pa.toNat 0xF ((s.readFpr ft).extractLsb' 0 32) } = .ok () u →
      PlainRam u (pa.toNat + 4) →
      Completes (.sdc1 base ft offset) s fun t =>
        (∀ a, Memory.read t.mem a =
          if pa.toNat + 4 ≤ a ∧ a < pa.toNat + 8 then (s.readFpr ft).extractLsb' (8 * (a - pa.toNat)) 8
          else Memory.read u.mem a) ∧
        SameGprs s t ∧ MovesOn s t ∧ OnlyMemory u t)

/-! ## Translation -/

/-- The unmapped segments, the user-mode check and fixed mapping (R421, R423, R430, R431). -/
def Obligations.SegmentTranslation : Prop :=
  ∀ (s : State) (va : Word) (k : Access),
    let user := isSet s.cp0.status 4 = true ∧ isSet s.cp0.status 1 = false ∧ isSet s.cp0.status 2 = false
    let cached (c : BitVec 3) : Bool := c != 2 && c != 7
    let fm := isSet s.sys.csr 0
    (user → 0x80000000 ≤ va.toNat → translate va k s = .exc (.addressError va (k == .store)) s) ∧
    (¬user → 0x80000000 ≤ va.toNat → va.toNat < 0xA0000000 →
      translate va k s = .ok (va - 0x80000000, cached s.cp0.k0) s) ∧
    (¬user → 0xA0000000 ≤ va.toNat → va.toNat < 0xC0000000 → translate va k s = .ok (va - 0xA0000000, false) s) ∧
    (va.toNat < 0x80000000 → isSet s.cp0.status 2 = true → translate va k s = .ok (va, false) s) ∧
    (fm = true → va.toNat < 0x80000000 → isSet s.cp0.status 2 = false →
      translate va k s = .ok (va + 0x40000000, cached s.cp0.ku) s) ∧
    (fm = true → ¬user → 0xC0000000 ≤ va.toNat → translate va k s = .ok (va, cached s.cp0.k23) s)

/-- The TLB in translation: Refill without a match, Invalid for V = 0, Modified for a store with D = 0, else the page frame with the
offset bits of the address (R432, R433). That the lowest entry answers where several match is the spec's decision D15 (R435). -/
def Obligations.TlbTranslation : Prop :=
  ∀ (s : State) (va : Word) (k : Access), isSet s.sys.csr 0 = false → TlbMasksLegal s →
    ((va.toNat < 0x80000000 ∧ isSet s.cp0.status 2 = false) ∨
      (0xC0000000 ≤ va.toNat ∧
        (isSet s.cp0.status 4 = false ∨ isSet s.cp0.status 1 = true ∨ isSet s.cp0.status 2 = true))) →
    ((∀ i, ¬TlbMatches s i (va.extractLsb' 13 19)) → translate va k s = .exc (.tlbRefill va (k == .store)) s) ∧
    (∀ i bits, TlbFirst s i (va.extractLsb' 13 19) → s.tlb[i].mask.toNat = 4 ^ bits - 1 →
      let n := 12 + 2 * bits
      let page := if va.getLsbD n then s.tlb[i].page1 else s.tlb[i].page0
      (page.v = false → translate va k s = .exc (.tlbInvalid va (k == .store)) s) ∧
      (page.v = true → k = .store → page.d = false → translate va k s = .exc (.mod va) s) ∧
      (page.v = true → (k = .store → page.d = true) →
        ∃ pa : Word, pa.toNat = page.pfn.toNat * 4096 / 2 ^ n * 2 ^ n + va.toNat % 2 ^ n ∧
          translate va k s = .ok (pa, page.c != 2 && page.c != 7) s))

/-! ## System instructions -/

/-- SYSCALL and BREAK raise their exceptions; a trap instruction raises Trap exactly when its condition holds, else it does nothing
(R701 to R715). -/
def Obligations.CallsAndTraps : Prop :=
  ∀ (s : State) (rs rt : GprNum) (imm : BitVec 16) (code : BitVec 10) (code20 : BitVec 20),
    let a := s.readGpr rs
    let b := s.readGpr rt
    Raises (.syscall code20) s .sys ∧ Raises (.brk code20) s .bp ∧
    TrapsIf (.teq rs rt code) s (a = b) ∧ TrapsIf (.tne rs rt code) s (a ≠ b) ∧
    TrapsIf (.tge rs rt code) s (b.toInt ≤ a.toInt) ∧ TrapsIf (.tgeu rs rt code) s (b.toNat ≤ a.toNat) ∧
    TrapsIf (.tlt rs rt code) s (a.toInt < b.toInt) ∧ TrapsIf (.tltu rs rt code) s (a.toNat < b.toNat) ∧
    TrapsIf (.teqi rs imm) s (a.toInt = imm.toInt) ∧ TrapsIf (.tnei rs imm) s (a.toInt ≠ imm.toInt) ∧
    TrapsIf (.tgei rs imm) s (imm.toInt ≤ a.toInt) ∧
    TrapsIf (.tgeiu rs imm) s ((imm.signExtend 32).toNat ≤ a.toNat) ∧
    TrapsIf (.tlti rs imm) s (a.toInt < imm.toInt) ∧
    TrapsIf (.tltiu rs imm) s (a.toNat < (imm.signExtend 32).toNat)

/-- MFC0 of every register: its value, and nothing else changes; Random is some number from Wired up (its free value: log 19), and a
number that names no register gives any value (R25 to R46, R716, U1). Which code Config.K0, K23 and KU read back where an unused
one was written is the model's choice (log 28). -/
def Obligations.Cp0Reads : Prop :=
  ∀ (s : State) (rt : GprNum), Privileged s →
    let fm := isSet s.sys.csr 0
    let reads (rd : BitVec 5) (v : Word) : Prop := Computes (.mfc0 rt rd 0) s rt v
    reads 0 s.cp0.index ∧ reads 2 s.cp0.entryLo0 ∧ reads 3 s.cp0.entryLo1 ∧ reads 4 s.cp0.context ∧
    reads 5 s.cp0.pageMask ∧ reads 6 (s.cp0.wired.setWidth 32) ∧ reads 8 s.cp0.badVAddr ∧ reads 9 s.cp0.count ∧
    reads 10 s.cp0.entryHi ∧ reads 11 s.cp0.compare ∧ reads 12 s.cp0.status ∧
    reads 13 (s.cp0.cause ||| (s.hardIp.setWidth 32 <<< 8)) ∧ reads 14 s.cp0.epc ∧ reads 15 0x000A2001 ∧
    reads 17 (s.cp0.llAddr.setWidth 32) ∧ reads 30 s.cp0.errorEpc ∧
    Computes (.mfc0 rt 16 1) s rt (if fm then 0x01D80000 else 0x1FD80000) ∧
    (Completes (.mfc0 rt 1 0) s fun t =>
      (∃ r : Word, s.cp0.wired.toNat ≤ r.toNat ∧ r.toNat ≤ 15 ∧ GprHolds rt r s t) ∧ MovesOn s t ∧ SameMemory s t ∧
      OnlyCp0 s t ∧ t.cp0 = { s.cp0 with random := t.cp0.random }) ∧
    (Completes (.mfc0 rt 16 0) s fun t =>
      (∃ v : Word, (if fm then v &&& 0x81FFFFF8 = 0x80100180 else v &&& 0xFFFFFFF8 = 0x80100080) ∧
        (s.cp0.k0 = 2 ∨ s.cp0.k0 = 3 → v.extractLsb' 0 3 = s.cp0.k0) ∧
        (fm = true → s.cp0.k23 = 2 ∨ s.cp0.k23 = 3 → v.extractLsb' 28 3 = s.cp0.k23) ∧
        (fm = true → s.cp0.ku = 2 ∨ s.cp0.ku = 3 → v.extractLsb' 25 3 = s.cp0.ku) ∧ GprHolds rt v s t) ∧ MovesOn s t ∧
      SameMemory s t ∧ OnlyCp0 s t ∧ t.cp0 = s.cp0) ∧
    (∀ (rd : BitVec 5) (sel : BitVec 3), Completes (.mfc0 rt rd sel) s fun t =>
      (∀ n, n ≠ rt → t.readGpr n = s.readGpr n) ∧ t.readGpr 0 = 0 ∧ MovesOn s t ∧ SameMemory s t ∧ OnlyCp0 s t ∧
      (rd ≠ 1 ∨ sel ≠ 0 → t.cp0 = s.cp0))

/-- MTC0 of every register: the fields that take the value, the side effects of Wired, Count and Compare, the read-only registers and
the numbers that ignore it (R718). A write that makes Count and Compare equal leaves the timer latch at 1, as R38 says of equal
values; that a write to Compare, which clears the latch, does so too is the model's reading (DEDUCED, log 41). That a write to Config in
TLB mode keeps K23 and KU is its choice (DESIGN CHOICE, log 40). -/
def Obligations.Cp0Writes : Prop :=
  ∀ (s : State) (rt : GprNum) (rd : BitVec 5) (sel : BitVec 3), Privileged s →
    let v := s.readGpr rt
    let c := s.cp0
    let fm := isSet s.sys.csr 0
    let writes (rd : BitVec 5) (sel : BitVec 3) (c' : Cp0) : Prop :=
      Completes (.mtc0 rt rd sel) s fun t =>
        t.cp0 = c' ∧ SameGprs s t ∧ MovesOn s t ∧ SameMemory s t ∧ t = { s with cp0 := t.cp0, pc := t.pc, slot := t.slot }
    writes 0 0 { c with index := (c.index &&& 0xFFFFFFF0) ||| (v &&& 0xF) } ∧
    writes 2 0 { c with entryLo0 := v &&& 0x03FFFFFF } ∧
    writes 3 0 { c with entryLo1 := v &&& 0x03FFFFFF } ∧
    writes 4 0 { c with context := (v &&& 0xFF800000) ||| (c.context &&& 0x007FFFFF) } ∧
    writes 5 0 { c with pageMask := v &&& 0x01FFE000 } ∧
    writes 6 0 { c with wired := v.extractLsb' 0 4, random := 15 } ∧
    writes 9 0 { c with count := v, timerLatch := c.timerLatch || v == c.compare } ∧
    writes 10 0 { c with entryHi := v &&& 0xFFFFE0FF } ∧
    writes 11 0 { c with compare := v, timerLatch := v == c.count } ∧
    writes 12 0 { c with status := (v &&& 0xF040FF17) ||| (v &&& c.status &&& 0x00280000) } ∧
    writes 13 0 { c with cause := (v &&& 0x00800380) ||| (c.cause &&& 0xFF7FFC7F) } ∧
    writes 14 0 { c with epc := v } ∧
    writes 16 0 (if fm then { c with k0 := v.extractLsb' 0 3, k23 := v.extractLsb' 28 3, ku := v.extractLsb' 25 3 }
      else { c with k0 := v.extractLsb' 0 3 }) ∧
    writes 30 0 { c with errorEpc := v } ∧
    (sel ≠ 0 ∨ rd ∈ [1, 7, 8, 15, 17, 18, 19, 20, 21, 22, 23, 24, 25, 26, 27, 28, 29, 31] → writes rd sel c)

/-- In User mode with Status.CU0 = 0 every instruction of CP0 and CACHE raises Coprocessor Unusable (R700). -/
def Obligations.Cp0Unusable : Prop :=
  ∀ (s : State) (rt base : GprNum) (rd op : BitVec 5) (sel : BitVec 3) (offset : BitVec 16) (code : BitVec 19),
    ¬Privileged s →
    ∀ i : Instr, i ∈ [.mfc0 rt rd sel, .mtc0 rt rd sel, .eret, .tlbp, .tlbr, .tlbwi, .tlbwr, .cache base op offset, .wait code] →
      Raises i s .cpu

/-- TLBR and TLBP: what TLBR leaves in PageMask, EntryHi, EntryLo0, EntryLo1, and TLBP in Index; with fixed mapping TLBR does nothing
and TLBP sets Index.P (R720, R721, D54); that it leaves Index.Index then is the model's choice (log 34). The lowest of several
matches is decision D15; that TLBR reads back all twelve mask bits of every entry, where R33 and R65 have a compressed form, is the
model's choice (DESIGN CHOICE, log 40). -/
def Obligations.TlbReadAndProbe : Prop :=
  ∀ s : State, Privileged s →
    let i : Fin 16 := (s.cp0.index.extractLsb' 0 4).toFin
    let e := s.tlb[i]
    let lo (p : TlbPage) : Word :=
      BitVec.ofNat 32 (p.pfn.toNat * 64 + p.c.toNat * 8 + p.d.toNat * 4 + p.v.toNat * 2 + e.g.toNat)
    let changes (j : Instr) (P : State → Prop) : Prop :=
      Completes j s fun t => P t ∧ SameGprs s t ∧ MovesOn s t ∧ SameMemory s t ∧ OnlyCp0 s t
    let fm := isSet s.sys.csr 0
    (fm = false → changes .tlbr fun t =>
      t.cp0 = { s.cp0 with
        pageMask := BitVec.ofNat 32 (e.mask.toNat * 8192), entryHi := e.vpn2 ++ 0#5 ++ e.asid
        entryLo0 := lo e.page0, entryLo1 := lo e.page1 }) ∧
    (fm = true → DoesNothing .tlbr s) ∧
    (fm = false → TlbMasksLegal s →
      (∀ j, TlbFirst s j (s.cp0.entryHi.extractLsb' 13 19) →
        changes .tlbp fun t => t.cp0 = { s.cp0 with index := BitVec.ofNat 32 j.val }) ∧
      ((∀ j, ¬TlbMatches s j (s.cp0.entryHi.extractLsb' 13 19)) →
        changes .tlbp fun t => isSet t.cp0.index 31 = true ∧ t.cp0 = { s.cp0 with index := t.cp0.index })) ∧
    (fm = true → changes .tlbp fun t => t.cp0 = { s.cp0 with index := s.cp0.index ||| 0x80000000 })

/-- TLBWI writes entry Index, TLBWR some entry from Wired up (its free value: log 19); a new entry that would match together with
another one than that it replaces raises Machine Check with Status.TS set and writes nothing; with fixed mapping both do nothing
(R722 to R724, D53, D54). That all twelve bits of every PageMask are stored, an illegal one too, and compared as they stand is the
model's choice (DESIGN CHOICE, log 40). -/
def Obligations.TlbWrites : Prop :=
  ∀ s : State, Privileged s →
    let page (lo : Word) : TlbPage :=
      { pfn := lo.extractLsb' 6 20, c := if lo.extractLsb' 3 3 = 2#3 ∨ lo.extractLsb' 3 3 = 7#3 then 2 else 3,
        d := lo.getLsbD 2, v := lo.getLsbD 1 }
    let new : TlbEntry :=
      { init := true, mask := s.cp0.pageMask.extractLsb' 13 12, vpn2 := s.cp0.entryHi.extractLsb' 13 19,
        g := s.cp0.entryLo0.getLsbD 0 && s.cp0.entryLo1.getLsbD 0, asid := s.cp0.entryHi.extractLsb' 0 8,
        page0 := page s.cp0.entryLo0, page1 := page s.cp0.entryLo1 }
    let conflict (i : Fin 16) : Prop := ∃ j, j ≠ i ∧ TlbConflict new s.tlb[j]
    let i : Fin 16 := (s.cp0.index.extractLsb' 0 4).toFin
    let check (u : State) : State := { u with cp0 := { u.cp0 with status := u.cp0.status ||| 0x00200000 } }
    let fm := isSet s.sys.csr 0
    (fm = false → conflict i → exec .tlbwi s = .next (takeException .mcheck (check s))) ∧
    (fm = false → ¬conflict i → Completes .tlbwi s fun t =>
      t.tlb = s.tlb.set i new ∧ SameGprs s t ∧ MovesOn s t ∧ SameMemory s t ∧
      t = { s with tlb := t.tlb, pc := t.pc, slot := t.slot }) ∧
    (fm = false → ∃ (j : Fin 16) (u : State), s.cp0.wired.toNat ≤ j.val ∧
      u = { s with cp0 := { s.cp0 with random := u.cp0.random }, freeCtr := u.freeCtr } ∧
      (conflict j → exec .tlbwr s = .next (takeException .mcheck (check u))) ∧
      (¬conflict j → Completes .tlbwr s fun t =>
        t.tlb = s.tlb.set j new ∧ SameGprs s t ∧ MovesOn s t ∧ SameMemory s t ∧
        t = { u with tlb := t.tlb, pc := t.pc, slot := t.slot })) ∧
    (fm = false → (∀ j : Fin 16, s.cp0.wired.toNat ≤ j.val → ¬conflict j) → Completes .tlbwr s fun t =>
      (∃ j : Fin 16, s.cp0.wired.toNat ≤ j.val ∧ t.tlb = s.tlb.set j new) ∧ SameGprs s t ∧ MovesOn s t ∧ SameMemory s t ∧
      t = { s with
        tlb := t.tlb, cp0 := { s.cp0 with random := t.cp0.random }, freeCtr := t.freeCtr, pc := t.pc, slot := t.slot }) ∧
    (fm = true → DoesNothing .tlbwi s ∧ DoesNothing .tlbwr s)

/-- CACHE: Index Invalidate, Hit Invalidate and Fill of the instruction cache, with the exceptions their translation answers, and the
other operations, which do nothing (R730, D6). That Hit Invalidate and Fill translate as a load, and so raise what a load would, is
the model's choice (DESIGN CHOICE, log 21): R730 says only that they may raise TLB exceptions. The Fill is from plain memory; what it
does to the line by the mode of the cache's controller, and that it ends the injected errors of the line, is the model's reading of
R283 and R284 (DEDUCED, log 23). -/
def Obligations.CacheOperations : Prop :=
  ∀ (s : State) (base : GprNum) (op : BitVec 5) (offset : BitVec 16), Privileged s →
    let va := s.readGpr base + offset.signExtend 32
    let line := va.toNat / 16 % 1024
    let drops (t : State) : Prop :=
      (t.cacheLine line).valid = false ∧ (∀ n, n ≠ line → t.cacheLine n = s.cacheLine n) ∧ SameGprs s t ∧ MovesOn s t ∧
      SameMemory s t ∧ t = { s with icache := t.icache, pc := t.pc, slot := t.slot }
    (Completes (.cache base 0 offset) s drops) ∧
    (∀ pa c, translate va .load s = .ok (pa, c) s →
      ((s.cacheLine line).valid = true → (s.cacheLine line).tag = pa.extractLsb' 14 18 →
        Completes (.cache base 0x10 offset) s drops) ∧
      ((s.cacheLine line).valid = false ∨ (s.cacheLine line).tag ≠ pa.extractLsb' 14 18 →
        DoesNothing (.cache base 0x10 offset) s) ∧
      ((∀ k, k < 4 → PlainRam s (pa.toNat / 16 * 16 + 4 * k)) →
        let w (k : Nat) : Word := wordAt s (pa.toNat / 16 * 16 + 4 * k)
        let old := s.cacheLine line
        let filled : CacheLine := { old with
          valid := true, tag := pa.extractLsb' 14 18, d0 := w 0, d1 := w 1, d2 := w 2, d3 := w 3 }
        let fills (new : CacheLine → Prop) (ended : Bool) : Prop :=
          Completes (.cache base 0x14 offset) s fun t =>
            new (t.cacheLine line) ∧ (∀ n, n ≠ line → t.cacheLine n = s.cacheLine n) ∧ SameGprs s t ∧ MovesOn s t ∧
            SameMemory s t ∧
            t = { s with
              icache := t.icache, pc := t.pc, slot := t.slot, freeCtr := t.freeCtr
              ecc := if ended then
                { s.ecc with cacheFaults := s.ecc.cacheFaults.filter fun f => f.index.toNat / 4 != line } else s.ecc }
        (s.ecc.icache.mode = 0 → fills (fun l => l = filled) true) ∧
        (s.ecc.icache.mode = 1 →
          fills (fun l => l = { filled with h0 := l.h0, h1 := l.h1, h2 := l.h2, h3 := l.h3 }) true) ∧
        (s.ecc.icache.mode = 3 → exec (.cache base 0x14 offset) s = .fault .eccModeReserved) ∧
        (s.ecc.icache.mode = 2 →
          fills (fun l => l = { old with
            h0 := (w 0).extractLsb' 0 7, h1 := (w 1).extractLsb' 0 7, h2 := (w 2).extractLsb' 0 7
            h3 := (w 3).extractLsb' 0 7 }) false))) ∧
    (∀ e, translate va .load s = .exc e s → Raises (.cache base 0x10 offset) s e ∧ Raises (.cache base 0x14 offset) s e) ∧
    (op ≠ 0 → op ≠ 0x10 → op ≠ 0x14 → DoesNothing (.cache base op offset) s)

/-- WAIT stops fetching: the flag is set and PC points behind it (R731, D7). A waiting CPU with no request through its mask and no
NMI executes nothing, and the clock goes on (R990), by the one tick of log 14. -/
def Obligations.WaitForInterrupt : Prop :=
  (∀ (s : State) (code : BitVec 19), Privileged s → s.slot = .none →
    exec (.wait code) s = .next { s with waiting := true, pc := s.pc + 4 }) ∧
  (∀ s : State, CpuNext s → s.waiting = true → s.nmiPending = false → s.ip &&& s.cp0.status.extractLsb' 8 8 = 0 →
    step s = .next (clkTick s.endStep))

/-! ## The FPU -/

/-- With Status.CU1 = 0 every FPU instruction, and MOVF and MOVT, raise Coprocessor Unusable in every mode (R750, D8). With it 1, an
odd register number in an arithmetic, conversion, compare or move instruction, LDC1 or SDC1 is refused (R753, U7). -/
def Obligations.FpuAccess : Prop :=
  ∀ (i : Instr) (s : State), NeedsFpu i →
    (¬FpuOn s → Raises i s .cpu) ∧ (FpuOn s → i.wellFormed = false → exec i s = .refused .oddFpr)

/-- MOV, MOVF, MOVT, MOVN, MOVZ in both formats: bit copies that change no FCSR bit; when the test fails the destination keeps its
value (R757, R779, R780, R816 to R824). -/
def Obligations.FpuMoves : Prop :=
  ∀ (s : State) (rt : GprNum) (fs fd : FprNum) (cc : BitVec 3), FpuOn s → EvenReg fs → EvenReg fd →
    let code := s.fcsr.getLsbD (fccPlace cc)
    let zero := s.readGpr rt = 0
    MovesFgr (.movS fs fd) s fd (s.readFgr fs) ∧
    MovesFpr (.movD fs fd) s fd (s.readFpr fs) ∧
    MovesFgr (.movfS cc fs fd) s fd (s.readFgr (if code = false then fs else fd)) ∧
    MovesFpr (.movfD cc fs fd) s fd (s.readFpr (if code = false then fs else fd)) ∧
    MovesFgr (.movtS cc fs fd) s fd (s.readFgr (if code = true then fs else fd)) ∧
    MovesFpr (.movtD cc fs fd) s fd (s.readFpr (if code = true then fs else fd)) ∧
    (zero → MovesFgr (.movnS rt fs fd) s fd (s.readFgr fd) ∧ MovesFpr (.movnD rt fs fd) s fd (s.readFpr fd) ∧
      MovesFgr (.movzS rt fs fd) s fd (s.readFgr fs) ∧ MovesFpr (.movzD rt fs fd) s fd (s.readFpr fs)) ∧
    (¬zero → MovesFgr (.movnS rt fs fd) s fd (s.readFgr fs) ∧ MovesFpr (.movnD rt fs fd) s fd (s.readFpr fs) ∧
      MovesFgr (.movzS rt fs fd) s fd (s.readFgr fd) ∧ MovesFpr (.movzD rt fs fd) s fd (s.readFpr fd))

/-- MFC1, MTC1, CFC1 and CTC1: the register views of FCSR, and FPE when a value that CTC1 writes has a trapping Cause bit (R799 to
R802, R764, R54 to R61); the check of a number that names no register is the model's choice (log 35). -/
def Obligations.FpuTransfers : Prop :=
  ∀ (s : State) (rt : GprNum) (fs : FprNum), FpuOn s →
    let v := s.readGpr rt
    let f := s.fcsr
    let writes (n : BitVec 5) (w : Word) : Prop :=
      ((isSet w 17 = true ∨ ∃ k, k < 5 ∧ isSet w (12 + k) = true ∧ isSet w (7 + k) = true) →
        exec (.ctc1 rt n) s = .next (takeException .fpe { s with fcsr := w })) ∧
      (isSet w 17 = false → (∀ k, k < 5 → isSet w (12 + k) = true → isSet w (7 + k) = false) →
        Completes (.ctc1 rt n) s fun t => t.fcsr = w ∧ t.fgr = s.fgr ∧ SameGprs s t ∧ MovesOn s t ∧ SameMemory s t ∧ OnlyFpu s t)
    Computes (.mfc1 rt fs) s rt (s.readFgr fs) ∧
    MovesFgr (.mtc1 rt fs) s fs v ∧
    Computes (.cfc1 rt 0) s rt 0x00030000 ∧
    Computes (.cfc1 rt 25) s rt (((f >>> 24) &&& 0xFE) ||| ((f >>> 23) &&& 1)) ∧
    Computes (.cfc1 rt 26) s rt (f &&& 0x0003F07C) ∧
    Computes (.cfc1 rt 28) s rt ((f &&& 0x00000F83) ||| ((f >>> 22) &&& 4)) ∧
    Computes (.cfc1 rt 31) s rt f ∧
    (Completes (.cfc1 rt fs) s fun t =>
      (∀ n, n ≠ rt → t.readGpr n = s.readGpr n) ∧ t.cp0 = s.cp0 ∧ MovesOn s t ∧ SameMemory s t ∧ OnlyCp0 s t) ∧
    writes 31 (v &&& 0xFF83FFFF) ∧
    writes 25 ((f &&& 0x017FFFFF) ||| ((v &&& 0xFE) <<< 24) ||| ((v &&& 1) <<< 23)) ∧
    writes 26 ((f &&& 0xFFFC0F83) ||| (v &&& 0x0003F07C)) ∧
    writes 28 ((f &&& 0xFEFFF07C) ||| (v &&& 0x00000F83) ||| ((v &&& 4) <<< 22)) ∧
    (fs ≠ 25 → fs ≠ 26 → fs ≠ 28 → fs ≠ 31 → writes fs f)

/-- The arithmetic instructions complete as R760 says with the result and the conditions of their operation: what trapped and
untrapped conditions do to FCSR and to the registers (R760, R765 to R778). ABS and NEG deliver the pattern with its sign bit clear
or inverted, and for a NaN what R754 says. The other operations are the subject of FpuRounding, FpuRangeLimits and
FpuSpecialOperands. -/
def Obligations.FpuArithmetic : Prop :=
  ∀ (s : State) (ft fs fd : FprNum), FpuOn s → EvenReg ft → EvenReg fs → EvenReg fd →
    let v := s.fpEnv
    let a := (s.readFgr fs).toNat
    let b := (s.readFgr ft).toNat
    let x := (s.readFpr fs).toNat
    let y := (s.readFpr ft).toNat
    FinishesS (.addS ft fs fd) s fd (FpFmt.single.add v false a b) ∧
    FinishesD (.addD ft fs fd) s fd (FpFmt.double.add v false x y) ∧
    FinishesS (.subS ft fs fd) s fd (FpFmt.single.add v true a b) ∧
    FinishesD (.subD ft fs fd) s fd (FpFmt.double.add v true x y) ∧
    FinishesS (.mulS ft fs fd) s fd (FpFmt.single.mul v a b) ∧
    FinishesD (.mulD ft fs fd) s fd (FpFmt.double.mul v x y) ∧
    FinishesS (.divS ft fs fd) s fd (FpFmt.single.div v a b) ∧
    FinishesD (.divD ft fs fd) s fd (FpFmt.double.div v x y) ∧
    FinishesS (.sqrtS fs fd) s fd (FpFmt.single.sqrt v a) ∧
    FinishesD (.sqrtD fs fd) s fd (FpFmt.double.sqrt v x) ∧
    FinishesS (.absS fs fd) s fd (signResult .single v.nanEncoding a (s.readFgr fs &&& 0x7FFFFFFF).toNat) ∧
    FinishesD (.absD fs fd) s fd (signResult .double v.nanEncoding x (s.readFpr fs &&& 0x7FFFFFFFFFFFFFFF).toNat) ∧
    FinishesS (.negS fs fd) s fd (signResult .single v.nanEncoding a (s.readFgr fs ^^^ 0x80000000).toNat) ∧
    FinishesD (.negD fs fd) s fd (signResult .double v.nanEncoding x (s.readFpr fs ^^^ 0x8000000000000000).toNat)

/-- Sums, differences, products, quotients, square roots and conversions of finite numbers are the exact value rounded once, Inexact
exactly when rounding changed it, wherever the exact value lies between the smallest normal and the largest number of the format
(R57, R752, R755, R765 to R774, R781 to R784). Denormal operands are those the parameters admit (U61, log 18). -/
def Obligations.FpuRounding : Prop :=
  ∀ (f : FpFmt) (v : FpEnv) (r : ℝ) (x : FpResult), f ∈ fpFormats → f.Gives v r x → f.Delivers v.rm r x

/-- What a result outside the normal range delivers; y is the exact value r rounded before the range is looked at, w its value
(R755, R756, R763, R764). Overflow: O, with I where it is not enabled, and the result of the rounding mode. A tiny result: with
FS = 1 a zero of the sign of r with U and I; with FS = 0 Unimplemented Operation, or by the parameter fpu_denormal_result the
rounded denormal, with I when it is inexact and U when it is or is enabled; that FS = 1 flushes under that parameter's value `ieee`
too is the model's choice (DESIGN CHOICE, log 27). A denormal operand gives E where the parameter
fpu_denormal_operand says so (U61; log 18). That E stands alone and comes before every other condition (the root of a negative
denormal, a denormal divided by 0), that a trapped overflow gives O without I, and U and I of a delivered denormal are the
model's reading (DEDUCED, log 27), which R756, R763 and R764 do not state. -/
def Obligations.FpuRangeLimits : Prop :=
  (∀ (f : FpFmt) (v : FpEnv) (r : ℝ) (x : FpResult) (y : Nat) (neg : Bool), f ∈ fpFormats → f.Gives v r x → r ≠ 0 →
    f.unbounded.Rounds v.rm r y → (neg = true ↔ r < 0) →
    let w := f.unbounded.value y
    (f.value (f.largest false) < |w| →
      (v.enableO = true → x.conds = condO) ∧
      (v.enableO = false →
        x.conds = condO ||| condI ∧
        x.bits = if v.rm = 0 ∨ (v.rm = 2 ∧ neg = false) ∨ (v.rm = 3 ∧ neg = true) then f.infinity neg else f.largest neg)) ∧
    (|w| < (2 : ℚ) ^ f.eMin →
      (v.fs = true → x = { conds := condU ||| condI, bits := f.zero neg }) ∧
      (v.fs = false → v.denormalResult = .unimplemented → x.conds = condE) ∧
      (v.fs = false → v.denormalResult = .ieee →
        f.Rounds v.rm r x.bits ∧
        ((f.value x.bits : ℝ) = r → x.conds = if v.enableU then condU else 0) ∧
        ((f.value x.bits : ℝ) ≠ r → x.conds = condU ||| condI)))) ∧
  (∀ (f g : FpFmt) (v : FpEnv) (x y : Nat) (rm : BitVec 2) (sub : Bool), f ∈ fpFormats → v.denormalOperand = .unimplemented →
    x / 2 ^ f.fracBits % 2 ^ f.expBits = 0 → x % 2 ^ f.fracBits ≠ 0 → (f.unpack v.nanEncoding y).IsFinite →
    ∀ r ∈ [f.add v sub x y, f.add v sub y x, f.mul v x y, f.mul v y x, f.div v x y, f.div v y x, f.sqrt v x, f.convert g v x,
      f.toWord v rm x], r.conds = condE)

/-- Special operands: a NaN gives the default QNaN, with V when one is signalling; the invalid operations give V and the default
QNaN; a division by zero Z and an infinity; infinities and zeros else are exact; the sign of an exact zero sum or difference;
conversions of NaNs, infinities and zeros, and of the word 0 (R754, R755, R761, R762, R781 to R784). That quiet NaN operands give
the default QNaN is the choice U60 of R754. -/
def Obligations.FpuSpecialOperands : Prop :=
  ∀ (f : FpFmt) (v : FpEnv) (x y : Nat), f ∈ fpFormats → f.stopsOn v x = false → f.stopsOn v y = false →
    let a := f.operand v x
    let b := f.operand v y
    let quiet : Nat := quietNan f v.nanEncoding
    let invalid : FpResult := { conds := condV, bits := quiet }
    let exact (z : Nat) : FpResult := { conds := 0, bits := z }
    let isNan (z : FpVal) : Prop := z = .nan true ∨ z = .nan false
    (isNan a ∨ isNan b →
      let r : FpResult := { conds := if a = .nan true ∨ b = .nan true then condV else 0, bits := quiet }
      f.add v false x y = r ∧ f.add v true x y = r ∧ f.mul v x y = r ∧ f.div v x y = r) ∧
    (isNan a → f.sqrt v x = { conds := if a = .nan true then condV else 0, bits := quiet }) ∧
    (∀ na nb, a = .inf na → b = .inf nb →
      f.add v false x y = (if na = nb then exact (f.infinity na) else invalid) ∧
      f.add v true x y = (if na = nb then invalid else exact (f.infinity na)) ∧
      f.mul v x y = exact (f.infinity (na ^^ nb)) ∧ f.div v x y = invalid) ∧
    (∀ na nb m e, a = .inf na → b = .fin nb m e →
      f.add v false x y = exact (f.infinity na) ∧ f.add v true x y = exact (f.infinity na) ∧
      f.mul v x y = (if m = 0 then invalid else exact (f.infinity (na ^^ nb))) ∧
      f.div v x y = exact (f.infinity (na ^^ nb))) ∧
    (∀ na nb m e, a = .fin na m e → b = .inf nb →
      f.add v false x y = exact (f.infinity nb) ∧ f.add v true x y = exact (f.infinity (!nb)) ∧
      f.mul v x y = (if m = 0 then invalid else exact (f.infinity (na ^^ nb))) ∧
      f.div v x y = exact (f.zero (na ^^ nb))) ∧
    (∀ na nb m e k, a = .fin na m e → b = .fin nb 0 k →
      f.div v x y = (if m = 0 then invalid else { conds := condZ, bits := f.infinity (na ^^ nb) })) ∧
    (∀ na nb m n e k, a = .fin na m e → b = .fin nb n k → m = 0 ∨ n = 0 →
      f.mul v x y = exact (f.zero (na ^^ nb)) ∧ (n ≠ 0 → f.div v x y = exact (f.zero (na ^^ nb)))) ∧
    (∀ na nb m n e k, a = .fin na m e → b = .fin nb n k → a.rat + b.rat = 0 →
      f.add v false x y = exact (f.zero (if na = nb then na else v.rm == 3))) ∧
    (∀ na nb m n e k, a = .fin na m e → b = .fin nb n k → a.rat - b.rat = 0 →
      f.add v true x y = exact (f.zero (if na = nb then v.rm == 3 else na))) ∧
    (∀ g ∈ fpFormats,
      (isNan a →
        f.convert g v x = { conds := if a = .nan true then condV else 0, bits := quietNan g v.nanEncoding }) ∧
      (∀ neg, a = .inf neg → f.convert g v x = exact (g.infinity neg)) ∧
      (∀ neg e, a = .fin neg 0 e → f.convert g v x = exact (g.zero neg))) ∧
    f.ofWord v 0 = exact 0 ∧
    (∀ neg, a = .inf neg → f.sqrt v x = (if neg then invalid else exact (f.infinity false))) ∧
    (∀ neg m e, a = .fin neg m e → (m = 0 → f.sqrt v x = exact (f.zero neg)) ∧ (m ≠ 0 → neg = true → f.sqrt v x = invalid))

/-- ToW: the value rounded to an integer in the mode of the instruction, Inexact exactly when rounding changed it; Invalid Operation
and 7FFFFFFF when 32 signed bits do not hold it, for infinities and for NaNs (R57, R761, R787). -/
def Obligations.FpuToInteger : Prop :=
  ∀ (f : FpFmt) (v : FpEnv) (rm : BitVec 2) (x : Nat), f ∈ fpFormats → f.stopsOn v x = false →
    let a := f.operand v x
    let invalid : FpResult := { conds := condV, bits := 0x7FFFFFFF }
    (a.IsFinite → ∃ n : ℤ, RoundsToInt rm a.rat n ∧
      f.toWord v rm x =
        if -(2 ^ 31) ≤ n ∧ n < 2 ^ 31 then
          { conds := if (n : ℚ) = a.rat then 0 else condI, bits := (BitVec.ofInt 32 n).toNat }
        else invalid) ∧
    (¬a.IsFinite → f.toWord v rm x = invalid)

/-- The conversions complete as R760 says with the result and the conditions of their operation; ROUND, TRUNC, CEIL, FLOOR use
modes 0 to 3 whatever FCSR.RM (R760, R781 to R798). -/
def Obligations.FpuConversions : Prop :=
  ∀ (s : State) (fs fd : FprNum), FpuOn s → EvenReg fs → EvenReg fd →
    let v := s.fpEnv
    let a := (s.readFgr fs).toNat
    let x := (s.readFpr fs).toNat
    let rm := s.fcsr.extractLsb' 0 2
    FinishesS (.cvtSD fs fd) s fd (FpFmt.double.convert .single v x) ∧
    FinishesS (.cvtSW fs fd) s fd (FpFmt.single.ofWord v (s.readFgr fs)) ∧
    FinishesD (.cvtDS fs fd) s fd (FpFmt.single.convert .double v a) ∧
    FinishesD (.cvtDW fs fd) s fd (FpFmt.double.ofWord v (s.readFgr fs)) ∧
    FinishesS (.cvtWS fs fd) s fd (FpFmt.single.toWord v rm a) ∧
    FinishesS (.cvtWD fs fd) s fd (FpFmt.double.toWord v rm x) ∧
    FinishesS (.roundWS fs fd) s fd (FpFmt.single.toWord v 0 a) ∧
    FinishesS (.roundWD fs fd) s fd (FpFmt.double.toWord v 0 x) ∧
    FinishesS (.truncWS fs fd) s fd (FpFmt.single.toWord v 1 a) ∧
    FinishesS (.truncWD fs fd) s fd (FpFmt.double.toWord v 1 x) ∧
    FinishesS (.ceilWS fs fd) s fd (FpFmt.single.toWord v 2 a) ∧
    FinishesS (.ceilWD fs fd) s fd (FpFmt.double.toWord v 2 x) ∧
    FinishesS (.floorWS fs fd) s fd (FpFmt.single.toWord v 3 a) ∧
    FinishesS (.floorWD fs fd) s fd (FpFmt.double.toWord v 3 x)

/-- The 32 compares: the condition code from the order of the two numbers, Invalid Operation as R825 says, completion by R760
(R825 to R841). -/
def Obligations.FpuCompares : Prop :=
  ∀ (s : State) (ft fs : FprNum) (cc : BitVec 3), FpuOn s → EvenReg ft → EvenReg fs →
    let a := FpFmt.single.unpack s.params.nanEncoding (s.readFgr fs).toNat
    let b := FpFmt.single.unpack s.params.nanEncoding (s.readFgr ft).toNat
    let x := FpFmt.double.unpack s.params.nanEncoding (s.readFpr fs).toNat
    let y := FpFmt.double.unpack s.params.nanEncoding (s.readFpr ft).toNat
    (ComparesAs (.cFS ft fs cc) s 0 cc a b ∧ ComparesAs (.cUnS ft fs cc) s 1 cc a b ∧
      ComparesAs (.cEqS ft fs cc) s 2 cc a b ∧ ComparesAs (.cUeqS ft fs cc) s 3 cc a b ∧
      ComparesAs (.cOltS ft fs cc) s 4 cc a b ∧ ComparesAs (.cUltS ft fs cc) s 5 cc a b ∧
      ComparesAs (.cOleS ft fs cc) s 6 cc a b ∧ ComparesAs (.cUleS ft fs cc) s 7 cc a b ∧
      ComparesAs (.cSfS ft fs cc) s 8 cc a b ∧ ComparesAs (.cNgleS ft fs cc) s 9 cc a b ∧
      ComparesAs (.cSeqS ft fs cc) s 10 cc a b ∧ ComparesAs (.cNglS ft fs cc) s 11 cc a b ∧
      ComparesAs (.cLtS ft fs cc) s 12 cc a b ∧ ComparesAs (.cNgeS ft fs cc) s 13 cc a b ∧
      ComparesAs (.cLeS ft fs cc) s 14 cc a b ∧ ComparesAs (.cNgtS ft fs cc) s 15 cc a b) ∧
    (ComparesAs (.cFD ft fs cc) s 0 cc x y ∧ ComparesAs (.cUnD ft fs cc) s 1 cc x y ∧
      ComparesAs (.cEqD ft fs cc) s 2 cc x y ∧ ComparesAs (.cUeqD ft fs cc) s 3 cc x y ∧
      ComparesAs (.cOltD ft fs cc) s 4 cc x y ∧ ComparesAs (.cUltD ft fs cc) s 5 cc x y ∧
      ComparesAs (.cOleD ft fs cc) s 6 cc x y ∧ ComparesAs (.cUleD ft fs cc) s 7 cc x y ∧
      ComparesAs (.cSfD ft fs cc) s 8 cc x y ∧ ComparesAs (.cNgleD ft fs cc) s 9 cc x y ∧
      ComparesAs (.cSeqD ft fs cc) s 10 cc x y ∧ ComparesAs (.cNglD ft fs cc) s 11 cc x y ∧
      ComparesAs (.cLtD ft fs cc) s 12 cc x y ∧ ComparesAs (.cNgeD ft fs cc) s 13 cc x y ∧
      ComparesAs (.cLeD ft fs cc) s 14 cc x y ∧ ComparesAs (.cNgtD ft fs cc) s 15 cc x y)

/-! ## Exceptions -/

/-- Entering an exception: EPC and BD unless EXL was set, the code, EXL, the vector by BEV, IV and EXL, and nothing else but the
address registers, which only TLB and address exceptions write (R956, R960, R961; that nothing else changes is a sentence the spec
marks as derived). The model's field excTaken tells an exception of an instruction from an interrupt (log 12). -/
def Obligations.ExceptionEntry : Prop :=
  ∀ (e : Exc) (s : State),
    let t := takeException e s
    let exl := isSet s.cp0.status 1
    let base : Word := if isSet s.cp0.status 22 then 0xBFC00200 else 0x80000000
    let refill := ∃ va st, e = .tlbRefill va st
    let addressed := ∃ va st, e = .mod va ∨ e = .tlbRefill va st ∨ e = .tlbInvalid va st ∨ e = .addressError va st
    let code : BitVec 5 := match e with
      | .int => 0 | .mod _ => 1 | .tlbRefill _ st => (if st then 3 else 2) | .tlbInvalid _ st => (if st then 3 else 2)
      | .addressError _ st => (if st then 5 else 4) | .sys => 8 | .bp => 9 | .ri => 10 | .cpu => 11 | .ov => 12 | .tr => 13
      | .fpe => 15 | .mcheck => 24
    (exl = false → t.cp0.epc = (if s.slot = .none then s.pc else s.pc - 4) ∧
      isSet t.cp0.cause 31 = (s.slot != .none)) ∧
    (exl = true → t.cp0.epc = s.cp0.epc ∧ isSet t.cp0.cause 31 = isSet s.cp0.cause 31) ∧
    t.cp0.cause.extractLsb' 2 5 = code ∧ t.cp0.cause &&& 0x7FFFFF83 = s.cp0.cause &&& 0x7FFFFF83 ∧
    t.cp0.status = s.cp0.status ||| 2 ∧
    (exl = false → refill → t.pc = base) ∧
    (exl = false → e = .int → isSet s.cp0.cause 23 = true → t.pc = base + 0x200) ∧
    (exl = true ∨ (¬refill ∧ ¬(e = .int ∧ isSet s.cp0.cause 23 = true)) → t.pc = base + 0x180) ∧
    t.slot = .none ∧ t.waiting = false ∧ (t.excTaken = true ↔ e ≠ .int) ∧
    t = { s with
      cp0 := t.cp0, pc := t.pc, slot := t.slot, waiting := t.waiting, freeCtr := t.freeCtr, excTaken := t.excTaken } ∧
    t.cp0 = { s.cp0 with
      epc := t.cp0.epc, cause := t.cp0.cause, status := t.cp0.status, badVAddr := t.cp0.badVAddr
      context := t.cp0.context, entryHi := t.cp0.entryHi, entryLo0 := t.cp0.entryLo0, entryLo1 := t.cp0.entryLo1 } ∧
    (¬addressed → t.cp0.badVAddr = s.cp0.badVAddr ∧ t.cp0.context = s.cp0.context ∧ t.cp0.entryHi = s.cp0.entryHi ∧
      t.cp0.entryLo0 = s.cp0.entryLo0 ∧ t.cp0.entryLo1 = s.cp0.entryLo1)

/-- The address registers of TLB exceptions and address errors (R965, R966, R967, R972). EntryLo0 and EntryLo1 are free after them
(U2, log 36). -/
def Obligations.ExceptionAddresses : Prop :=
  ∀ (s : State) (va : Word) (st : Bool),
    (∀ e : Exc, e = .mod va ∨ e = .tlbRefill va st ∨ e = .tlbInvalid va st →
      let c := (takeException e s).cp0
      c.badVAddr = va ∧ c.context.extractLsb' 4 19 = va.extractLsb' 13 19 ∧
      c.context &&& 0xFF80000F = s.cp0.context &&& 0xFF80000F ∧
      c.entryHi.extractLsb' 13 19 = va.extractLsb' 13 19 ∧ c.entryHi &&& 0x1FFF = s.cp0.entryHi &&& 0x1FFF) ∧
    (let c := (takeException (.addressError va st) s).cp0
     c.badVAddr = va ∧ c.context &&& 0xFF80000F = s.cp0.context &&& 0xFF80000F ∧
     c.entryHi &&& 0x1FFF = s.cp0.entryHi &&& 0x1FFF)

/-- An NMI that is pending is taken at the boundary whatever Status says: BEV, NMI, ERL set and TS clear, ErrorEPC, the reset vector,
and nothing else of the chip (R957, R990); the end of the step (endStep: logs 12, 13, 22), the CLK tick after it (log 14) and the
tracking of the strict profile (log 17) are the model's. -/
def Obligations.NonMaskableInterrupt : Prop :=
  ∀ s : State, CpuNext s → s.nmiPending = true →
    ∃ h, step s = .next (clkTick (State.endStep { s with
      cp0 := { s.cp0 with
        status := (s.cp0.status &&& 0xFFDFFFFF) ||| 0x00480004
        errorEpc := if s.slot = .none then s.pc else s.pc - 4 }
      pc := 0xBFC00000, slot := .none, waiting := false, nmiPending := false, hazard := h }))

/-- An enabled interrupt is taken at the boundary instead of the instruction at PC, unless that instruction raises an exception of its
own, which is then taken (R990). That a dry run of the whole instruction decides, in the field excTaken, is the model's choice (logs
12, 16), as is the interrupt in front of an instruction the model stops on (log 16); under the strict profile the statement is about
the boundaries where recognition cannot be late (R1236, log 17); the step ends as in log 13, with one CLK tick (log 14). -/
def Obligations.InterruptTaken : Prop :=
  ∀ s : State, CpuNext s → s.nmiPending = false → s.mayDelayInterrupt = false →
    s.ip &&& s.cp0.status.extractLsb' 8 8 ≠ 0 → isSet s.cp0.status 0 = true → isSet s.cp0.status 1 = false →
    isSet s.cp0.status 2 = false →
    let u := { s with waiting := false, excTaken := false }
    let interrupted := step s = .next (clkTick (takeException .int u.enterHandler).endStep)
    (∀ t, runInstr u = .next t → t.excTaken = true → step s = .next (clkTick t.endStep)) ∧
    (∀ t, runInstr u = .next t → t.excTaken = false → interrupted) ∧
    ((∀ t, runInstr u ≠ .next t) → interrupted)

/-- The words of a fetch that are no instruction, and the fetches that fail (R403, R495 to R498, R955, R972, R974): u is the state
the instruction starts in and t that after the fetch. A translation exception of PC comes first, then the misaligned PC; a word
that no row of the table matches raises Coprocessor Unusable where its coprocessor is not usable, else Reserved Instruction. That
the translation comes before the alignment is decision D24; that COP1 words and MOVCI words that are no instruction raise one of the
two is the model's reading (DEDUCED, log 38); Reserved Instruction for COP2 and COP3 words with their CU bit set is decision D8 on
the unpredictable case U5. What the strict profile refuses is the subject of R1231 to R1237; the end of the step is the model's (logs
12, 13, 14, 17). -/
def Obligations.FetchExceptions : Prop :=
  ∀ s : State, InstructionNext s →
    let u := { s with excTaken := false }
    let raises (e : Exc) (t : State) : Prop :=
      ∃ h, step s = .next (clkTick (State.endStep { takeException e t with hazard := h }))
    fetchHazard u = none →
    (∀ e, translate s.pc .fetch u = .exc e u → raises e u) ∧
    (∀ pa c, translate s.pc .fetch u = .ok (pa, c) u → s.pc.toNat % 4 ≠ 0 → raises (.addressError s.pc false) u) ∧
    (∀ (w : Word) (t : State) (e : DecodeError), fetch u = .ok w t → decode w = .error e → wordHazard w t = none →
      let op := w.toNat / 2 ^ 26
      let cu (n : Nat) : Prop := isSet t.cp0.status (28 + n) = true
      let unusable : Prop :=
        (op = 0x10 ∧ ¬Privileged t) ∨ ((op = 0x11 ∨ (op = 0 ∧ w.toNat % 64 = 1)) ∧ ¬cu 1) ∨
        (op ∈ [0x12, 0x32, 0x36, 0x3A, 0x3E] ∧ ¬cu 2) ∨ (op = 0x13 ∧ ¬cu 3)
      (unusable → raises .cpu t) ∧ (¬unusable → raises .ri t))

/-- ERET: PC from ErrorEPC or EPC, ERL or EXL cleared, LLbit cleared, no delay slot, nothing else (R717, R962). At the end of a
handler that kept EPC and Status it resumes at the instruction the exception belongs to, or at its branch, with the Status of before
(R605, R960). -/
def Obligations.ExceptionReturn : Prop :=
  (∀ s : State, Privileged s → s.slot = .none →
    (isSet s.cp0.status 2 = true →
      exec .eret s = .next { s with
        pc := s.cp0.errorEpc, cp0 := { s.cp0 with status := s.cp0.status &&& 0xFFFFFFFB }, llbit := false }) ∧
    (isSet s.cp0.status 2 = false →
      exec .eret s = .next { s with
        pc := s.cp0.epc, cp0 := { s.cp0 with status := s.cp0.status &&& 0xFFFFFFFD }, llbit := false })) ∧
  (∀ (e : Exc) (s u : State), isSet s.cp0.status 1 = false → isSet s.cp0.status 2 = false →
    u.cp0.epc = (takeException e s).cp0.epc → u.cp0.status = (takeException e s).cp0.status → u.slot = .none →
    ∃ t, exec .eret u = .next t ∧ t.pc = (if s.slot = .none then s.pc else s.pc - 4) ∧ t.cp0.status = s.cp0.status ∧
      t.slot = .none ∧ t.gpr = u.gpr ∧ t.mem = u.mem)

/-! ## Devices -/

/-- The interval timer sets INT for the first time (p + 1) * (q + 1) CLK ticks after it is started with period p and scale q, and is
then as it was when it started; each CLK tick with the core clock on advances it, and Count, whose match with Compare sets the
timer latch (R1060, R1066). -/
def Obligations.TimerPeriods : Prop :=
  (∀ t : ItTimer, t.en = true → t.int = false → t.count = t.period → t.scount = t.scale →
    let n := (t.period.toNat + 1) * (t.scale.toNat + 1)
    (∀ k, k < n → (ItTimer.tick^[k] t).int = false) ∧ ItTimer.tick^[n] t = { t with int := true }) ∧
  (∀ s : State, s.sys.coreClockOn = true →
    let t := clkTick s
    t.itimer = s.itimer.tick ∧ t.clk = s.clk + 1 ∧
    t.cp0 = { s.cp0 with
      count := s.cp0.count + 1, timerLatch := s.cp0.timerLatch || s.cp0.count + 1 == s.cp0.compare } ∧
    t.gpr = s.gpr ∧ t.hi = s.hi ∧ t.lo = s.lo ∧ t.llbit = s.llbit ∧ t.tlb = s.tlb ∧ t.fgr = s.fgr ∧ t.fcsr = s.fcsr ∧
    t.pc = s.pc ∧ t.slot = s.slot ∧ t.waiting = s.waiting ∧ t.mem = s.mem ∧ t.checkBits = s.checkBits)

/-- LW and SW of system registers in kseg1 in Kernel mode (R182 to R196, R413): CR_PLL, CLK_EN, CSR, MASKR0 to MASKR3, IRQM and the
levels QSTR0, QSTR1 and QSTR3 read as their fields; a store keeps the bits that exist, those of IRQM also clear latches; FLUSH drops
every cache line. That the unused positions of MASKRn read zero is U20, that IRQM bits 3:0 read as the latches is decision D42, that
stores to QSTRn are ignored is decision D38, and that bit 4 of QSTR3 counts only in mode 01 is read from R282 (DEDUCED, log 23). That a
store to CSR with bit 11, TST_CACHE, = 1 completes is the model's choice of log 21 (DESIGN CHOICE, unsafe), where U48 and R187 let a
model refuse. -/
def Obligations.SystemRegisters : Prop :=
  ∀ (s : State) (base rt : GprNum) (offset : BitVec 16),
    isSet s.cp0.status 4 = false ∨ isSet s.cp0.status 1 = true ∨ isSet s.cp0.status 2 = true →
    let va := s.readGpr base + offset.signExtend 32
    let v := s.readGpr rt
    let irq (k : Fin 4) : Bool :=
      if s.sys.irqMode.getLsbD k.val then s.sys.irqLatch.getLsbD k.val else !s.sys.nIrq.getLsbD k.val
    let channel (k : Fin 16) : Bool := isSet (s.channel k).csr 15 || isSet (s.channel k).csr 14
    let loads (off : Nat) (P : Word → Prop) : Prop :=
      va.toNat = 0xB82F0000 + off → ∃ w, P w ∧ Completes (.lw base rt offset) s fun t =>
        GprHolds rt w s t ∧ MovesOn s t ∧ SameMemory s t ∧
        t = { s with gpr := t.gpr, pc := t.pc, slot := t.slot, freeCtr := t.freeCtr }
    let stores (off : Nat) (u : State) : Prop :=
      va.toNat = 0xB82F0000 + off → Completes (.sw base rt offset) s fun t =>
        MovesOn s t ∧ t = { u with pc := t.pc, slot := t.slot }
    let mask (n : Fin 4) (m : Word) : State := { s with sys := { s.sys with maskr := s.sys.maskr.set n (v &&& m) } }
    loads 0x4000 (· = s.sys.crPll) ∧ loads 0x4004 (· = s.sys.clkEn) ∧ loads 0x4008 (· = s.sys.csr) ∧
    loads 0x4010 (· = s.sys.maskr[0]) ∧ loads 0x4018 (· = s.sys.maskr[1]) ∧ loads 0x4020 (· = s.sys.maskr[2]) ∧
    loads 0x4028 (· = s.sys.maskr[3]) ∧
    loads 0x4030 (· = (s.sys.irqMode.setWidth 32 <<< 8) ||| s.sys.irqLatch.setWidth 32) ∧
    loads 0x4014 (fun w => w &&& 0xFF8FFFE0 = 0 ∧ isSet w 22 = s.itimer.int ∧ isSet w 21 = s.rtimer.int ∧
      isSet w 20 = (s.wdt.int && s.wdt.intCtr == 1) ∧ isSet w 4 = s.uart.irq ∧ ∀ k : Fin 4, isSet w k.val = irq k) ∧
    loads 0x401C (fun w => w &&& 0xFFFFFFF0 = 0 ∧ ∀ k : Fin 4, isSet w k.val = channel ⟨12 + k.val, by omega⟩) ∧
    loads 0x402C (fun w => w &&& 0xFFFFFFE4 = 0 ∧ isSet w 4 = (s.ecc.ext.request && s.ecc.ext.mode == 1) ∧
      isSet w 3 = s.ecc.dsp.toList.any EccCtl.request ∧ isSet w 1 = s.ecc.icache.request ∧
      isSet w 0 = (s.ecc.cramA.request || s.ecc.cramB.request)) ∧
    stores 0x4000 { s with sys := { s.sys with crPll := v &&& 0x00001F1F } } ∧
    stores 0x4004 { s with sys := { s.sys with clkEn := v &&& 0x03001111, coreClockOn := v.getLsbD 0 } } ∧
    (v.getLsbD 12 = false → stores 0x4008 { s with sys := { s.sys with csr := v &&& 0x00000801 } }) ∧
    (v.getLsbD 12 = true → stores 0x4008 { s with
      sys := { s.sys with csr := v &&& 0x00000801 }, icache := s.icache.map fun l => { l with valid := false } }) ∧
    stores 0x4010 (mask 0 0x0070001F) ∧ stores 0x4018 (mask 1 0x0000000F) ∧ stores 0x4020 (mask 2 0xF7F7FFFF) ∧
    stores 0x4028 (mask 3 0x0000001B) ∧
    stores 0x4014 s ∧ stores 0x401C s ∧ stores 0x4024 s ∧ stores 0x402C s ∧
    stores 0x4030 { s with
      sys := { s.sys with irqMode := v.extractLsb' 8 4, irqLatch := s.sys.irqLatch &&& ~~~(v.extractLsb' 0 4) } }

/-- The requests in Cause.IP (R190 to R193, R980): IP[7] is the timer latch, IP[6] the DSP, IP[5:2] whether a bit of QSTR3 to QSTR0 is
set that its mask register lets through, IP[1:0] the stored bits of Cause; MFC0 of Cause shows IP[7:2] as they are now. The bits of
QSTR2 are the requests of the ports and of their DMA channels. -/
def Obligations.InterruptRouting : Prop :=
  ∀ s : State,
    let through (q : Word) (n : Fin 4) : Prop := ∃ k, k < 32 ∧ isSet q k = true ∧ isSet s.sys.maskr[n] k = true
    let channel (k : Fin 16) : Bool := isSet (s.channel k).csr 15 || isSet (s.channel k).csr 14
    isSet s.ip 7 = s.cp0.timerLatch ∧ isSet s.ip 6 = s.dsp.irq ∧
    (isSet s.ip 5 = true ↔ through s.qstr3 3) ∧ (isSet s.ip 4 = true ↔ through s.qstr2 2) ∧
    (isSet s.ip 3 = true ↔ through s.qstr1 1) ∧ (isSet s.ip 2 = true ↔ through s.qstr0 0) ∧
    isSet s.ip 1 = isSet s.cp0.cause 9 ∧ isSet s.ip 0 = isSet s.cp0.cause 8 ∧
    (∀ k, 2 ≤ k → k < 8 → s.cp0.cause &&& 0x7F7FFC03 = 0 → isSet s.causeWord (8 + k) = isSet s.ip k) ∧
    (∀ p : Fin 4, isSet s.qstr2 (4 * p.val + 3) = channel ⟨8 + p.val, by omega⟩ ∧
      isSet s.qstr2 (4 * p.val + 2) = s.mfbsp[p].rxRequest ∧ isSet s.qstr2 (4 * p.val + 1) = s.mfbsp[p].txRequest ∧
      isSet s.qstr2 (4 * p.val) = s.mfbsp[p].srq) ∧
    (∀ k : Fin 4, isSet s.qstr2 (20 + k.val) = channel ⟨k.val, by omega⟩ ∧
      isSet s.qstr2 (28 + k.val) = channel ⟨4 + k.val, by omega⟩) ∧
    (∀ k, k < 3 → isSet s.qstr2 (16 + k) = isSet s.swic0.requests k ∧ isSet s.qstr2 (24 + k) = isSet s.swic1.requests k) ∧
    isSet s.qstr2 19 = false ∧ isSet s.qstr2 27 = false

/-! ## The machine -/

/-- The values the spec gives the CPU and the system registers at reset (R1201, R1203); the bit BYTE of CSCON3 follows a pin that is
low at reset by the model's choice (log 10). -/
def Obligations.ResetValues : Prop :=
  let s := State.reset
  s.pc = 0xBFC00000 ∧ s.slot = .none ∧ s.waiting = false ∧ s.nmiPending = false ∧ s.cp0.random = 15 ∧ s.cp0.wired = 0 ∧
  s.cp0.status &&& 0x0FFF00EC = 0x00400004 ∧ s.readGpr 0 = 0 ∧ (∀ i : Fin 16, s.tlb[i].init = false) ∧
  s.sysRead 0x4000 = 0x00000101 ∧ s.sysRead 0x4004 = 0x03000001 ∧ s.sysRead 0x4008 = 0x00000001 ∧
  s.sysRead 0x4010 = 0 ∧ s.sysRead 0x4018 = 0 ∧ s.sysRead 0x4020 = 0 ∧ s.sysRead 0x4028 = 0 ∧ s.sysRead 0x4030 = 0 ∧
  s.sysRead 0x4400 = 0x00FF0000 ∧ s.sysRead 0x4408 = 0x00FF0000 ∧ s.sysRead 0x4800 = 0x00FF0000 ∧
  s.timerRead 0x00 = 0 ∧ s.timerRead 0x04 = 0xFFFFFFFF ∧ s.timerRead 0x08 = 0 ∧ s.timerRead 0x0C = 0 ∧
  s.timerRead 0x10 = 0 ∧ s.timerRead 0x14 = 0xFFFFFFFF ∧ s.timerRead 0x18 = 0 ∧ s.timerRead 0x1C = 0 ∧
  s.timerRead 0x20 = 0 ∧ s.timerRead 0x24 = 0x00007FFF ∧ s.timerRead 0x28 = 0 ∧
  s.mportRead 0x1000 = 0x000F0000 ∧ s.mportRead 0x1004 = 0x000F0000 ∧ s.mportRead 0x1008 = 0x000F0000 ∧
  s.mportRead 0x100C = 0x000F0000 ∧ s.mportRead 0x1010 = 0x000F0000 ∧ s.mportRead 0x1014 = 0x00000020 ∧
  s.mportRead 0x1018 = 0 ∧ s.mportRead 0x101C = 0 ∧ s.mportRead 0x1020 = 0 ∧ s.mportRead 0x1024 = 0x00FF0010 ∧
  ∀ c : Fin 16, (s.channel c).csr &&& 0xFFFF = 0

/-- The state after reset is well formed: memory in canonical form, reserved register bits zero (a property of the model's own
invariants). -/
def Obligations.ResetLegal : Prop := MemoryLegal State.reset ∧ RegistersLegal State.reset

/-- Every step of the chip, whatever moves, keeps memory and the check-bit blocks in canonical form. -/
def Obligations.MemoryStaysLegal : Prop :=
  ∀ s t : State, MemoryLegal s → step s = .next t → MemoryLegal t

/-- Every step keeps the reserved bits of CP0 and FCSR zero and Random between Wired and 15 (R28 to R40, R55). -/
def Obligations.RegistersStayLegal : Prop :=
  ∀ s t : State, RegistersLegal s → step s = .next t → RegistersLegal t

/-- A step runs the instruction that the four bytes at PC decode to, from uncached plain memory (R520, R600, R1051), unless the strict
profile refuses it (R1230 to R1237). The end of the step, the CLK tick after it and the tracking of the strict profile are the
model's choice (logs 12, 13, 14, 17). -/
def Obligations.StepRunsDecoded : Prop :=
  ∀ (s : State) (w : Word) (i : Instr) (pa : Word), InstructionNext s → fetchHazard s = none →
    s.pc.toNat % 4 = 0 → translate s.pc .fetch s = .ok (pa, false) s →
    (isSet s.cp0.status 2 = false ∨ 0x80000000 ≤ s.pc.toNat) → PlainRam s pa.toNat → wordAt s pa.toNat = w →
    decodeBytes [Memory.read s.mem pa.toNat, Memory.read s.mem (pa.toNat + 1), Memory.read s.mem (pa.toNat + 2),
      Memory.read s.mem (pa.toNat + 3)] = .ok (i, []) →
    let u := { s with excTaken := false }
    (∀ r, hazardOf w i s = some r → step s = .refused r) ∧
    (hazardOf w i s = none → step s = (match exec i u with
      | .next t => .next (clkTick (t.track i u).endStep)
      | .fault f => .fault f
      | .refused r => .refused r))

/-- Words of the spec's examples decode to the instructions they stand for. -/
def Obligations.DecodeSamples : Prop :=
  decode 0x00221820 = .ok (.add 1 2 3) ∧ decode 0x2404FFFF = .ok (.addiu 0 4 0xFFFF) ∧
  decode 0x70221802 = .ok (.mul 1 2 3) ∧ decode 0x0C000800 = .ok (.jal 0x800) ∧
  decode 0x1480FFFE = .ok (.bne 4 0 0xFFFE) ∧ decode 0x8D1A4004 = .ok (.lw 8 26 0x4004) ∧
  decode 0xA0820003 = .ok (.sb 4 2 3) ∧ decode 0x40826000 = .ok (.mtc0 2 12 0) ∧
  decode 0x42000018 = .ok .eret ∧ decode 0x46041000 = .ok (.addS 4 2 0) ∧
  decode 0x4505FFFE = .ok (.bc1t 1 0xFFFE) ∧ decode 0x4624113C = .ok (.cLtD 4 2 1) ∧
  decode 0xD4820010 = .ok (.ldc1 4 2 0x10)

/-- Decoding the encoding of a well-formed instruction gives it back, every operand at every value (R482 to R498). -/
def Obligations.DecodeEncode : Prop := ∀ i : Instr, i.wellFormed = true → decode (encode i) = .ok i

/-- A word that decodes is the encoding of what it decodes to: no bit of an accepted word is ignored (R496). -/
def Obligations.EncodeDecode : Prop := ∀ (w : Word) (i : Instr), decode w = .ok i → encode i = w
end

