-- ==== Sys2Proof/Laws/Bits.lean ====
section
/-! SUPPORT. Bits: fields of joined vectors, shifts as arithmetic, extensions, and the parts of an address. -/

namespace Sys2Proof.Machine

open Sys2Proof

/-- The low half of a doubleword of two words. -/
@[simp] theorem fieldOf_append_low (x y : Word) : (fieldOf (x ++ y : Dword) 0 32 : Word) = y := by
  unfold fieldOf
  apply BitVec.eq_of_getElem_eq
  intro i hi
  simp only [BitVec.getElem_extractLsb', BitVec.getLsbD_append]
  simp [hi, BitVec.getLsbD_eq_getElem]

/-- The high half of a doubleword of two words. -/
@[simp] theorem fieldOf_append_high (x y : Word) : (fieldOf (x ++ y : Dword) 32 32 : Word) = x := by
  unfold fieldOf
  apply BitVec.eq_of_getElem_eq
  intro i hi
  simp only [BitVec.getElem_extractLsb', BitVec.getLsbD_append]
  simp [hi, BitVec.getLsbD_eq_getElem]

/-- A doubleword is its halves joined. -/
theorem halves_of_dword (v : Dword) : (fieldOf v 32 32 : Word) ++ (fieldOf v 0 32 : Word) = v := by
  unfold fieldOf
  apply BitVec.eq_of_getElem_eq
  intro i hi
  simp only [BitVec.getElem_append, BitVec.getElem_extractLsb']
  split
  · simp [BitVec.getLsbD_eq_getElem, hi]
  · rw [show 32 + (i - 32) = i by omega]; simp [BitVec.getLsbD_eq_getElem, hi]

/-- Sign extension keeps the value. -/
theorem toInt_sext (x : BitVec 16) : (sext x : Word).toInt = x.toInt := by
  unfold sext; rw [BitVec.toInt_signExtend_of_le (by decide)]

/-- A left shift multiplies. -/
theorem shiftLeft_eq_mul (x : Word) (n : Nat) : x <<< n = BitVec.ofNat 32 (x.toNat * 2 ^ n) := by
  apply BitVec.eq_of_toNat_eq; simp [BitVec.toNat_shiftLeft, Nat.shiftLeft_eq]

/-- A logical right shift divides. -/
theorem ushiftRight_eq_div (x : Word) (n : Nat) : x >>> n = BitVec.ofNat 32 (x.toNat / 2 ^ n) := by
  apply BitVec.eq_of_toNat_eq
  have h := Nat.div_le_self x.toNat (2 ^ n)
  have := x.isLt
  simp only [BitVec.toNat_ushiftRight, Nat.shiftRight_eq_div_pow, BitVec.toNat_ofNat]
  exact (Nat.mod_eq_of_lt (by omega)).symm

/-- An arithmetic right shift divides, rounding down. -/
theorem sshiftRight_eq_div (x : Word) (n : Nat) : x.sshiftRight n = BitVec.ofInt 32 (x.toInt / 2 ^ n) := by
  rw [BitVec.sshiftRight, Int.shiftRight_eq_div_pow]; norm_num

/-- The address of a word as a bit vector: its two low bits are zero. -/
theorem wordAddr_eq (a : Word) : wordAddr a = a.toNat - a.toNat % 4 := by unfold wordAddr; omega
/-- An address lies in its word. -/
theorem wordAddr_le (a : Word) : wordAddr a ≤ a.toNat ∧ a.toNat < wordAddr a + 4 := by unfold wordAddr; omega
/-- A word address is aligned. -/
theorem wordAddr_mod (a : Word) : wordAddr a % 4 = 0 := by unfold wordAddr; omega

end Sys2Proof.Machine
end

