-- ==== Sys2Proof/Laws/Mem.lean ====
section
/-! SUPPORT. Mem: reading after writing, and the canonical form of memory, which every memory operation keeps. -/

namespace Sys2Proof.Machine

open Sys2Proof

/-! ## Reading after writing -/

/-- A byte reads what was written to it, and any other byte what it read before. -/
theorem Memory.read_write (m : List Cell) (a b : Nat) (v : Byte) (h : Memory.wf m) :
    Memory.read (Memory.write m a v) b = if b = a then v else Memory.read m b := by
  induction m with
  | nil =>
    unfold Memory.write
    by_cases hv : v = Memory.unlisted
    · simp only [hv, if_true, Memory.read]; split <;> rfl
    · simp only [if_neg hv, Memory.read]
  | cons c m ih =>
    obtain ⟨k, w⟩ := c
    obtain ⟨hp, hu⟩ := h
    rw [List.pairwise_cons] at hp
    have hm : Memory.wf m := ⟨hp.2, fun c hc => hu c (List.mem_cons_of_mem _ hc)⟩
    have low : ∀ (l : List Cell) (x : Nat), (∀ c ∈ l, x < c.1) → Memory.read l x = Memory.unlisted := by
      intro l x
      induction l with
      | nil => intro _; rfl
      | cons c l ihl =>
        intro hl
        have h1 := hl c (List.mem_cons_self ..)
        simp only [Memory.read]
        rw [if_neg (by omega)]
        exact ihl fun d hd => hl d (List.mem_cons_of_mem _ hd)
    have above : ∀ x, x ≤ k → Memory.read m x = Memory.unlisted := fun x hx =>
      low m x fun c hc => Nat.lt_of_le_of_lt hx (hp.1 c hc)
    simp only [Memory.write]
    by_cases h1 : a < k
    · simp only [if_pos h1]
      by_cases hv : v = Memory.unlisted
      · rw [if_pos hv]
        by_cases hb : b = a
        · rw [if_pos hb, hv]
          simp only [Memory.read]
          rw [if_neg (by omega), above b (by omega)]
        · rw [if_neg hb]
      · rw [if_neg hv]; simp only [Memory.read]
    · simp only [if_neg h1]
      by_cases h2 : a = k
      · simp only [if_pos h2]
        by_cases hv : v = Memory.unlisted
        · rw [if_pos hv]
          by_cases hb : b = a
          · rw [if_pos hb, hv, above b (by omega)]
          · rw [if_neg hb]; simp only [Memory.read]; rw [if_neg (by omega)]
        · rw [if_neg hv]; simp only [Memory.read]
          by_cases hb : b = a
          · rw [if_pos hb, if_pos hb]
          · rw [if_neg hb, if_neg hb, if_neg (by omega)]
      · simp only [if_neg h2, Memory.read]
        rw [ih hm]
        by_cases hb : b = a
        · rw [if_pos hb, if_pos hb, if_neg (by omega)]
        · rw [if_neg hb, if_neg hb]

/-! ## The canonical form -/

/-- What a write leaves in the list: cells of the list before, and the written one. -/
theorem Memory.mem_write {m : List Cell} {a : Nat} {v : Byte} {c : Cell} (h : c ∈ Memory.write m a v) :
    c ∈ m ∨ (c = (a, v) ∧ v ≠ Memory.unlisted) := by
  induction m with
  | nil =>
    unfold Memory.write at h
    split at h
    · exact absurd h (List.not_mem_nil)
    · next hv => exact .inr ⟨List.mem_singleton.mp h, hv⟩
  | cons d m ih =>
    obtain ⟨k, w⟩ := d
    unfold Memory.write at h
    split at h
    · split at h
      · exact .inl h
      · next hv =>
        rcases List.mem_cons.mp h with h | h
        · exact .inr ⟨h, hv⟩
        · exact .inl h
    · split at h
      · split at h
        · exact .inl (List.mem_cons_of_mem _ h)
        · next hv =>
          rcases List.mem_cons.mp h with h | h
          · exact .inr ⟨h, hv⟩
          · exact .inl (List.mem_cons_of_mem _ h)
      · rcases List.mem_cons.mp h with h | h
        · exact .inl (h ▸ List.mem_cons_self ..)
        · rcases ih h with h | h
          · exact .inl (List.mem_cons_of_mem _ h)
          · exact .inr h

/-- A write keeps the canonical form. -/
theorem Memory.wf_write {m : List Cell} (h : Memory.wf m) (a : Nat) (v : Byte) : Memory.wf (Memory.write m a v) := by
  refine ⟨?_, fun c hc => ?_⟩
  · induction m with
    | nil =>
      unfold Memory.write
      split
      · exact .nil
      · exact List.pairwise_singleton _ _
    | cons d m ih =>
      obtain ⟨k, w⟩ := d
      obtain ⟨hp, hu⟩ := h
      have hp' := List.pairwise_cons.mp hp
      have hm : Memory.wf m := ⟨hp'.2, fun c hc => hu c (List.mem_cons_of_mem _ hc)⟩
      unfold Memory.write
      split
      · next h1 =>
        split
        · exact hp
        · refine List.pairwise_cons.mpr ⟨fun c hc => ?_, hp⟩
          rcases List.mem_cons.mp hc with rfl | hc
          · exact h1
          · exact Nat.lt_trans h1 (hp'.1 c hc)
      · next h1 =>
        split
        · next h2 =>
          split
          · exact hp'.2
          · exact List.pairwise_cons.mpr ⟨fun c hc => h2 ▸ hp'.1 c hc, hp'.2⟩
        · next h2 =>
          refine List.pairwise_cons.mpr ⟨fun c hc => ?_, ih hm⟩
          rcases Memory.mem_write hc with hc | ⟨rfl, _⟩
          · exact hp'.1 c hc
          · show k < a
            omega
  · rcases Memory.mem_write hc with hc | ⟨rfl, hv⟩
    · exact h.2 c hc
    · exact hv

/-- Empty memory is in canonical form. -/
theorem Memory.wf_nil : Memory.wf [] := ⟨.nil, fun _ h => absurd h (List.not_mem_nil)⟩

/-- A lane written or not keeps the canonical form. -/
theorem Memory.wf_writeLane {m : List Cell} (h : Memory.wf m) (en : Bool) (a : Nat) (v : Byte) :
    Memory.wf (Memory.writeLane m en a v) := by
  unfold Memory.writeLane
  split
  · exact Memory.wf_write h a v
  · exact h

/-- A store of lanes keeps the canonical form. -/
theorem Memory.wf_writeLanes {m : List Cell} (h : Memory.wf m) (a : Nat) (l : BitVec 4) (v : Word) :
    Memory.wf (Memory.writeLanes m a l v) :=
  Memory.wf_writeLane (Memory.wf_writeLane (Memory.wf_writeLane (Memory.wf_writeLane h _ _ _) _ _ _) _ _ _) _ _ _

/-- What a lane write leaves in a byte. -/
theorem Memory.read_writeLane {m : List Cell} (h : Memory.wf m) (en : Bool) (a b : Nat) (v : Byte) :
    Memory.read (Memory.writeLane m en a v) b = if en = true ∧ b = a then v else Memory.read m b := by
  unfold Memory.writeLane
  cases en
  · simp
  · simp [Memory.read_write _ _ _ _ h]

/-- What a store of lanes leaves in a byte: the enabled lanes hold the bytes of the word, every other byte is as before. -/
theorem Memory.read_writeLanes {m : List Cell} (h : Memory.wf m) (a b : Nat) (l : BitVec 4) (v : Word) :
    Memory.read (Memory.writeLanes m a l v) b =
      if isSet l 0 = true ∧ b = a then byteOf v 0
      else if isSet l 1 = true ∧ b = a + 1 then byteOf v 1
      else if isSet l 2 = true ∧ b = a + 2 then byteOf v 2
      else if isSet l 3 = true ∧ b = a + 3 then byteOf v 3
      else Memory.read m b := by
  have h0 := Memory.wf_writeLane h (isSet l 0) a (byteOf v 0)
  have h1 := Memory.wf_writeLane h0 (isSet l 1) (a + 1) (byteOf v 1)
  have h2 := Memory.wf_writeLane h1 (isSet l 2) (a + 2) (byteOf v 2)
  unfold Memory.writeLanes
  simp only [Memory.read_writeLane h2, Memory.read_writeLane h1, Memory.read_writeLane h0, Memory.read_writeLane h]
  by_cases e0 : b = a
  · simp [e0]
  · by_cases e1 : b = a + 1
    · simp [e1]
    · by_cases e2 : b = a + 2
      · simp [e2]
      · by_cases e3 : b = a + 3
        · simp [e3]
        · simp [e0, e1, e2, e3]

/-- Bytes outside the word are as before. -/
theorem Memory.read_writeLanes_outside {m : List Cell} (h : Memory.wf m) (a b : Nat) (l : BitVec 4) (v : Word)
    (hb : b < a ∨ a + 4 ≤ b) : Memory.read (Memory.writeLanes m a l v) b = Memory.read m b := by
  rw [Memory.read_writeLanes h, if_neg (by omega), if_neg (by omega), if_neg (by omega), if_neg (by omega)]

/-- The four bytes of a word make the word. -/
theorem bytes_of_word (v : Word) : byteOf v 3 ++ byteOf v 2 ++ byteOf v 1 ++ byteOf v 0 = v := by
  ext i hi
  simp only [byteOf, BitVec.getElem_append, BitVec.getElem_extractLsb']
  grind

/-- A whole word stored is read back. -/
theorem Memory.readWord_writeLanes {m : List Cell} (h : Memory.wf m) (a : Nat) (v : Word) :
    Memory.readWord (Memory.writeLanes m a 0xF v) a = v := by
  unfold Memory.readWord
  simp only [Memory.read_writeLanes h]
  have e0 : isSet (15#4) 0 = true := by decide
  have e1 : isSet (15#4) 1 = true := by decide
  have e2 : isSet (15#4) 2 = true := by decide
  have e3 : isSet (15#4) 3 = true := by decide
  simp [e0, e1, e2, e3, bytes_of_word]

end Sys2Proof.Machine
end

