-- ==== Sys2Proof/Laws/State.lean ====
section
/-! SUPPORT. State: one lemma per field and update: what the update leaves alone. -/

namespace Sys2Proof.Machine

open Sys2Proof

/-! ## putGpr -/

@[simp] theorem State.putGpr_hi (s : State) (n : BitVec 5) (v : Word) : (s.putGpr n v).hi = s.hi := by unfold State.putGpr; split <;> rfl
@[simp] theorem State.putGpr_lo (s : State) (n : BitVec 5) (v : Word) : (s.putGpr n v).lo = s.lo := by unfold State.putGpr; split <;> rfl
@[simp] theorem State.putGpr_pc (s : State) (n : BitVec 5) (v : Word) : (s.putGpr n v).pc = s.pc := by unfold State.putGpr; split <;> rfl
@[simp] theorem State.putGpr_slot (s : State) (n : BitVec 5) (v : Word) : (s.putGpr n v).slot = s.slot := by unfold State.putGpr; split <;> rfl
@[simp] theorem State.putGpr_waiting (s : State) (n : BitVec 5) (v : Word) : (s.putGpr n v).waiting = s.waiting := by unfold State.putGpr; split <;> rfl
@[simp] theorem State.putGpr_nmiPending (s : State) (n : BitVec 5) (v : Word) : (s.putGpr n v).nmiPending = s.nmiPending := by unfold State.putGpr; split <;> rfl
@[simp] theorem State.putGpr_llbit (s : State) (n : BitVec 5) (v : Word) : (s.putGpr n v).llbit = s.llbit := by unfold State.putGpr; split <;> rfl
@[simp] theorem State.putGpr_cp0 (s : State) (n : BitVec 5) (v : Word) : (s.putGpr n v).cp0 = s.cp0 := by unfold State.putGpr; split <;> rfl
@[simp] theorem State.putGpr_fgr (s : State) (n : BitVec 5) (v : Word) : (s.putGpr n v).fgr = s.fgr := by unfold State.putGpr; split <;> rfl
@[simp] theorem State.putGpr_fcsr (s : State) (n : BitVec 5) (v : Word) : (s.putGpr n v).fcsr = s.fcsr := by unfold State.putGpr; split <;> rfl
@[simp] theorem State.putGpr_tlb (s : State) (n : BitVec 5) (v : Word) : (s.putGpr n v).tlb = s.tlb := by unfold State.putGpr; split <;> rfl
@[simp] theorem State.putGpr_icache (s : State) (n : BitVec 5) (v : Word) : (s.putGpr n v).icache = s.icache := by unfold State.putGpr; split <;> rfl
@[simp] theorem State.putGpr_mem (s : State) (n : BitVec 5) (v : Word) : (s.putGpr n v).mem = s.mem := by unfold State.putGpr; split <;> rfl
@[simp] theorem State.putGpr_checkBits (s : State) (n : BitVec 5) (v : Word) : (s.putGpr n v).checkBits = s.checkBits := by unfold State.putGpr; split <;> rfl
@[simp] theorem State.putGpr_ecc (s : State) (n : BitVec 5) (v : Word) : (s.putGpr n v).ecc = s.ecc := by unfold State.putGpr; split <;> rfl
@[simp] theorem State.putGpr_sys (s : State) (n : BitVec 5) (v : Word) : (s.putGpr n v).sys = s.sys := by unfold State.putGpr; split <;> rfl
@[simp] theorem State.putGpr_itimer (s : State) (n : BitVec 5) (v : Word) : (s.putGpr n v).itimer = s.itimer := by unfold State.putGpr; split <;> rfl
@[simp] theorem State.putGpr_rtimer (s : State) (n : BitVec 5) (v : Word) : (s.putGpr n v).rtimer = s.rtimer := by unfold State.putGpr; split <;> rfl
@[simp] theorem State.putGpr_wdt (s : State) (n : BitVec 5) (v : Word) : (s.putGpr n v).wdt = s.wdt := by unfold State.putGpr; split <;> rfl
@[simp] theorem State.putGpr_clk (s : State) (n : BitVec 5) (v : Word) : (s.putGpr n v).clk = s.clk := by unfold State.putGpr; split <;> rfl
@[simp] theorem State.putGpr_rttGap (s : State) (n : BitVec 5) (v : Word) : (s.putGpr n v).rttGap = s.rttGap := by unfold State.putGpr; split <;> rfl
@[simp] theorem State.putGpr_dma (s : State) (n : BitVec 5) (v : Word) : (s.putGpr n v).dma = s.dma := by unfold State.putGpr; split <;> rfl
@[simp] theorem State.putGpr_mport (s : State) (n : BitVec 5) (v : Word) : (s.putGpr n v).mport = s.mport := by unfold State.putGpr; split <;> rfl
@[simp] theorem State.putGpr_uart (s : State) (n : BitVec 5) (v : Word) : (s.putGpr n v).uart = s.uart := by unfold State.putGpr; split <;> rfl
@[simp] theorem State.putGpr_swic0 (s : State) (n : BitVec 5) (v : Word) : (s.putGpr n v).swic0 = s.swic0 := by unfold State.putGpr; split <;> rfl
@[simp] theorem State.putGpr_swic1 (s : State) (n : BitVec 5) (v : Word) : (s.putGpr n v).swic1 = s.swic1 := by unfold State.putGpr; split <;> rfl
@[simp] theorem State.putGpr_mfbsp (s : State) (n : BitVec 5) (v : Word) : (s.putGpr n v).mfbsp = s.mfbsp := by unfold State.putGpr; split <;> rfl
@[simp] theorem State.putGpr_dsp (s : State) (n : BitVec 5) (v : Word) : (s.putGpr n v).dsp = s.dsp := by unfold State.putGpr; split <;> rfl
@[simp] theorem State.putGpr_params (s : State) (n : BitVec 5) (v : Word) : (s.putGpr n v).params = s.params := by unfold State.putGpr; split <;> rfl
@[simp] theorem State.putGpr_moves (s : State) (n : BitVec 5) (v : Word) : (s.putGpr n v).moves = s.moves := by unfold State.putGpr; split <;> rfl
@[simp] theorem State.putGpr_between (s : State) (n : BitVec 5) (v : Word) : (s.putGpr n v).between = s.between := by unfold State.putGpr; split <;> rfl
@[simp] theorem State.putGpr_freeCtr (s : State) (n : BitVec 5) (v : Word) : (s.putGpr n v).freeCtr = s.freeCtr := by unfold State.putGpr; split <;> rfl
@[simp] theorem State.putGpr_excTaken (s : State) (n : BitVec 5) (v : Word) : (s.putGpr n v).excTaken = s.excTaken := by unfold State.putGpr; split <;> rfl
@[simp] theorem State.putGpr_mduUnread (s : State) (n : BitVec 5) (v : Word) : (s.putGpr n v).mduUnread = s.mduUnread := by unfold State.putGpr; split <;> rfl
@[simp] theorem State.putGpr_hazard (s : State) (n : BitVec 5) (v : Word) : (s.putGpr n v).hazard = s.hazard := by unfold State.putGpr; split <;> rfl

/-! ## putFgr -/

@[simp] theorem State.putFgr_gpr (s : State) (n : BitVec 5) (v : Word) : (s.putFgr n v).gpr = s.gpr := rfl
@[simp] theorem State.putFgr_hi (s : State) (n : BitVec 5) (v : Word) : (s.putFgr n v).hi = s.hi := rfl
@[simp] theorem State.putFgr_lo (s : State) (n : BitVec 5) (v : Word) : (s.putFgr n v).lo = s.lo := rfl
@[simp] theorem State.putFgr_pc (s : State) (n : BitVec 5) (v : Word) : (s.putFgr n v).pc = s.pc := rfl
@[simp] theorem State.putFgr_slot (s : State) (n : BitVec 5) (v : Word) : (s.putFgr n v).slot = s.slot := rfl
@[simp] theorem State.putFgr_waiting (s : State) (n : BitVec 5) (v : Word) : (s.putFgr n v).waiting = s.waiting := rfl
@[simp] theorem State.putFgr_nmiPending (s : State) (n : BitVec 5) (v : Word) : (s.putFgr n v).nmiPending = s.nmiPending := rfl
@[simp] theorem State.putFgr_llbit (s : State) (n : BitVec 5) (v : Word) : (s.putFgr n v).llbit = s.llbit := rfl
@[simp] theorem State.putFgr_cp0 (s : State) (n : BitVec 5) (v : Word) : (s.putFgr n v).cp0 = s.cp0 := rfl
@[simp] theorem State.putFgr_fcsr (s : State) (n : BitVec 5) (v : Word) : (s.putFgr n v).fcsr = s.fcsr := rfl
@[simp] theorem State.putFgr_tlb (s : State) (n : BitVec 5) (v : Word) : (s.putFgr n v).tlb = s.tlb := rfl
@[simp] theorem State.putFgr_icache (s : State) (n : BitVec 5) (v : Word) : (s.putFgr n v).icache = s.icache := rfl
@[simp] theorem State.putFgr_mem (s : State) (n : BitVec 5) (v : Word) : (s.putFgr n v).mem = s.mem := rfl
@[simp] theorem State.putFgr_checkBits (s : State) (n : BitVec 5) (v : Word) : (s.putFgr n v).checkBits = s.checkBits := rfl
@[simp] theorem State.putFgr_ecc (s : State) (n : BitVec 5) (v : Word) : (s.putFgr n v).ecc = s.ecc := rfl
@[simp] theorem State.putFgr_sys (s : State) (n : BitVec 5) (v : Word) : (s.putFgr n v).sys = s.sys := rfl
@[simp] theorem State.putFgr_itimer (s : State) (n : BitVec 5) (v : Word) : (s.putFgr n v).itimer = s.itimer := rfl
@[simp] theorem State.putFgr_rtimer (s : State) (n : BitVec 5) (v : Word) : (s.putFgr n v).rtimer = s.rtimer := rfl
@[simp] theorem State.putFgr_wdt (s : State) (n : BitVec 5) (v : Word) : (s.putFgr n v).wdt = s.wdt := rfl
@[simp] theorem State.putFgr_clk (s : State) (n : BitVec 5) (v : Word) : (s.putFgr n v).clk = s.clk := rfl
@[simp] theorem State.putFgr_rttGap (s : State) (n : BitVec 5) (v : Word) : (s.putFgr n v).rttGap = s.rttGap := rfl
@[simp] theorem State.putFgr_dma (s : State) (n : BitVec 5) (v : Word) : (s.putFgr n v).dma = s.dma := rfl
@[simp] theorem State.putFgr_mport (s : State) (n : BitVec 5) (v : Word) : (s.putFgr n v).mport = s.mport := rfl
@[simp] theorem State.putFgr_uart (s : State) (n : BitVec 5) (v : Word) : (s.putFgr n v).uart = s.uart := rfl
@[simp] theorem State.putFgr_swic0 (s : State) (n : BitVec 5) (v : Word) : (s.putFgr n v).swic0 = s.swic0 := rfl
@[simp] theorem State.putFgr_swic1 (s : State) (n : BitVec 5) (v : Word) : (s.putFgr n v).swic1 = s.swic1 := rfl
@[simp] theorem State.putFgr_mfbsp (s : State) (n : BitVec 5) (v : Word) : (s.putFgr n v).mfbsp = s.mfbsp := rfl
@[simp] theorem State.putFgr_dsp (s : State) (n : BitVec 5) (v : Word) : (s.putFgr n v).dsp = s.dsp := rfl
@[simp] theorem State.putFgr_params (s : State) (n : BitVec 5) (v : Word) : (s.putFgr n v).params = s.params := rfl
@[simp] theorem State.putFgr_moves (s : State) (n : BitVec 5) (v : Word) : (s.putFgr n v).moves = s.moves := rfl
@[simp] theorem State.putFgr_between (s : State) (n : BitVec 5) (v : Word) : (s.putFgr n v).between = s.between := rfl
@[simp] theorem State.putFgr_freeCtr (s : State) (n : BitVec 5) (v : Word) : (s.putFgr n v).freeCtr = s.freeCtr := rfl
@[simp] theorem State.putFgr_excTaken (s : State) (n : BitVec 5) (v : Word) : (s.putFgr n v).excTaken = s.excTaken := rfl
@[simp] theorem State.putFgr_mduUnread (s : State) (n : BitVec 5) (v : Word) : (s.putFgr n v).mduUnread = s.mduUnread := rfl
@[simp] theorem State.putFgr_hazard (s : State) (n : BitVec 5) (v : Word) : (s.putFgr n v).hazard = s.hazard := rfl

/-! ## putFcc -/

@[simp] theorem State.putFcc_gpr (s : State) (cc : BitVec 3) (b : Bool) : (s.putFcc cc b).gpr = s.gpr := rfl
@[simp] theorem State.putFcc_hi (s : State) (cc : BitVec 3) (b : Bool) : (s.putFcc cc b).hi = s.hi := rfl
@[simp] theorem State.putFcc_lo (s : State) (cc : BitVec 3) (b : Bool) : (s.putFcc cc b).lo = s.lo := rfl
@[simp] theorem State.putFcc_pc (s : State) (cc : BitVec 3) (b : Bool) : (s.putFcc cc b).pc = s.pc := rfl
@[simp] theorem State.putFcc_slot (s : State) (cc : BitVec 3) (b : Bool) : (s.putFcc cc b).slot = s.slot := rfl
@[simp] theorem State.putFcc_waiting (s : State) (cc : BitVec 3) (b : Bool) : (s.putFcc cc b).waiting = s.waiting := rfl
@[simp] theorem State.putFcc_nmiPending (s : State) (cc : BitVec 3) (b : Bool) : (s.putFcc cc b).nmiPending = s.nmiPending := rfl
@[simp] theorem State.putFcc_llbit (s : State) (cc : BitVec 3) (b : Bool) : (s.putFcc cc b).llbit = s.llbit := rfl
@[simp] theorem State.putFcc_cp0 (s : State) (cc : BitVec 3) (b : Bool) : (s.putFcc cc b).cp0 = s.cp0 := rfl
@[simp] theorem State.putFcc_fgr (s : State) (cc : BitVec 3) (b : Bool) : (s.putFcc cc b).fgr = s.fgr := rfl
@[simp] theorem State.putFcc_tlb (s : State) (cc : BitVec 3) (b : Bool) : (s.putFcc cc b).tlb = s.tlb := rfl
@[simp] theorem State.putFcc_icache (s : State) (cc : BitVec 3) (b : Bool) : (s.putFcc cc b).icache = s.icache := rfl
@[simp] theorem State.putFcc_mem (s : State) (cc : BitVec 3) (b : Bool) : (s.putFcc cc b).mem = s.mem := rfl
@[simp] theorem State.putFcc_checkBits (s : State) (cc : BitVec 3) (b : Bool) : (s.putFcc cc b).checkBits = s.checkBits := rfl
@[simp] theorem State.putFcc_ecc (s : State) (cc : BitVec 3) (b : Bool) : (s.putFcc cc b).ecc = s.ecc := rfl
@[simp] theorem State.putFcc_sys (s : State) (cc : BitVec 3) (b : Bool) : (s.putFcc cc b).sys = s.sys := rfl
@[simp] theorem State.putFcc_itimer (s : State) (cc : BitVec 3) (b : Bool) : (s.putFcc cc b).itimer = s.itimer := rfl
@[simp] theorem State.putFcc_rtimer (s : State) (cc : BitVec 3) (b : Bool) : (s.putFcc cc b).rtimer = s.rtimer := rfl
@[simp] theorem State.putFcc_wdt (s : State) (cc : BitVec 3) (b : Bool) : (s.putFcc cc b).wdt = s.wdt := rfl
@[simp] theorem State.putFcc_clk (s : State) (cc : BitVec 3) (b : Bool) : (s.putFcc cc b).clk = s.clk := rfl
@[simp] theorem State.putFcc_rttGap (s : State) (cc : BitVec 3) (b : Bool) : (s.putFcc cc b).rttGap = s.rttGap := rfl
@[simp] theorem State.putFcc_dma (s : State) (cc : BitVec 3) (b : Bool) : (s.putFcc cc b).dma = s.dma := rfl
@[simp] theorem State.putFcc_mport (s : State) (cc : BitVec 3) (b : Bool) : (s.putFcc cc b).mport = s.mport := rfl
@[simp] theorem State.putFcc_uart (s : State) (cc : BitVec 3) (b : Bool) : (s.putFcc cc b).uart = s.uart := rfl
@[simp] theorem State.putFcc_swic0 (s : State) (cc : BitVec 3) (b : Bool) : (s.putFcc cc b).swic0 = s.swic0 := rfl
@[simp] theorem State.putFcc_swic1 (s : State) (cc : BitVec 3) (b : Bool) : (s.putFcc cc b).swic1 = s.swic1 := rfl
@[simp] theorem State.putFcc_mfbsp (s : State) (cc : BitVec 3) (b : Bool) : (s.putFcc cc b).mfbsp = s.mfbsp := rfl
@[simp] theorem State.putFcc_dsp (s : State) (cc : BitVec 3) (b : Bool) : (s.putFcc cc b).dsp = s.dsp := rfl
@[simp] theorem State.putFcc_params (s : State) (cc : BitVec 3) (b : Bool) : (s.putFcc cc b).params = s.params := rfl
@[simp] theorem State.putFcc_moves (s : State) (cc : BitVec 3) (b : Bool) : (s.putFcc cc b).moves = s.moves := rfl
@[simp] theorem State.putFcc_between (s : State) (cc : BitVec 3) (b : Bool) : (s.putFcc cc b).between = s.between := rfl
@[simp] theorem State.putFcc_freeCtr (s : State) (cc : BitVec 3) (b : Bool) : (s.putFcc cc b).freeCtr = s.freeCtr := rfl
@[simp] theorem State.putFcc_excTaken (s : State) (cc : BitVec 3) (b : Bool) : (s.putFcc cc b).excTaken = s.excTaken := rfl
@[simp] theorem State.putFcc_mduUnread (s : State) (cc : BitVec 3) (b : Bool) : (s.putFcc cc b).mduUnread = s.mduUnread := rfl
@[simp] theorem State.putFcc_hazard (s : State) (cc : BitVec 3) (b : Bool) : (s.putFcc cc b).hazard = s.hazard := rfl

/-! ## putStatus -/

@[simp] theorem State.putStatus_gpr (s : State) (v : Word) : (s.putStatus v).gpr = s.gpr := rfl
@[simp] theorem State.putStatus_hi (s : State) (v : Word) : (s.putStatus v).hi = s.hi := rfl
@[simp] theorem State.putStatus_lo (s : State) (v : Word) : (s.putStatus v).lo = s.lo := rfl
@[simp] theorem State.putStatus_pc (s : State) (v : Word) : (s.putStatus v).pc = s.pc := rfl
@[simp] theorem State.putStatus_slot (s : State) (v : Word) : (s.putStatus v).slot = s.slot := rfl
@[simp] theorem State.putStatus_waiting (s : State) (v : Word) : (s.putStatus v).waiting = s.waiting := rfl
@[simp] theorem State.putStatus_nmiPending (s : State) (v : Word) : (s.putStatus v).nmiPending = s.nmiPending := rfl
@[simp] theorem State.putStatus_llbit (s : State) (v : Word) : (s.putStatus v).llbit = s.llbit := rfl
@[simp] theorem State.putStatus_fgr (s : State) (v : Word) : (s.putStatus v).fgr = s.fgr := rfl
@[simp] theorem State.putStatus_fcsr (s : State) (v : Word) : (s.putStatus v).fcsr = s.fcsr := rfl
@[simp] theorem State.putStatus_tlb (s : State) (v : Word) : (s.putStatus v).tlb = s.tlb := rfl
@[simp] theorem State.putStatus_icache (s : State) (v : Word) : (s.putStatus v).icache = s.icache := rfl
@[simp] theorem State.putStatus_mem (s : State) (v : Word) : (s.putStatus v).mem = s.mem := rfl
@[simp] theorem State.putStatus_checkBits (s : State) (v : Word) : (s.putStatus v).checkBits = s.checkBits := rfl
@[simp] theorem State.putStatus_ecc (s : State) (v : Word) : (s.putStatus v).ecc = s.ecc := rfl
@[simp] theorem State.putStatus_sys (s : State) (v : Word) : (s.putStatus v).sys = s.sys := rfl
@[simp] theorem State.putStatus_itimer (s : State) (v : Word) : (s.putStatus v).itimer = s.itimer := rfl
@[simp] theorem State.putStatus_rtimer (s : State) (v : Word) : (s.putStatus v).rtimer = s.rtimer := rfl
@[simp] theorem State.putStatus_wdt (s : State) (v : Word) : (s.putStatus v).wdt = s.wdt := rfl
@[simp] theorem State.putStatus_clk (s : State) (v : Word) : (s.putStatus v).clk = s.clk := rfl
@[simp] theorem State.putStatus_rttGap (s : State) (v : Word) : (s.putStatus v).rttGap = s.rttGap := rfl
@[simp] theorem State.putStatus_dma (s : State) (v : Word) : (s.putStatus v).dma = s.dma := rfl
@[simp] theorem State.putStatus_mport (s : State) (v : Word) : (s.putStatus v).mport = s.mport := rfl
@[simp] theorem State.putStatus_uart (s : State) (v : Word) : (s.putStatus v).uart = s.uart := rfl
@[simp] theorem State.putStatus_swic0 (s : State) (v : Word) : (s.putStatus v).swic0 = s.swic0 := rfl
@[simp] theorem State.putStatus_swic1 (s : State) (v : Word) : (s.putStatus v).swic1 = s.swic1 := rfl
@[simp] theorem State.putStatus_mfbsp (s : State) (v : Word) : (s.putStatus v).mfbsp = s.mfbsp := rfl
@[simp] theorem State.putStatus_dsp (s : State) (v : Word) : (s.putStatus v).dsp = s.dsp := rfl
@[simp] theorem State.putStatus_params (s : State) (v : Word) : (s.putStatus v).params = s.params := rfl
@[simp] theorem State.putStatus_moves (s : State) (v : Word) : (s.putStatus v).moves = s.moves := rfl
@[simp] theorem State.putStatus_between (s : State) (v : Word) : (s.putStatus v).between = s.between := rfl
@[simp] theorem State.putStatus_freeCtr (s : State) (v : Word) : (s.putStatus v).freeCtr = s.freeCtr := rfl
@[simp] theorem State.putStatus_excTaken (s : State) (v : Word) : (s.putStatus v).excTaken = s.excTaken := rfl
@[simp] theorem State.putStatus_mduUnread (s : State) (v : Word) : (s.putStatus v).mduUnread = s.mduUnread := rfl
@[simp] theorem State.putStatus_hazard (s : State) (v : Word) : (s.putStatus v).hazard = s.hazard := rfl

/-! ## drawn -/

@[simp] theorem State.drawn_gpr (s : State) : s.drawn.gpr = s.gpr := rfl
@[simp] theorem State.drawn_hi (s : State) : s.drawn.hi = s.hi := rfl
@[simp] theorem State.drawn_lo (s : State) : s.drawn.lo = s.lo := rfl
@[simp] theorem State.drawn_pc (s : State) : s.drawn.pc = s.pc := rfl
@[simp] theorem State.drawn_slot (s : State) : s.drawn.slot = s.slot := rfl
@[simp] theorem State.drawn_waiting (s : State) : s.drawn.waiting = s.waiting := rfl
@[simp] theorem State.drawn_nmiPending (s : State) : s.drawn.nmiPending = s.nmiPending := rfl
@[simp] theorem State.drawn_llbit (s : State) : s.drawn.llbit = s.llbit := rfl
@[simp] theorem State.drawn_cp0 (s : State) : s.drawn.cp0 = s.cp0 := rfl
@[simp] theorem State.drawn_fgr (s : State) : s.drawn.fgr = s.fgr := rfl
@[simp] theorem State.drawn_fcsr (s : State) : s.drawn.fcsr = s.fcsr := rfl
@[simp] theorem State.drawn_tlb (s : State) : s.drawn.tlb = s.tlb := rfl
@[simp] theorem State.drawn_icache (s : State) : s.drawn.icache = s.icache := rfl
@[simp] theorem State.drawn_mem (s : State) : s.drawn.mem = s.mem := rfl
@[simp] theorem State.drawn_checkBits (s : State) : s.drawn.checkBits = s.checkBits := rfl
@[simp] theorem State.drawn_ecc (s : State) : s.drawn.ecc = s.ecc := rfl
@[simp] theorem State.drawn_sys (s : State) : s.drawn.sys = s.sys := rfl
@[simp] theorem State.drawn_itimer (s : State) : s.drawn.itimer = s.itimer := rfl
@[simp] theorem State.drawn_rtimer (s : State) : s.drawn.rtimer = s.rtimer := rfl
@[simp] theorem State.drawn_wdt (s : State) : s.drawn.wdt = s.wdt := rfl
@[simp] theorem State.drawn_clk (s : State) : s.drawn.clk = s.clk := rfl
@[simp] theorem State.drawn_rttGap (s : State) : s.drawn.rttGap = s.rttGap := rfl
@[simp] theorem State.drawn_dma (s : State) : s.drawn.dma = s.dma := rfl
@[simp] theorem State.drawn_mport (s : State) : s.drawn.mport = s.mport := rfl
@[simp] theorem State.drawn_uart (s : State) : s.drawn.uart = s.uart := rfl
@[simp] theorem State.drawn_swic0 (s : State) : s.drawn.swic0 = s.swic0 := rfl
@[simp] theorem State.drawn_swic1 (s : State) : s.drawn.swic1 = s.swic1 := rfl
@[simp] theorem State.drawn_mfbsp (s : State) : s.drawn.mfbsp = s.mfbsp := rfl
@[simp] theorem State.drawn_dsp (s : State) : s.drawn.dsp = s.dsp := rfl
@[simp] theorem State.drawn_params (s : State) : s.drawn.params = s.params := rfl
@[simp] theorem State.drawn_moves (s : State) : s.drawn.moves = s.moves := rfl
@[simp] theorem State.drawn_between (s : State) : s.drawn.between = s.between := rfl
@[simp] theorem State.drawn_excTaken (s : State) : s.drawn.excTaken = s.excTaken := rfl
@[simp] theorem State.drawn_mduUnread (s : State) : s.drawn.mduUnread = s.mduUnread := rfl
@[simp] theorem State.drawn_hazard (s : State) : s.drawn.hazard = s.hazard := rfl

/-! ## drawnBy -/

@[simp] theorem State.drawnBy_gpr (s : State) (n : Nat) : (s.drawnBy n).gpr = s.gpr := rfl
@[simp] theorem State.drawnBy_hi (s : State) (n : Nat) : (s.drawnBy n).hi = s.hi := rfl
@[simp] theorem State.drawnBy_lo (s : State) (n : Nat) : (s.drawnBy n).lo = s.lo := rfl
@[simp] theorem State.drawnBy_pc (s : State) (n : Nat) : (s.drawnBy n).pc = s.pc := rfl
@[simp] theorem State.drawnBy_slot (s : State) (n : Nat) : (s.drawnBy n).slot = s.slot := rfl
@[simp] theorem State.drawnBy_waiting (s : State) (n : Nat) : (s.drawnBy n).waiting = s.waiting := rfl
@[simp] theorem State.drawnBy_nmiPending (s : State) (n : Nat) : (s.drawnBy n).nmiPending = s.nmiPending := rfl
@[simp] theorem State.drawnBy_llbit (s : State) (n : Nat) : (s.drawnBy n).llbit = s.llbit := rfl
@[simp] theorem State.drawnBy_cp0 (s : State) (n : Nat) : (s.drawnBy n).cp0 = s.cp0 := rfl
@[simp] theorem State.drawnBy_fgr (s : State) (n : Nat) : (s.drawnBy n).fgr = s.fgr := rfl
@[simp] theorem State.drawnBy_fcsr (s : State) (n : Nat) : (s.drawnBy n).fcsr = s.fcsr := rfl
@[simp] theorem State.drawnBy_tlb (s : State) (n : Nat) : (s.drawnBy n).tlb = s.tlb := rfl
@[simp] theorem State.drawnBy_icache (s : State) (n : Nat) : (s.drawnBy n).icache = s.icache := rfl
@[simp] theorem State.drawnBy_mem (s : State) (n : Nat) : (s.drawnBy n).mem = s.mem := rfl
@[simp] theorem State.drawnBy_checkBits (s : State) (n : Nat) : (s.drawnBy n).checkBits = s.checkBits := rfl
@[simp] theorem State.drawnBy_ecc (s : State) (n : Nat) : (s.drawnBy n).ecc = s.ecc := rfl
@[simp] theorem State.drawnBy_sys (s : State) (n : Nat) : (s.drawnBy n).sys = s.sys := rfl
@[simp] theorem State.drawnBy_itimer (s : State) (n : Nat) : (s.drawnBy n).itimer = s.itimer := rfl
@[simp] theorem State.drawnBy_rtimer (s : State) (n : Nat) : (s.drawnBy n).rtimer = s.rtimer := rfl
@[simp] theorem State.drawnBy_wdt (s : State) (n : Nat) : (s.drawnBy n).wdt = s.wdt := rfl
@[simp] theorem State.drawnBy_clk (s : State) (n : Nat) : (s.drawnBy n).clk = s.clk := rfl
@[simp] theorem State.drawnBy_rttGap (s : State) (n : Nat) : (s.drawnBy n).rttGap = s.rttGap := rfl
@[simp] theorem State.drawnBy_dma (s : State) (n : Nat) : (s.drawnBy n).dma = s.dma := rfl
@[simp] theorem State.drawnBy_mport (s : State) (n : Nat) : (s.drawnBy n).mport = s.mport := rfl
@[simp] theorem State.drawnBy_uart (s : State) (n : Nat) : (s.drawnBy n).uart = s.uart := rfl
@[simp] theorem State.drawnBy_swic0 (s : State) (n : Nat) : (s.drawnBy n).swic0 = s.swic0 := rfl
@[simp] theorem State.drawnBy_swic1 (s : State) (n : Nat) : (s.drawnBy n).swic1 = s.swic1 := rfl
@[simp] theorem State.drawnBy_mfbsp (s : State) (n : Nat) : (s.drawnBy n).mfbsp = s.mfbsp := rfl
@[simp] theorem State.drawnBy_dsp (s : State) (n : Nat) : (s.drawnBy n).dsp = s.dsp := rfl
@[simp] theorem State.drawnBy_params (s : State) (n : Nat) : (s.drawnBy n).params = s.params := rfl
@[simp] theorem State.drawnBy_moves (s : State) (n : Nat) : (s.drawnBy n).moves = s.moves := rfl
@[simp] theorem State.drawnBy_between (s : State) (n : Nat) : (s.drawnBy n).between = s.between := rfl
@[simp] theorem State.drawnBy_excTaken (s : State) (n : Nat) : (s.drawnBy n).excTaken = s.excTaken := rfl
@[simp] theorem State.drawnBy_mduUnread (s : State) (n : Nat) : (s.drawnBy n).mduUnread = s.mduUnread := rfl
@[simp] theorem State.drawnBy_hazard (s : State) (n : Nat) : (s.drawnBy n).hazard = s.hazard := rfl

/-! ## putChannel -/

@[simp] theorem State.putChannel_gpr (s : State) (c : Fin 16) (ch : DmaChannel) : (s.putChannel c ch).gpr = s.gpr := rfl
@[simp] theorem State.putChannel_hi (s : State) (c : Fin 16) (ch : DmaChannel) : (s.putChannel c ch).hi = s.hi := rfl
@[simp] theorem State.putChannel_lo (s : State) (c : Fin 16) (ch : DmaChannel) : (s.putChannel c ch).lo = s.lo := rfl
@[simp] theorem State.putChannel_pc (s : State) (c : Fin 16) (ch : DmaChannel) : (s.putChannel c ch).pc = s.pc := rfl
@[simp] theorem State.putChannel_slot (s : State) (c : Fin 16) (ch : DmaChannel) : (s.putChannel c ch).slot = s.slot := rfl
@[simp] theorem State.putChannel_waiting (s : State) (c : Fin 16) (ch : DmaChannel) : (s.putChannel c ch).waiting = s.waiting := rfl
@[simp] theorem State.putChannel_nmiPending (s : State) (c : Fin 16) (ch : DmaChannel) : (s.putChannel c ch).nmiPending = s.nmiPending := rfl
@[simp] theorem State.putChannel_llbit (s : State) (c : Fin 16) (ch : DmaChannel) : (s.putChannel c ch).llbit = s.llbit := rfl
@[simp] theorem State.putChannel_cp0 (s : State) (c : Fin 16) (ch : DmaChannel) : (s.putChannel c ch).cp0 = s.cp0 := rfl
@[simp] theorem State.putChannel_fgr (s : State) (c : Fin 16) (ch : DmaChannel) : (s.putChannel c ch).fgr = s.fgr := rfl
@[simp] theorem State.putChannel_fcsr (s : State) (c : Fin 16) (ch : DmaChannel) : (s.putChannel c ch).fcsr = s.fcsr := rfl
@[simp] theorem State.putChannel_tlb (s : State) (c : Fin 16) (ch : DmaChannel) : (s.putChannel c ch).tlb = s.tlb := rfl
@[simp] theorem State.putChannel_icache (s : State) (c : Fin 16) (ch : DmaChannel) : (s.putChannel c ch).icache = s.icache := rfl
@[simp] theorem State.putChannel_mem (s : State) (c : Fin 16) (ch : DmaChannel) : (s.putChannel c ch).mem = s.mem := rfl
@[simp] theorem State.putChannel_checkBits (s : State) (c : Fin 16) (ch : DmaChannel) : (s.putChannel c ch).checkBits = s.checkBits := rfl
@[simp] theorem State.putChannel_ecc (s : State) (c : Fin 16) (ch : DmaChannel) : (s.putChannel c ch).ecc = s.ecc := rfl
@[simp] theorem State.putChannel_sys (s : State) (c : Fin 16) (ch : DmaChannel) : (s.putChannel c ch).sys = s.sys := rfl
@[simp] theorem State.putChannel_itimer (s : State) (c : Fin 16) (ch : DmaChannel) : (s.putChannel c ch).itimer = s.itimer := rfl
@[simp] theorem State.putChannel_rtimer (s : State) (c : Fin 16) (ch : DmaChannel) : (s.putChannel c ch).rtimer = s.rtimer := rfl
@[simp] theorem State.putChannel_wdt (s : State) (c : Fin 16) (ch : DmaChannel) : (s.putChannel c ch).wdt = s.wdt := rfl
@[simp] theorem State.putChannel_clk (s : State) (c : Fin 16) (ch : DmaChannel) : (s.putChannel c ch).clk = s.clk := rfl
@[simp] theorem State.putChannel_rttGap (s : State) (c : Fin 16) (ch : DmaChannel) : (s.putChannel c ch).rttGap = s.rttGap := rfl
@[simp] theorem State.putChannel_mport (s : State) (c : Fin 16) (ch : DmaChannel) : (s.putChannel c ch).mport = s.mport := rfl
@[simp] theorem State.putChannel_uart (s : State) (c : Fin 16) (ch : DmaChannel) : (s.putChannel c ch).uart = s.uart := rfl
@[simp] theorem State.putChannel_swic0 (s : State) (c : Fin 16) (ch : DmaChannel) : (s.putChannel c ch).swic0 = s.swic0 := rfl
@[simp] theorem State.putChannel_swic1 (s : State) (c : Fin 16) (ch : DmaChannel) : (s.putChannel c ch).swic1 = s.swic1 := rfl
@[simp] theorem State.putChannel_mfbsp (s : State) (c : Fin 16) (ch : DmaChannel) : (s.putChannel c ch).mfbsp = s.mfbsp := rfl
@[simp] theorem State.putChannel_dsp (s : State) (c : Fin 16) (ch : DmaChannel) : (s.putChannel c ch).dsp = s.dsp := rfl
@[simp] theorem State.putChannel_params (s : State) (c : Fin 16) (ch : DmaChannel) : (s.putChannel c ch).params = s.params := rfl
@[simp] theorem State.putChannel_moves (s : State) (c : Fin 16) (ch : DmaChannel) : (s.putChannel c ch).moves = s.moves := rfl
@[simp] theorem State.putChannel_between (s : State) (c : Fin 16) (ch : DmaChannel) : (s.putChannel c ch).between = s.between := rfl
@[simp] theorem State.putChannel_freeCtr (s : State) (c : Fin 16) (ch : DmaChannel) : (s.putChannel c ch).freeCtr = s.freeCtr := rfl
@[simp] theorem State.putChannel_excTaken (s : State) (c : Fin 16) (ch : DmaChannel) : (s.putChannel c ch).excTaken = s.excTaken := rfl
@[simp] theorem State.putChannel_mduUnread (s : State) (c : Fin 16) (ch : DmaChannel) : (s.putChannel c ch).mduUnread = s.mduUnread := rfl
@[simp] theorem State.putChannel_hazard (s : State) (c : Fin 16) (ch : DmaChannel) : (s.putChannel c ch).hazard = s.hazard := rfl

/-! ## mapSec -/

@[simp] theorem State.mapSec_gpr (s : State) (k : Bool) (f : DspSection → DspSection) : (s.mapSec k f).gpr = s.gpr := rfl
@[simp] theorem State.mapSec_hi (s : State) (k : Bool) (f : DspSection → DspSection) : (s.mapSec k f).hi = s.hi := rfl
@[simp] theorem State.mapSec_lo (s : State) (k : Bool) (f : DspSection → DspSection) : (s.mapSec k f).lo = s.lo := rfl
@[simp] theorem State.mapSec_pc (s : State) (k : Bool) (f : DspSection → DspSection) : (s.mapSec k f).pc = s.pc := rfl
@[simp] theorem State.mapSec_slot (s : State) (k : Bool) (f : DspSection → DspSection) : (s.mapSec k f).slot = s.slot := rfl
@[simp] theorem State.mapSec_waiting (s : State) (k : Bool) (f : DspSection → DspSection) : (s.mapSec k f).waiting = s.waiting := rfl
@[simp] theorem State.mapSec_nmiPending (s : State) (k : Bool) (f : DspSection → DspSection) : (s.mapSec k f).nmiPending = s.nmiPending := rfl
@[simp] theorem State.mapSec_llbit (s : State) (k : Bool) (f : DspSection → DspSection) : (s.mapSec k f).llbit = s.llbit := rfl
@[simp] theorem State.mapSec_cp0 (s : State) (k : Bool) (f : DspSection → DspSection) : (s.mapSec k f).cp0 = s.cp0 := rfl
@[simp] theorem State.mapSec_fgr (s : State) (k : Bool) (f : DspSection → DspSection) : (s.mapSec k f).fgr = s.fgr := rfl
@[simp] theorem State.mapSec_fcsr (s : State) (k : Bool) (f : DspSection → DspSection) : (s.mapSec k f).fcsr = s.fcsr := rfl
@[simp] theorem State.mapSec_tlb (s : State) (k : Bool) (f : DspSection → DspSection) : (s.mapSec k f).tlb = s.tlb := rfl
@[simp] theorem State.mapSec_icache (s : State) (k : Bool) (f : DspSection → DspSection) : (s.mapSec k f).icache = s.icache := rfl
@[simp] theorem State.mapSec_mem (s : State) (k : Bool) (f : DspSection → DspSection) : (s.mapSec k f).mem = s.mem := rfl
@[simp] theorem State.mapSec_checkBits (s : State) (k : Bool) (f : DspSection → DspSection) : (s.mapSec k f).checkBits = s.checkBits := rfl
@[simp] theorem State.mapSec_ecc (s : State) (k : Bool) (f : DspSection → DspSection) : (s.mapSec k f).ecc = s.ecc := rfl
@[simp] theorem State.mapSec_sys (s : State) (k : Bool) (f : DspSection → DspSection) : (s.mapSec k f).sys = s.sys := rfl
@[simp] theorem State.mapSec_itimer (s : State) (k : Bool) (f : DspSection → DspSection) : (s.mapSec k f).itimer = s.itimer := rfl
@[simp] theorem State.mapSec_rtimer (s : State) (k : Bool) (f : DspSection → DspSection) : (s.mapSec k f).rtimer = s.rtimer := rfl
@[simp] theorem State.mapSec_wdt (s : State) (k : Bool) (f : DspSection → DspSection) : (s.mapSec k f).wdt = s.wdt := rfl
@[simp] theorem State.mapSec_clk (s : State) (k : Bool) (f : DspSection → DspSection) : (s.mapSec k f).clk = s.clk := rfl
@[simp] theorem State.mapSec_rttGap (s : State) (k : Bool) (f : DspSection → DspSection) : (s.mapSec k f).rttGap = s.rttGap := rfl
@[simp] theorem State.mapSec_dma (s : State) (k : Bool) (f : DspSection → DspSection) : (s.mapSec k f).dma = s.dma := rfl
@[simp] theorem State.mapSec_mport (s : State) (k : Bool) (f : DspSection → DspSection) : (s.mapSec k f).mport = s.mport := rfl
@[simp] theorem State.mapSec_uart (s : State) (k : Bool) (f : DspSection → DspSection) : (s.mapSec k f).uart = s.uart := rfl
@[simp] theorem State.mapSec_swic0 (s : State) (k : Bool) (f : DspSection → DspSection) : (s.mapSec k f).swic0 = s.swic0 := rfl
@[simp] theorem State.mapSec_swic1 (s : State) (k : Bool) (f : DspSection → DspSection) : (s.mapSec k f).swic1 = s.swic1 := rfl
@[simp] theorem State.mapSec_mfbsp (s : State) (k : Bool) (f : DspSection → DspSection) : (s.mapSec k f).mfbsp = s.mfbsp := rfl
@[simp] theorem State.mapSec_params (s : State) (k : Bool) (f : DspSection → DspSection) : (s.mapSec k f).params = s.params := rfl
@[simp] theorem State.mapSec_moves (s : State) (k : Bool) (f : DspSection → DspSection) : (s.mapSec k f).moves = s.moves := rfl
@[simp] theorem State.mapSec_between (s : State) (k : Bool) (f : DspSection → DspSection) : (s.mapSec k f).between = s.between := rfl
@[simp] theorem State.mapSec_freeCtr (s : State) (k : Bool) (f : DspSection → DspSection) : (s.mapSec k f).freeCtr = s.freeCtr := rfl
@[simp] theorem State.mapSec_excTaken (s : State) (k : Bool) (f : DspSection → DspSection) : (s.mapSec k f).excTaken = s.excTaken := rfl
@[simp] theorem State.mapSec_mduUnread (s : State) (k : Bool) (f : DspSection → DspSection) : (s.mapSec k f).mduUnread = s.mduUnread := rfl
@[simp] theorem State.mapSec_hazard (s : State) (k : Bool) (f : DspSection → DspSection) : (s.mapSec k f).hazard = s.hazard := rfl

/-! ## enterHandler -/

@[simp] theorem State.enterHandler_gpr (s : State) : s.enterHandler.gpr = s.gpr := by unfold State.enterHandler; split <;> rfl
@[simp] theorem State.enterHandler_hi (s : State) : s.enterHandler.hi = s.hi := by unfold State.enterHandler; split <;> rfl
@[simp] theorem State.enterHandler_lo (s : State) : s.enterHandler.lo = s.lo := by unfold State.enterHandler; split <;> rfl
@[simp] theorem State.enterHandler_pc (s : State) : s.enterHandler.pc = s.pc := by unfold State.enterHandler; split <;> rfl
@[simp] theorem State.enterHandler_slot (s : State) : s.enterHandler.slot = s.slot := by unfold State.enterHandler; split <;> rfl
@[simp] theorem State.enterHandler_waiting (s : State) : s.enterHandler.waiting = s.waiting := by unfold State.enterHandler; split <;> rfl
@[simp] theorem State.enterHandler_nmiPending (s : State) : s.enterHandler.nmiPending = s.nmiPending := by unfold State.enterHandler; split <;> rfl
@[simp] theorem State.enterHandler_llbit (s : State) : s.enterHandler.llbit = s.llbit := by unfold State.enterHandler; split <;> rfl
@[simp] theorem State.enterHandler_cp0 (s : State) : s.enterHandler.cp0 = s.cp0 := by unfold State.enterHandler; split <;> rfl
@[simp] theorem State.enterHandler_fgr (s : State) : s.enterHandler.fgr = s.fgr := by unfold State.enterHandler; split <;> rfl
@[simp] theorem State.enterHandler_fcsr (s : State) : s.enterHandler.fcsr = s.fcsr := by unfold State.enterHandler; split <;> rfl
@[simp] theorem State.enterHandler_tlb (s : State) : s.enterHandler.tlb = s.tlb := by unfold State.enterHandler; split <;> rfl
@[simp] theorem State.enterHandler_icache (s : State) : s.enterHandler.icache = s.icache := by unfold State.enterHandler; split <;> rfl
@[simp] theorem State.enterHandler_mem (s : State) : s.enterHandler.mem = s.mem := by unfold State.enterHandler; split <;> rfl
@[simp] theorem State.enterHandler_checkBits (s : State) : s.enterHandler.checkBits = s.checkBits := by unfold State.enterHandler; split <;> rfl
@[simp] theorem State.enterHandler_ecc (s : State) : s.enterHandler.ecc = s.ecc := by unfold State.enterHandler; split <;> rfl
@[simp] theorem State.enterHandler_sys (s : State) : s.enterHandler.sys = s.sys := by unfold State.enterHandler; split <;> rfl
@[simp] theorem State.enterHandler_itimer (s : State) : s.enterHandler.itimer = s.itimer := by unfold State.enterHandler; split <;> rfl
@[simp] theorem State.enterHandler_rtimer (s : State) : s.enterHandler.rtimer = s.rtimer := by unfold State.enterHandler; split <;> rfl
@[simp] theorem State.enterHandler_wdt (s : State) : s.enterHandler.wdt = s.wdt := by unfold State.enterHandler; split <;> rfl
@[simp] theorem State.enterHandler_clk (s : State) : s.enterHandler.clk = s.clk := by unfold State.enterHandler; split <;> rfl
@[simp] theorem State.enterHandler_rttGap (s : State) : s.enterHandler.rttGap = s.rttGap := by unfold State.enterHandler; split <;> rfl
@[simp] theorem State.enterHandler_dma (s : State) : s.enterHandler.dma = s.dma := by unfold State.enterHandler; split <;> rfl
@[simp] theorem State.enterHandler_mport (s : State) : s.enterHandler.mport = s.mport := by unfold State.enterHandler; split <;> rfl
@[simp] theorem State.enterHandler_uart (s : State) : s.enterHandler.uart = s.uart := by unfold State.enterHandler; split <;> rfl
@[simp] theorem State.enterHandler_swic0 (s : State) : s.enterHandler.swic0 = s.swic0 := by unfold State.enterHandler; split <;> rfl
@[simp] theorem State.enterHandler_swic1 (s : State) : s.enterHandler.swic1 = s.swic1 := by unfold State.enterHandler; split <;> rfl
@[simp] theorem State.enterHandler_mfbsp (s : State) : s.enterHandler.mfbsp = s.mfbsp := by unfold State.enterHandler; split <;> rfl
@[simp] theorem State.enterHandler_dsp (s : State) : s.enterHandler.dsp = s.dsp := by unfold State.enterHandler; split <;> rfl
@[simp] theorem State.enterHandler_params (s : State) : s.enterHandler.params = s.params := by unfold State.enterHandler; split <;> rfl
@[simp] theorem State.enterHandler_moves (s : State) : s.enterHandler.moves = s.moves := by unfold State.enterHandler; split <;> rfl
@[simp] theorem State.enterHandler_between (s : State) : s.enterHandler.between = s.between := by unfold State.enterHandler; split <;> rfl
@[simp] theorem State.enterHandler_freeCtr (s : State) : s.enterHandler.freeCtr = s.freeCtr := by unfold State.enterHandler; split <;> rfl
@[simp] theorem State.enterHandler_excTaken (s : State) : s.enterHandler.excTaken = s.excTaken := by unfold State.enterHandler; split <;> rfl
@[simp] theorem State.enterHandler_mduUnread (s : State) : s.enterHandler.mduUnread = s.mduUnread := by unfold State.enterHandler; split <;> rfl

/-! ## endStep -/

@[simp] theorem State.endStep_gpr (s : State) : s.endStep.gpr = s.gpr := rfl
@[simp] theorem State.endStep_hi (s : State) : s.endStep.hi = s.hi := rfl
@[simp] theorem State.endStep_lo (s : State) : s.endStep.lo = s.lo := rfl
@[simp] theorem State.endStep_pc (s : State) : s.endStep.pc = s.pc := rfl
@[simp] theorem State.endStep_slot (s : State) : s.endStep.slot = s.slot := rfl
@[simp] theorem State.endStep_waiting (s : State) : s.endStep.waiting = s.waiting := rfl
@[simp] theorem State.endStep_nmiPending (s : State) : s.endStep.nmiPending = s.nmiPending := rfl
@[simp] theorem State.endStep_llbit (s : State) : s.endStep.llbit = s.llbit := rfl
@[simp] theorem State.endStep_cp0 (s : State) : s.endStep.cp0 = s.cp0 := rfl
@[simp] theorem State.endStep_fgr (s : State) : s.endStep.fgr = s.fgr := rfl
@[simp] theorem State.endStep_fcsr (s : State) : s.endStep.fcsr = s.fcsr := rfl
@[simp] theorem State.endStep_tlb (s : State) : s.endStep.tlb = s.tlb := rfl
@[simp] theorem State.endStep_icache (s : State) : s.endStep.icache = s.icache := rfl
@[simp] theorem State.endStep_mem (s : State) : s.endStep.mem = s.mem := rfl
@[simp] theorem State.endStep_checkBits (s : State) : s.endStep.checkBits = s.checkBits := rfl
@[simp] theorem State.endStep_ecc (s : State) : s.endStep.ecc = s.ecc := rfl
@[simp] theorem State.endStep_sys (s : State) : s.endStep.sys = s.sys := rfl
@[simp] theorem State.endStep_itimer (s : State) : s.endStep.itimer = s.itimer := rfl
@[simp] theorem State.endStep_rtimer (s : State) : s.endStep.rtimer = s.rtimer := rfl
@[simp] theorem State.endStep_wdt (s : State) : s.endStep.wdt = s.wdt := rfl
@[simp] theorem State.endStep_clk (s : State) : s.endStep.clk = s.clk := rfl
@[simp] theorem State.endStep_rttGap (s : State) : s.endStep.rttGap = s.rttGap := rfl
@[simp] theorem State.endStep_dma (s : State) : s.endStep.dma = s.dma := rfl
@[simp] theorem State.endStep_uart (s : State) : s.endStep.uart = s.uart := rfl
@[simp] theorem State.endStep_swic0 (s : State) : s.endStep.swic0 = s.swic0 := rfl
@[simp] theorem State.endStep_swic1 (s : State) : s.endStep.swic1 = s.swic1 := rfl
@[simp] theorem State.endStep_mfbsp (s : State) : s.endStep.mfbsp = s.mfbsp := rfl
@[simp] theorem State.endStep_dsp (s : State) : s.endStep.dsp = s.dsp := rfl
@[simp] theorem State.endStep_params (s : State) : s.endStep.params = s.params := rfl
@[simp] theorem State.endStep_moves (s : State) : s.endStep.moves = s.moves := rfl
@[simp] theorem State.endStep_freeCtr (s : State) : s.endStep.freeCtr = s.freeCtr := rfl
@[simp] theorem State.endStep_mduUnread (s : State) : s.endStep.mduUnread = s.mduUnread := rfl
@[simp] theorem State.endStep_hazard (s : State) : s.endStep.hazard = s.hazard := rfl

/-! ## putHiLo -/

@[simp] theorem State.putHiLo_gpr (s : State) (v : Dword) (b : Bool) : (s.putHiLo v b).gpr = s.gpr := rfl
@[simp] theorem State.putHiLo_pc (s : State) (v : Dword) (b : Bool) : (s.putHiLo v b).pc = s.pc := rfl
@[simp] theorem State.putHiLo_slot (s : State) (v : Dword) (b : Bool) : (s.putHiLo v b).slot = s.slot := rfl
@[simp] theorem State.putHiLo_waiting (s : State) (v : Dword) (b : Bool) : (s.putHiLo v b).waiting = s.waiting := rfl
@[simp] theorem State.putHiLo_nmiPending (s : State) (v : Dword) (b : Bool) : (s.putHiLo v b).nmiPending = s.nmiPending := rfl
@[simp] theorem State.putHiLo_llbit (s : State) (v : Dword) (b : Bool) : (s.putHiLo v b).llbit = s.llbit := rfl
@[simp] theorem State.putHiLo_cp0 (s : State) (v : Dword) (b : Bool) : (s.putHiLo v b).cp0 = s.cp0 := rfl
@[simp] theorem State.putHiLo_fgr (s : State) (v : Dword) (b : Bool) : (s.putHiLo v b).fgr = s.fgr := rfl
@[simp] theorem State.putHiLo_fcsr (s : State) (v : Dword) (b : Bool) : (s.putHiLo v b).fcsr = s.fcsr := rfl
@[simp] theorem State.putHiLo_tlb (s : State) (v : Dword) (b : Bool) : (s.putHiLo v b).tlb = s.tlb := rfl
@[simp] theorem State.putHiLo_icache (s : State) (v : Dword) (b : Bool) : (s.putHiLo v b).icache = s.icache := rfl
@[simp] theorem State.putHiLo_mem (s : State) (v : Dword) (b : Bool) : (s.putHiLo v b).mem = s.mem := rfl
@[simp] theorem State.putHiLo_checkBits (s : State) (v : Dword) (b : Bool) : (s.putHiLo v b).checkBits = s.checkBits := rfl
@[simp] theorem State.putHiLo_ecc (s : State) (v : Dword) (b : Bool) : (s.putHiLo v b).ecc = s.ecc := rfl
@[simp] theorem State.putHiLo_sys (s : State) (v : Dword) (b : Bool) : (s.putHiLo v b).sys = s.sys := rfl
@[simp] theorem State.putHiLo_itimer (s : State) (v : Dword) (b : Bool) : (s.putHiLo v b).itimer = s.itimer := rfl
@[simp] theorem State.putHiLo_rtimer (s : State) (v : Dword) (b : Bool) : (s.putHiLo v b).rtimer = s.rtimer := rfl
@[simp] theorem State.putHiLo_wdt (s : State) (v : Dword) (b : Bool) : (s.putHiLo v b).wdt = s.wdt := rfl
@[simp] theorem State.putHiLo_clk (s : State) (v : Dword) (b : Bool) : (s.putHiLo v b).clk = s.clk := rfl
@[simp] theorem State.putHiLo_rttGap (s : State) (v : Dword) (b : Bool) : (s.putHiLo v b).rttGap = s.rttGap := rfl
@[simp] theorem State.putHiLo_dma (s : State) (v : Dword) (b : Bool) : (s.putHiLo v b).dma = s.dma := rfl
@[simp] theorem State.putHiLo_mport (s : State) (v : Dword) (b : Bool) : (s.putHiLo v b).mport = s.mport := rfl
@[simp] theorem State.putHiLo_uart (s : State) (v : Dword) (b : Bool) : (s.putHiLo v b).uart = s.uart := rfl
@[simp] theorem State.putHiLo_swic0 (s : State) (v : Dword) (b : Bool) : (s.putHiLo v b).swic0 = s.swic0 := rfl
@[simp] theorem State.putHiLo_swic1 (s : State) (v : Dword) (b : Bool) : (s.putHiLo v b).swic1 = s.swic1 := rfl
@[simp] theorem State.putHiLo_mfbsp (s : State) (v : Dword) (b : Bool) : (s.putHiLo v b).mfbsp = s.mfbsp := rfl
@[simp] theorem State.putHiLo_dsp (s : State) (v : Dword) (b : Bool) : (s.putHiLo v b).dsp = s.dsp := rfl
@[simp] theorem State.putHiLo_params (s : State) (v : Dword) (b : Bool) : (s.putHiLo v b).params = s.params := rfl
@[simp] theorem State.putHiLo_moves (s : State) (v : Dword) (b : Bool) : (s.putHiLo v b).moves = s.moves := rfl
@[simp] theorem State.putHiLo_between (s : State) (v : Dword) (b : Bool) : (s.putHiLo v b).between = s.between := rfl
@[simp] theorem State.putHiLo_freeCtr (s : State) (v : Dword) (b : Bool) : (s.putHiLo v b).freeCtr = s.freeCtr := rfl
@[simp] theorem State.putHiLo_excTaken (s : State) (v : Dword) (b : Bool) : (s.putHiLo v b).excTaken = s.excTaken := rfl
@[simp] theorem State.putHiLo_hazard (s : State) (v : Dword) (b : Bool) : (s.putHiLo v b).hazard = s.hazard := rfl

/-! ## freeHiLo -/

@[simp] theorem State.freeHiLo_gpr (s : State) (b : Bool) : (s.freeHiLo b).gpr = s.gpr := rfl
@[simp] theorem State.freeHiLo_pc (s : State) (b : Bool) : (s.freeHiLo b).pc = s.pc := rfl
@[simp] theorem State.freeHiLo_slot (s : State) (b : Bool) : (s.freeHiLo b).slot = s.slot := rfl
@[simp] theorem State.freeHiLo_waiting (s : State) (b : Bool) : (s.freeHiLo b).waiting = s.waiting := rfl
@[simp] theorem State.freeHiLo_nmiPending (s : State) (b : Bool) : (s.freeHiLo b).nmiPending = s.nmiPending := rfl
@[simp] theorem State.freeHiLo_llbit (s : State) (b : Bool) : (s.freeHiLo b).llbit = s.llbit := rfl
@[simp] theorem State.freeHiLo_cp0 (s : State) (b : Bool) : (s.freeHiLo b).cp0 = s.cp0 := rfl
@[simp] theorem State.freeHiLo_fgr (s : State) (b : Bool) : (s.freeHiLo b).fgr = s.fgr := rfl
@[simp] theorem State.freeHiLo_fcsr (s : State) (b : Bool) : (s.freeHiLo b).fcsr = s.fcsr := rfl
@[simp] theorem State.freeHiLo_tlb (s : State) (b : Bool) : (s.freeHiLo b).tlb = s.tlb := rfl
@[simp] theorem State.freeHiLo_icache (s : State) (b : Bool) : (s.freeHiLo b).icache = s.icache := rfl
@[simp] theorem State.freeHiLo_mem (s : State) (b : Bool) : (s.freeHiLo b).mem = s.mem := rfl
@[simp] theorem State.freeHiLo_checkBits (s : State) (b : Bool) : (s.freeHiLo b).checkBits = s.checkBits := rfl
@[simp] theorem State.freeHiLo_ecc (s : State) (b : Bool) : (s.freeHiLo b).ecc = s.ecc := rfl
@[simp] theorem State.freeHiLo_sys (s : State) (b : Bool) : (s.freeHiLo b).sys = s.sys := rfl
@[simp] theorem State.freeHiLo_itimer (s : State) (b : Bool) : (s.freeHiLo b).itimer = s.itimer := rfl
@[simp] theorem State.freeHiLo_rtimer (s : State) (b : Bool) : (s.freeHiLo b).rtimer = s.rtimer := rfl
@[simp] theorem State.freeHiLo_wdt (s : State) (b : Bool) : (s.freeHiLo b).wdt = s.wdt := rfl
@[simp] theorem State.freeHiLo_clk (s : State) (b : Bool) : (s.freeHiLo b).clk = s.clk := rfl
@[simp] theorem State.freeHiLo_rttGap (s : State) (b : Bool) : (s.freeHiLo b).rttGap = s.rttGap := rfl
@[simp] theorem State.freeHiLo_dma (s : State) (b : Bool) : (s.freeHiLo b).dma = s.dma := rfl
@[simp] theorem State.freeHiLo_mport (s : State) (b : Bool) : (s.freeHiLo b).mport = s.mport := rfl
@[simp] theorem State.freeHiLo_uart (s : State) (b : Bool) : (s.freeHiLo b).uart = s.uart := rfl
@[simp] theorem State.freeHiLo_swic0 (s : State) (b : Bool) : (s.freeHiLo b).swic0 = s.swic0 := rfl
@[simp] theorem State.freeHiLo_swic1 (s : State) (b : Bool) : (s.freeHiLo b).swic1 = s.swic1 := rfl
@[simp] theorem State.freeHiLo_mfbsp (s : State) (b : Bool) : (s.freeHiLo b).mfbsp = s.mfbsp := rfl
@[simp] theorem State.freeHiLo_dsp (s : State) (b : Bool) : (s.freeHiLo b).dsp = s.dsp := rfl
@[simp] theorem State.freeHiLo_params (s : State) (b : Bool) : (s.freeHiLo b).params = s.params := rfl
@[simp] theorem State.freeHiLo_moves (s : State) (b : Bool) : (s.freeHiLo b).moves = s.moves := rfl
@[simp] theorem State.freeHiLo_between (s : State) (b : Bool) : (s.freeHiLo b).between = s.between := rfl
@[simp] theorem State.freeHiLo_excTaken (s : State) (b : Bool) : (s.freeHiLo b).excTaken = s.excTaken := rfl
@[simp] theorem State.freeHiLo_hazard (s : State) (b : Bool) : (s.freeHiLo b).hazard = s.hazard := rfl

/-! ## sequence -/

@[simp] theorem State.sequence_gpr (s : State) (d : Decision) : (s.sequence d).gpr = s.gpr := by unfold State.sequence; split <;> first | rfl | (split <;> rfl)
@[simp] theorem State.sequence_hi (s : State) (d : Decision) : (s.sequence d).hi = s.hi := by unfold State.sequence; split <;> first | rfl | (split <;> rfl)
@[simp] theorem State.sequence_lo (s : State) (d : Decision) : (s.sequence d).lo = s.lo := by unfold State.sequence; split <;> first | rfl | (split <;> rfl)
@[simp] theorem State.sequence_waiting (s : State) (d : Decision) : (s.sequence d).waiting = s.waiting := by unfold State.sequence; split <;> first | rfl | (split <;> rfl)
@[simp] theorem State.sequence_nmiPending (s : State) (d : Decision) : (s.sequence d).nmiPending = s.nmiPending := by unfold State.sequence; split <;> first | rfl | (split <;> rfl)
@[simp] theorem State.sequence_llbit (s : State) (d : Decision) : (s.sequence d).llbit = s.llbit := by unfold State.sequence; split <;> first | rfl | (split <;> rfl)
@[simp] theorem State.sequence_cp0 (s : State) (d : Decision) : (s.sequence d).cp0 = s.cp0 := by unfold State.sequence; split <;> first | rfl | (split <;> rfl)
@[simp] theorem State.sequence_fgr (s : State) (d : Decision) : (s.sequence d).fgr = s.fgr := by unfold State.sequence; split <;> first | rfl | (split <;> rfl)
@[simp] theorem State.sequence_fcsr (s : State) (d : Decision) : (s.sequence d).fcsr = s.fcsr := by unfold State.sequence; split <;> first | rfl | (split <;> rfl)
@[simp] theorem State.sequence_tlb (s : State) (d : Decision) : (s.sequence d).tlb = s.tlb := by unfold State.sequence; split <;> first | rfl | (split <;> rfl)
@[simp] theorem State.sequence_icache (s : State) (d : Decision) : (s.sequence d).icache = s.icache := by unfold State.sequence; split <;> first | rfl | (split <;> rfl)
@[simp] theorem State.sequence_mem (s : State) (d : Decision) : (s.sequence d).mem = s.mem := by unfold State.sequence; split <;> first | rfl | (split <;> rfl)
@[simp] theorem State.sequence_checkBits (s : State) (d : Decision) : (s.sequence d).checkBits = s.checkBits := by unfold State.sequence; split <;> first | rfl | (split <;> rfl)
@[simp] theorem State.sequence_ecc (s : State) (d : Decision) : (s.sequence d).ecc = s.ecc := by unfold State.sequence; split <;> first | rfl | (split <;> rfl)
@[simp] theorem State.sequence_sys (s : State) (d : Decision) : (s.sequence d).sys = s.sys := by unfold State.sequence; split <;> first | rfl | (split <;> rfl)
@[simp] theorem State.sequence_itimer (s : State) (d : Decision) : (s.sequence d).itimer = s.itimer := by unfold State.sequence; split <;> first | rfl | (split <;> rfl)
@[simp] theorem State.sequence_rtimer (s : State) (d : Decision) : (s.sequence d).rtimer = s.rtimer := by unfold State.sequence; split <;> first | rfl | (split <;> rfl)
@[simp] theorem State.sequence_wdt (s : State) (d : Decision) : (s.sequence d).wdt = s.wdt := by unfold State.sequence; split <;> first | rfl | (split <;> rfl)
@[simp] theorem State.sequence_clk (s : State) (d : Decision) : (s.sequence d).clk = s.clk := by unfold State.sequence; split <;> first | rfl | (split <;> rfl)
@[simp] theorem State.sequence_rttGap (s : State) (d : Decision) : (s.sequence d).rttGap = s.rttGap := by unfold State.sequence; split <;> first | rfl | (split <;> rfl)
@[simp] theorem State.sequence_dma (s : State) (d : Decision) : (s.sequence d).dma = s.dma := by unfold State.sequence; split <;> first | rfl | (split <;> rfl)
@[simp] theorem State.sequence_mport (s : State) (d : Decision) : (s.sequence d).mport = s.mport := by unfold State.sequence; split <;> first | rfl | (split <;> rfl)
@[simp] theorem State.sequence_uart (s : State) (d : Decision) : (s.sequence d).uart = s.uart := by unfold State.sequence; split <;> first | rfl | (split <;> rfl)
@[simp] theorem State.sequence_swic0 (s : State) (d : Decision) : (s.sequence d).swic0 = s.swic0 := by unfold State.sequence; split <;> first | rfl | (split <;> rfl)
@[simp] theorem State.sequence_swic1 (s : State) (d : Decision) : (s.sequence d).swic1 = s.swic1 := by unfold State.sequence; split <;> first | rfl | (split <;> rfl)
@[simp] theorem State.sequence_mfbsp (s : State) (d : Decision) : (s.sequence d).mfbsp = s.mfbsp := by unfold State.sequence; split <;> first | rfl | (split <;> rfl)
@[simp] theorem State.sequence_dsp (s : State) (d : Decision) : (s.sequence d).dsp = s.dsp := by unfold State.sequence; split <;> first | rfl | (split <;> rfl)
@[simp] theorem State.sequence_params (s : State) (d : Decision) : (s.sequence d).params = s.params := by unfold State.sequence; split <;> first | rfl | (split <;> rfl)
@[simp] theorem State.sequence_moves (s : State) (d : Decision) : (s.sequence d).moves = s.moves := by unfold State.sequence; split <;> first | rfl | (split <;> rfl)
@[simp] theorem State.sequence_between (s : State) (d : Decision) : (s.sequence d).between = s.between := by unfold State.sequence; split <;> first | rfl | (split <;> rfl)
@[simp] theorem State.sequence_freeCtr (s : State) (d : Decision) : (s.sequence d).freeCtr = s.freeCtr := by unfold State.sequence; split <;> first | rfl | (split <;> rfl)
@[simp] theorem State.sequence_excTaken (s : State) (d : Decision) : (s.sequence d).excTaken = s.excTaken := by unfold State.sequence; split <;> first | rfl | (split <;> rfl)
@[simp] theorem State.sequence_mduUnread (s : State) (d : Decision) : (s.sequence d).mduUnread = s.mduUnread := by unfold State.sequence; split <;> first | rfl | (split <;> rfl)
@[simp] theorem State.sequence_hazard (s : State) (d : Decision) : (s.sequence d).hazard = s.hazard := by unfold State.sequence; split <;> first | rfl | (split <;> rfl)

/-! ## advance -/

@[simp] theorem State.advance_gpr (s : State) : s.advance.gpr = s.gpr := State.sequence_gpr s .nothing
@[simp] theorem State.advance_hi (s : State) : s.advance.hi = s.hi := State.sequence_hi s .nothing
@[simp] theorem State.advance_lo (s : State) : s.advance.lo = s.lo := State.sequence_lo s .nothing
@[simp] theorem State.advance_waiting (s : State) : s.advance.waiting = s.waiting := State.sequence_waiting s .nothing
@[simp] theorem State.advance_nmiPending (s : State) : s.advance.nmiPending = s.nmiPending := State.sequence_nmiPending s .nothing
@[simp] theorem State.advance_llbit (s : State) : s.advance.llbit = s.llbit := State.sequence_llbit s .nothing
@[simp] theorem State.advance_cp0 (s : State) : s.advance.cp0 = s.cp0 := State.sequence_cp0 s .nothing
@[simp] theorem State.advance_fgr (s : State) : s.advance.fgr = s.fgr := State.sequence_fgr s .nothing
@[simp] theorem State.advance_fcsr (s : State) : s.advance.fcsr = s.fcsr := State.sequence_fcsr s .nothing
@[simp] theorem State.advance_tlb (s : State) : s.advance.tlb = s.tlb := State.sequence_tlb s .nothing
@[simp] theorem State.advance_icache (s : State) : s.advance.icache = s.icache := State.sequence_icache s .nothing
@[simp] theorem State.advance_mem (s : State) : s.advance.mem = s.mem := State.sequence_mem s .nothing
@[simp] theorem State.advance_checkBits (s : State) : s.advance.checkBits = s.checkBits := State.sequence_checkBits s .nothing
@[simp] theorem State.advance_ecc (s : State) : s.advance.ecc = s.ecc := State.sequence_ecc s .nothing
@[simp] theorem State.advance_sys (s : State) : s.advance.sys = s.sys := State.sequence_sys s .nothing
@[simp] theorem State.advance_itimer (s : State) : s.advance.itimer = s.itimer := State.sequence_itimer s .nothing
@[simp] theorem State.advance_rtimer (s : State) : s.advance.rtimer = s.rtimer := State.sequence_rtimer s .nothing
@[simp] theorem State.advance_wdt (s : State) : s.advance.wdt = s.wdt := State.sequence_wdt s .nothing
@[simp] theorem State.advance_clk (s : State) : s.advance.clk = s.clk := State.sequence_clk s .nothing
@[simp] theorem State.advance_rttGap (s : State) : s.advance.rttGap = s.rttGap := State.sequence_rttGap s .nothing
@[simp] theorem State.advance_dma (s : State) : s.advance.dma = s.dma := State.sequence_dma s .nothing
@[simp] theorem State.advance_mport (s : State) : s.advance.mport = s.mport := State.sequence_mport s .nothing
@[simp] theorem State.advance_uart (s : State) : s.advance.uart = s.uart := State.sequence_uart s .nothing
@[simp] theorem State.advance_swic0 (s : State) : s.advance.swic0 = s.swic0 := State.sequence_swic0 s .nothing
@[simp] theorem State.advance_swic1 (s : State) : s.advance.swic1 = s.swic1 := State.sequence_swic1 s .nothing
@[simp] theorem State.advance_mfbsp (s : State) : s.advance.mfbsp = s.mfbsp := State.sequence_mfbsp s .nothing
@[simp] theorem State.advance_dsp (s : State) : s.advance.dsp = s.dsp := State.sequence_dsp s .nothing
@[simp] theorem State.advance_params (s : State) : s.advance.params = s.params := State.sequence_params s .nothing
@[simp] theorem State.advance_moves (s : State) : s.advance.moves = s.moves := State.sequence_moves s .nothing
@[simp] theorem State.advance_between (s : State) : s.advance.between = s.between := State.sequence_between s .nothing
@[simp] theorem State.advance_freeCtr (s : State) : s.advance.freeCtr = s.freeCtr := State.sequence_freeCtr s .nothing
@[simp] theorem State.advance_excTaken (s : State) : s.advance.excTaken = s.excTaken := State.sequence_excTaken s .nothing
@[simp] theorem State.advance_mduUnread (s : State) : s.advance.mduUnread = s.mduUnread := State.sequence_mduUnread s .nothing
@[simp] theorem State.advance_hazard (s : State) : s.advance.hazard = s.hazard := State.sequence_hazard s .nothing

/-! ## writeCp0 -/

@[simp] theorem State.writeCp0_gpr (s : State) (rd : BitVec 5) (sel : BitVec 3) (v : Word) : (s.writeCp0 rd sel v).gpr = s.gpr := rfl
@[simp] theorem State.writeCp0_hi (s : State) (rd : BitVec 5) (sel : BitVec 3) (v : Word) : (s.writeCp0 rd sel v).hi = s.hi := rfl
@[simp] theorem State.writeCp0_lo (s : State) (rd : BitVec 5) (sel : BitVec 3) (v : Word) : (s.writeCp0 rd sel v).lo = s.lo := rfl
@[simp] theorem State.writeCp0_pc (s : State) (rd : BitVec 5) (sel : BitVec 3) (v : Word) : (s.writeCp0 rd sel v).pc = s.pc := rfl
@[simp] theorem State.writeCp0_slot (s : State) (rd : BitVec 5) (sel : BitVec 3) (v : Word) : (s.writeCp0 rd sel v).slot = s.slot := rfl
@[simp] theorem State.writeCp0_waiting (s : State) (rd : BitVec 5) (sel : BitVec 3) (v : Word) : (s.writeCp0 rd sel v).waiting = s.waiting := rfl
@[simp] theorem State.writeCp0_nmiPending (s : State) (rd : BitVec 5) (sel : BitVec 3) (v : Word) : (s.writeCp0 rd sel v).nmiPending = s.nmiPending := rfl
@[simp] theorem State.writeCp0_llbit (s : State) (rd : BitVec 5) (sel : BitVec 3) (v : Word) : (s.writeCp0 rd sel v).llbit = s.llbit := rfl
@[simp] theorem State.writeCp0_fgr (s : State) (rd : BitVec 5) (sel : BitVec 3) (v : Word) : (s.writeCp0 rd sel v).fgr = s.fgr := rfl
@[simp] theorem State.writeCp0_fcsr (s : State) (rd : BitVec 5) (sel : BitVec 3) (v : Word) : (s.writeCp0 rd sel v).fcsr = s.fcsr := rfl
@[simp] theorem State.writeCp0_tlb (s : State) (rd : BitVec 5) (sel : BitVec 3) (v : Word) : (s.writeCp0 rd sel v).tlb = s.tlb := rfl
@[simp] theorem State.writeCp0_icache (s : State) (rd : BitVec 5) (sel : BitVec 3) (v : Word) : (s.writeCp0 rd sel v).icache = s.icache := rfl
@[simp] theorem State.writeCp0_mem (s : State) (rd : BitVec 5) (sel : BitVec 3) (v : Word) : (s.writeCp0 rd sel v).mem = s.mem := rfl
@[simp] theorem State.writeCp0_checkBits (s : State) (rd : BitVec 5) (sel : BitVec 3) (v : Word) : (s.writeCp0 rd sel v).checkBits = s.checkBits := rfl
@[simp] theorem State.writeCp0_ecc (s : State) (rd : BitVec 5) (sel : BitVec 3) (v : Word) : (s.writeCp0 rd sel v).ecc = s.ecc := rfl
@[simp] theorem State.writeCp0_sys (s : State) (rd : BitVec 5) (sel : BitVec 3) (v : Word) : (s.writeCp0 rd sel v).sys = s.sys := rfl
@[simp] theorem State.writeCp0_itimer (s : State) (rd : BitVec 5) (sel : BitVec 3) (v : Word) : (s.writeCp0 rd sel v).itimer = s.itimer := rfl
@[simp] theorem State.writeCp0_rtimer (s : State) (rd : BitVec 5) (sel : BitVec 3) (v : Word) : (s.writeCp0 rd sel v).rtimer = s.rtimer := rfl
@[simp] theorem State.writeCp0_wdt (s : State) (rd : BitVec 5) (sel : BitVec 3) (v : Word) : (s.writeCp0 rd sel v).wdt = s.wdt := rfl
@[simp] theorem State.writeCp0_clk (s : State) (rd : BitVec 5) (sel : BitVec 3) (v : Word) : (s.writeCp0 rd sel v).clk = s.clk := rfl
@[simp] theorem State.writeCp0_rttGap (s : State) (rd : BitVec 5) (sel : BitVec 3) (v : Word) : (s.writeCp0 rd sel v).rttGap = s.rttGap := rfl
@[simp] theorem State.writeCp0_dma (s : State) (rd : BitVec 5) (sel : BitVec 3) (v : Word) : (s.writeCp0 rd sel v).dma = s.dma := rfl
@[simp] theorem State.writeCp0_mport (s : State) (rd : BitVec 5) (sel : BitVec 3) (v : Word) : (s.writeCp0 rd sel v).mport = s.mport := rfl
@[simp] theorem State.writeCp0_uart (s : State) (rd : BitVec 5) (sel : BitVec 3) (v : Word) : (s.writeCp0 rd sel v).uart = s.uart := rfl
@[simp] theorem State.writeCp0_swic0 (s : State) (rd : BitVec 5) (sel : BitVec 3) (v : Word) : (s.writeCp0 rd sel v).swic0 = s.swic0 := rfl
@[simp] theorem State.writeCp0_swic1 (s : State) (rd : BitVec 5) (sel : BitVec 3) (v : Word) : (s.writeCp0 rd sel v).swic1 = s.swic1 := rfl
@[simp] theorem State.writeCp0_mfbsp (s : State) (rd : BitVec 5) (sel : BitVec 3) (v : Word) : (s.writeCp0 rd sel v).mfbsp = s.mfbsp := rfl
@[simp] theorem State.writeCp0_dsp (s : State) (rd : BitVec 5) (sel : BitVec 3) (v : Word) : (s.writeCp0 rd sel v).dsp = s.dsp := rfl
@[simp] theorem State.writeCp0_params (s : State) (rd : BitVec 5) (sel : BitVec 3) (v : Word) : (s.writeCp0 rd sel v).params = s.params := rfl
@[simp] theorem State.writeCp0_moves (s : State) (rd : BitVec 5) (sel : BitVec 3) (v : Word) : (s.writeCp0 rd sel v).moves = s.moves := rfl
@[simp] theorem State.writeCp0_between (s : State) (rd : BitVec 5) (sel : BitVec 3) (v : Word) : (s.writeCp0 rd sel v).between = s.between := rfl
@[simp] theorem State.writeCp0_freeCtr (s : State) (rd : BitVec 5) (sel : BitVec 3) (v : Word) : (s.writeCp0 rd sel v).freeCtr = s.freeCtr := rfl
@[simp] theorem State.writeCp0_excTaken (s : State) (rd : BitVec 5) (sel : BitVec 3) (v : Word) : (s.writeCp0 rd sel v).excTaken = s.excTaken := rfl
@[simp] theorem State.writeCp0_mduUnread (s : State) (rd : BitVec 5) (sel : BitVec 3) (v : Word) : (s.writeCp0 rd sel v).mduUnread = s.mduUnread := rfl
@[simp] theorem State.writeCp0_hazard (s : State) (rd : BitVec 5) (sel : BitVec 3) (v : Word) : (s.writeCp0 rd sel v).hazard = s.hazard := rfl

/-! ## The fields the updates change -/

@[simp] theorem State.drawn_freeCtr (s : State) : s.drawn.freeCtr = s.freeCtr + 1 := rfl
@[simp] theorem State.putFcc_fcsr (s : State) (cc : BitVec 3) (b : Bool) :
    (s.putFcc cc b).fcsr = putBit s.fcsr (fccBit cc) b := rfl
@[simp] theorem State.putStatus_status (s : State) (v : Word) : (s.putStatus v).cp0.status = v := rfl
@[simp] theorem State.putHiLo_hi (s : State) (v : Dword) (b : Bool) : (s.putHiLo v b).hi = fieldOf v 32 32 := rfl
@[simp] theorem State.putHiLo_lo (s : State) (v : Dword) (b : Bool) : (s.putHiLo v b).lo = fieldOf v 0 32 := rfl
@[simp] theorem State.putHiLo_mduUnread (s : State) (v : Dword) (b : Bool) : (s.putHiLo v b).mduUnread = b := rfl
@[simp] theorem State.writeCp0_cp0 (s : State) (rd : BitVec 5) (sel : BitVec 3) (v : Word) :
    (s.writeCp0 rd sel v).cp0 = s.cp0.write s.fixedMapping rd sel v := rfl

/-! ## General registers (R20, R21) -/

@[simp] theorem State.readGpr_zero (s : State) : s.readGpr 0 = 0 := rfl

/-- A register reads what was last written to it; GPR[0] reads as zero. -/
theorem State.readGpr_putGpr (s : State) (d n : BitVec 5) (v : Word) :
    (s.putGpr d v).readGpr n = if n = 0 then 0 else if n = d then v else s.readGpr n := by
  unfold State.readGpr
  by_cases hn : n = 0
  · rw [if_pos hn, if_pos hn]
  · rw [if_neg hn, if_neg hn, if_neg hn]
    unfold State.putGpr
    by_cases hd : d = 0
    · have h : ¬ n = d := fun e => hn (e.trans hd)
      rw [if_neg h, if_pos hd]
    · rw [if_neg hd]
      by_cases h : n = d
      · subst h; simp only [if_true, Vector.getElem_set_self]
      · rw [if_neg h]
        exact Vector.getElem_set_ne d.isLt n.isLt fun e => h (BitVec.eq_of_toNat_eq e.symm)

@[simp] theorem State.readGpr_sequence (s : State) (d : Decision) (n : BitVec 5) :
    (s.sequence d).readGpr n = s.readGpr n := by simp [State.readGpr]
@[simp] theorem State.readGpr_advance (s : State) (n : BitVec 5) : s.advance.readGpr n = s.readGpr n :=
  State.readGpr_sequence s .nothing n

/-- Writing a register makes it hold the value. -/
theorem gprHolds_putGpr (s : State) (d : BitVec 5) (v : Word) : GprHolds d v s (s.putGpr d v) := by
  refine ⟨fun h => ?_, rfl, fun n hn => ?_⟩
  · rw [State.readGpr_putGpr, if_neg h, if_pos rfl]
  · rw [State.readGpr_putGpr, if_neg hn]
    split
    · next h => rw [h]; rfl
    · rfl

/-! ## FPU registers (R50, R51) -/

/-- An FPU register reads what was last written to it. -/
theorem State.readFgr_putFgr (s : State) (d n : BitVec 5) (v : Word) :
    (s.putFgr d v).readFgr n = if n = d then v else s.readFgr n := by
  unfold State.readFgr State.putFgr
  by_cases h : n = d
  · subst h; simp only [if_true, Vector.getElem_set_self]
  · rw [if_neg h]
    exact Vector.getElem_set_ne d.isLt n.isLt fun e => h (BitVec.eq_of_toNat_eq e.symm)

@[simp] theorem State.readFgr_sequence (s : State) (d : Decision) (n : BitVec 5) :
    (s.sequence d).readFgr n = s.readFgr n := by simp [State.readFgr]

/-! ## Sequencing (R600) -/

/-- What PC and slot become after an instruction without a control decision. -/
theorem State.advance_movesOn (s : State) : MovesOn s s.advance := by
  unfold MovesOn State.advance State.sequence
  cases s.slot <;> simp

/-- advance looks at nothing but PC and slot. -/
theorem MovesOn.of_same {s s' : State} (hp : s'.pc = s.pc) (hs : s'.slot = s.slot) : MovesOn s s'.advance := by
  have h := State.advance_movesOn s'
  unfold MovesOn at *
  rw [hp, hs] at h
  exact h

/-- advance changes PC and slot only. -/
theorem State.advance_eq (s : State) : s.advance = { s with pc := s.advance.pc, slot := s.advance.slot } := by
  unfold State.advance State.sequence
  cases s.slot <;> rfl

end Sys2Proof.Machine
end

