-- ==== Sys2Proof/Laws/Ops.lean ====
section
/-! SUPPORT. Ops: what the shared operations of the instructions can do, said once: register results, sequencing, traps,
exceptions, translation and accesses to plain memory. -/

namespace Sys2Proof.Machine

open Sys2Proof

/-! ## Outcomes -/

@[simp] theorem finish_ok (a : Unit) (s : State) : finish (.ok a s) = .next s.advance := rfl
@[simp] theorem finish_exc (e : Exc) (s : State) : finish (.exc e s : Res Unit) = .next (takeException e s) := rfl
@[simp] theorem finish_fault (f : Fault) : finish (.fault f : Res Unit) = .fault f := rfl
@[simp] theorem finish_refuse (r : Refusal) : finish (.refuse r : Res Unit) = .refused r := rfl
@[simp] theorem andThen_ok {α β : Type} (a : α) (s : State) (k : α → State → Res β) : (Res.ok a s).andThen k = k a s := rfl
@[simp] theorem andThen_exc {α β : Type} (e : Exc) (s : State) (k : α → State → Res β) :
    (Res.exc e s : Res α).andThen k = .exc e s := rfl
@[simp] theorem andThen_fault {α β : Type} (f : Fault) (k : α → State → Res β) :
    (Res.fault f : Res α).andThen k = .fault f := rfl
@[simp] theorem andThen_refuse {α β : Type} (r : Refusal) (k : α → State → Res β) :
    (Res.refuse r : Res α).andThen k = .refuse r := rfl

/-- What an instruction that finishes normally came from. -/
theorem finish_next {r : Res Unit} {t : State} (h : finish r = .next t) :
    (∃ s, r = .ok () s ∧ t = s.advance) ∨ ∃ e s, r = .exc e s ∧ t = takeException e s := by
  cases r with
  | ok a s => exact .inl ⟨s, rfl, by simpa using h.symm⟩
  | exc e s => exact .inr ⟨e, s, rfl, by simpa using h.symm⟩
  | fault f => simp at h
  | refuse x => simp at h

/-- What a sequence of two operations that succeeds came from. -/
theorem andThen_eq_ok {α β : Type} {r : Res α} {k : α → State → Res β} {b : β} {t : State}
    (h : r.andThen k = .ok b t) : ∃ a s, r = .ok a s ∧ k a s = .ok b t := by
  cases r with
  | ok a s => exact ⟨a, s, rfl, h⟩
  | exc e s => simp at h
  | fault f => simp at h
  | refuse x => simp at h

/-- What a sequence of two operations that raises an exception came from. -/
theorem andThen_eq_exc {α β : Type} {r : Res α} {k : α → State → Res β} {e : Exc} {t : State}
    (h : r.andThen k = .exc e t) : r = .exc e t ∨ ∃ a s, r = .ok a s ∧ k a s = .exc e t := by
  cases r with
  | ok a s => exact .inr ⟨a, s, rfl, h⟩
  | exc e' s => exact .inl (by simpa using h)
  | fault f => simp at h
  | refuse x => simp at h

/-! ## Frames -/

@[simp] theorem SameMemory.rfl' (s : State) : SameMemory s s := ⟨fun _ => rfl, rfl⟩
theorem SameMemory.of_eq {s t : State} (h : t.mem = s.mem) (h' : t.checkBits = s.checkBits) : SameMemory s t :=
  ⟨fun _ => by rw [h], h'⟩
theorem SameGprs.of_eq {s t : State} (h : t.gpr = s.gpr) : SameGprs s t := fun n => by simp [State.readGpr, h]

/-- putGpr changes the general registers only. -/
theorem State.putGpr_eq (s : State) (d : BitVec 5) (v : Word) : s.putGpr d v = { s with gpr := (s.putGpr d v).gpr } := by
  unfold State.putGpr; split <;> rfl

/-- A state that differs in the general registers, advanced. -/
theorem onlyGpr_advance {s s' : State} (h : s' = { s with gpr := s'.gpr }) : OnlyGpr s s'.advance :=
  (State.advance_eq s').trans
    ((congrArg (fun u : State => { u with pc := s'.advance.pc, slot := s'.advance.slot }) h).trans
      (by rw [State.advance_gpr]))

/-- An instruction that writes a register and advances. -/
theorem gpr_advance (s : State) (d : BitVec 5) (v : Word) :
    GprHolds d v s (s.putGpr d v).advance ∧ MovesOn s (s.putGpr d v).advance ∧ SameMemory s (s.putGpr d v).advance ∧
      OnlyGpr s (s.putGpr d v).advance := by
  have h := gprHolds_putGpr s d v
  refine ⟨⟨fun hd => ?_, ?_, fun n hn => ?_⟩, MovesOn.of_same (by simp) (by simp), .of_eq (by simp) (by simp), ?_⟩
  · rw [State.readGpr_advance]; exact h.1 hd
  · rw [State.readGpr_advance]; exact h.2.1
  · rw [State.readGpr_advance]; exact h.2.2 n hn
  · exact onlyGpr_advance (State.putGpr_eq s d v)

/-- An instruction that writes one register computes its value. -/
theorem computes_setReg {i : Instr} {s : State} {d : BitVec 5} {v : Word} (h : exec i s = setReg d v s) :
    Computes i s d v := ⟨_, h.trans (finish_ok ..), gpr_advance s d v⟩

/-- An instruction that writes one register computes its value. -/
theorem computes_of_ok {i : Instr} {s : State} {d : BitVec 5} {v : Word} (h : exec i s = .next (s.putGpr d v).advance) :
    Computes i s d v := ⟨_, h, gpr_advance s d v⟩

/-- Writing the value a register holds changes nothing. -/
theorem State.putGpr_self (s : State) (d : BitVec 5) : s.putGpr d (s.readGpr d) = s := by
  unfold State.putGpr State.readGpr
  split
  · rfl
  · simp

/-- Only PC moved. -/
theorem doesNothing_of_advance {i : Instr} {s : State} (h : exec i s = .next s.advance) : DoesNothing i s :=
  ⟨_, h, .of_eq (by simp), State.advance_movesOn s, .of_eq (by simp) (by simp), State.advance_eq s⟩

/-! ## Integer overflow -/

/-- checkedAdd gives the exact sum when 32 signed bits hold it, else nothing (R521). -/
theorem checkedAdd_spec (x y : Word) :
    (∃ v : Word, checkedAdd x y = some v ∧ v.toInt = x.toInt + y.toInt ∧ -(2 ^ 31) ≤ x.toInt + y.toInt ∧
      x.toInt + y.toInt < 2 ^ 31) ∨
    (checkedAdd x y = none ∧ ¬(-(2 ^ 31) ≤ x.toInt + y.toInt ∧ x.toInt + y.toInt < 2 ^ 31)) := by
  unfold checkedAdd overflows
  by_cases h : -(2 ^ 31) ≤ x.toInt + y.toInt ∧ x.toInt + y.toInt < 2 ^ 31
  · refine .inl ⟨BitVec.ofInt 32 (x.toInt + y.toInt), ?_, ?_, h⟩
    · rw [if_neg]
      simp only [Bool.or_eq_true, decide_eq_true_eq]
      omega
    · rw [BitVec.toInt_ofInt, Int.bmod_eq_of_le (by omega) (by omega)]
  · refine .inr ⟨?_, h⟩
    rw [if_pos]
    simp only [Bool.or_eq_true, decide_eq_true_eq]
    omega

/-- checkedSub gives the exact difference when 32 signed bits hold it, else nothing (R521). -/
theorem checkedSub_spec (x y : Word) :
    (∃ v : Word, checkedSub x y = some v ∧ v.toInt = x.toInt - y.toInt ∧ -(2 ^ 31) ≤ x.toInt - y.toInt ∧
      x.toInt - y.toInt < 2 ^ 31) ∨
    (checkedSub x y = none ∧ ¬(-(2 ^ 31) ≤ x.toInt - y.toInt ∧ x.toInt - y.toInt < 2 ^ 31)) := by
  unfold checkedSub overflows
  by_cases h : -(2 ^ 31) ≤ x.toInt - y.toInt ∧ x.toInt - y.toInt < 2 ^ 31
  · refine .inl ⟨BitVec.ofInt 32 (x.toInt - y.toInt), ?_, ?_, h⟩
    · rw [if_neg]
      simp only [Bool.or_eq_true, decide_eq_true_eq]
      omega
    · rw [BitVec.toInt_ofInt, Int.bmod_eq_of_le (by omega) (by omega)]
  · refine .inr ⟨?_, h⟩
    rw [if_pos]
    simp only [Bool.or_eq_true, decide_eq_true_eq]
    omega

/-! ## Sequencing of jumps and branches -/

/-- A jump or branch outside a delay slot. -/
theorem finishControl_none {d : Decision} {s : State} (h : s.slot = .none) :
    finishControl (.ok d s) = .next (s.sequence d) := by simp [finishControl, h]

/-- A jump or branch in a delay slot is refused. -/
theorem finishControl_slot {d : Decision} {s : State} (h : s.slot ≠ .none) :
    finishControl (.ok d s) = .refused .controlInDelaySlot := by simp [finishControl, h]

theorem State.sequence_taken {s : State} (h : s.slot = .none) (a : Word) :
    s.sequence (.taken a) = { s with pc := s.pc + 4, slot := .taken a } := by simp [State.sequence, h]
theorem State.sequence_notTaken {s : State} (h : s.slot = .none) :
    s.sequence .notTaken = { s with pc := s.pc + 4, slot := .fall } := by simp [State.sequence, h]
theorem State.sequence_nullify {s : State} (h : s.slot = .none) :
    s.sequence .nullify = { s with pc := s.pc + 8, slot := .none } := by simp [State.sequence, h]
theorem State.sequence_nothing {s : State} (h : s.slot = .none) :
    s.sequence .nothing = { s with pc := s.pc + 4, slot := .none } := by simp [State.sequence, h]

/-! ## Privilege -/

/-- The model's test of CP0's usability is R700's. -/
theorem cp0Usable_iff (s : State) : s.cp0Usable = true ↔ Privileged s := by
  unfold State.cp0Usable State.userMode State.exl State.erl Privileged
  cases isSet s.cp0.status 4 <;> cases isSet s.cp0.status 1 <;> cases isSet s.cp0.status 2 <;>
    cases isSet s.cp0.status 28 <;> simp

/-- The model's test of the FPU's usability is R750's. -/
theorem fpuUsable_iff (s : State) : s.fpuUsable = true ↔ FpuOn s := Iff.rfl

end Sys2Proof.Machine
end

