-- ==== Sys2Proof/Laws/Access.lean ====
section
/-! SUPPORT. Access: translation and accesses to plain memory: they leave the state alone or change exactly the stored lanes. -/

namespace Sys2Proof.Machine

open Sys2Proof

/-! ## Translation -/

/-- What a search of the TLB can answer: an address or an exception, in the same state, or a fault. -/
theorem tlbLookup_cases (va : Word) (k : Access) (s : State) :
    (∃ i : Fin 16, tlbLookup va k s = .ok (s.tlb[i].translate va, cacheable (s.tlb[i].page va).c) s) ∨
      (∃ e, tlbLookup va k s = .exc e s) ∨ ∃ f, tlbLookup va k s = .fault f := by
  by_cases h : s.tlbMasksLegal = true
  · cases hf : s.tlbFind (vpn2Of va) with
    | none => exact .inr (.inl ⟨.tlbRefill va (k == .store), by unfold tlbLookup; rw [h, hf]; rfl⟩)
    | some i =>
      have e : tlbLookup va k s =
          if !(s.tlb[i].page va).v then .exc (.tlbInvalid va (k == .store)) s
          else if k == .store && !(s.tlb[i].page va).d then .exc (.mod va) s
          else .ok (s.tlb[i].translate va, cacheable (s.tlb[i].page va).c) s := by unfold tlbLookup; rw [h, hf]; rfl
      cases hv : (s.tlb[i].page va).v with
      | false => exact .inr (.inl ⟨.tlbInvalid va (k == .store), by rw [e, hv]; rfl⟩)
      | true =>
        cases hd : (k == .store && !(s.tlb[i].page va).d) with
        | false => exact .inl ⟨i, by rw [e, hv, hd]; rfl⟩
        | true => exact .inr (.inl ⟨.mod va, by rw [e, hv, hd]; rfl⟩)
  · exact .inr (.inr ⟨.illegalPageMask, by unfold tlbLookup; rw [Bool.not_eq_true] at h; rw [h]; rfl⟩)

/-- What translation can answer. -/
theorem translate_cases (va : Word) (k : Access) (s : State) :
    (∃ pa c, translate va k s = .ok (pa, c) s ∧
      (pa = va - 0x80000000 ∨ pa = va - 0xA0000000 ∨ pa = va ∨ pa = va + 0x40000000 ∨
        ∃ i : Fin 16, pa = s.tlb[i].translate va)) ∨
      (∃ e, translate va k s = .exc e s) ∨ ∃ f, translate va k s = .fault f := by
  unfold translate
  split
  · exact .inr (.inl ⟨_, rfl⟩)
  split
  · exact .inl ⟨_, _, rfl, .inl rfl⟩
  split
  · exact .inl ⟨_, _, rfl, .inr (.inl rfl)⟩
  split
  · exact .inl ⟨_, _, rfl, .inr (.inr (.inl rfl))⟩
  split
  · unfold fixedMap
    split
    · exact .inl ⟨_, _, rfl, .inr (.inr (.inl rfl))⟩
    · exact .inl ⟨_, _, rfl, .inr (.inr (.inr (.inl rfl)))⟩
  · rcases tlbLookup_cases va k s with ⟨i, h⟩ | h | h
    · exact .inl ⟨_, _, h, .inr (.inr (.inr (.inr ⟨i, rfl⟩)))⟩
    · exact .inr (.inl h)
    · exact .inr (.inr h)

/-- Translation changes no state. -/
theorem translate_ok_state {va : Word} {k : Access} {s t : State} {x : Word × Bool} (h : translate va k s = .ok x t) :
    t = s := by
  rcases translate_cases va k s with ⟨pa, c, h', _⟩ | ⟨e, h'⟩ | ⟨f, h'⟩ <;> rw [h'] at h <;> simp at h
  exact h.2.symm

/-- An exception of a translation is taken in the state it started from. -/
theorem translate_exc_state {va : Word} {k : Access} {s t : State} {e : Exc} (h : translate va k s = .exc e t) :
    t = s := by
  rcases translate_cases va k s with ⟨pa, c, h', _⟩ | ⟨e, h'⟩ | ⟨f, h'⟩ <;> rw [h'] at h <;> simp at h
  exact h.2.symm

/-- Translation of an entry keeps the twelve low bits. -/
theorem TlbEntry.translate_low (e : TlbEntry) (va : Word) (i : Nat) (hi : i < 12) :
    (e.translate va).getLsbD i = va.getLsbD i := by
  unfold TlbEntry.translate mergeBits TlbEntry.offsetMask
  simp only [BitVec.getLsbD_or, BitVec.getLsbD_and, BitVec.getLsbD_not, BitVec.getLsbD_append, BitVec.getLsbD_shiftLeft]
  have h32 : i < 32 := by omega
  have hm : (0xFFF : Word).getLsbD i = true := by
    have : ∀ j, j < 12 → (0xFFF : Word).getLsbD j = true := by decide
    exact this i hi
  simp only [hm, h32, hi, decide_true, Bool.or_true, Bool.and_true, Bool.not_true, Bool.and_false, Bool.or_false]

/-- Two words that agree on their twelve low bits agree modulo 4096. -/
theorem mod_of_low {x y : Word} (h : ∀ i, i < 12 → x.getLsbD i = y.getLsbD i) : x.toNat % 4096 = y.toNat % 4096 := by
  have e : (x.setWidth 12) = y.setWidth 12 := by
    apply BitVec.eq_of_getLsbD_eq
    intro i hi
    simp only [BitVec.getLsbD_setWidth, hi, decide_true, Bool.true_and]
    exact h i hi
  have := congrArg BitVec.toNat e
  simpa using this

/-- Translation keeps the twelve low bits of an address. -/
theorem translate_low {va pa : Word} {k : Access} {s t : State} {c : Bool} (h : translate va k s = .ok (pa, c) t) :
    pa.toNat % 4096 = va.toNat % 4096 := by
  rcases translate_cases va k s with ⟨p, d, h', hp⟩ | ⟨e, h'⟩ | ⟨f, h'⟩ <;> rw [h'] at h <;> simp at h
  obtain ⟨⟨rfl, _⟩, _⟩ := h
  rcases hp with rfl | rfl | rfl | rfl | ⟨i, rfl⟩
  · bv_omega
  · bv_omega
  · rfl
  · bv_omega
  · exact mod_of_low fun j hj => TlbEntry.translate_low _ _ j hj

/-! ## Plain memory -/

/-- Outside the internal area no internal unit answers. -/
theorem not_internal {a : Nat} (h : inInternal a = false) :
    inCram a = false ∧ inRegisters a = false ∧ inDspArea a = false ∧ inDspData a = false ∧ inDspPram a = false ∧
      inDspRegs a = false ∧ inCacheData a = false ∧ inCacheTags a = false := by
  simp only [inInternal, inCram, inRegisters, inDspArea, inDspData, inDspPram, inDspRegs, inCacheData, inCacheTags,
    Bool.and_eq_false_iff, decide_eq_false_iff_not] at *
  omega

/-- A word without injected error reads as memory holds it. -/
theorem rawWord_plain {s : State} {a : Nat} (h : s.ecc.faultAt a = none) : s.rawWord a = Memory.readWord s.mem a := by
  simp [State.rawWord, h]

/-- Without an injected error at a, no injected error changes. -/
theorem clearFault_plain {e : Ecc} {a : Nat} (h : e.faultAt a = none) (l : BitVec 4) :
    e.clearFault a l = e := by
  unfold Ecc.faultAt at h
  rw [List.find?_eq_none] at h
  have keep : ∀ (g : EccFault → Option EccFault) (l : List EccFault), (∀ f ∈ l, g f = some f) → l.filterMap g = l := by
    intro g l
    induction l with
    | nil => intro _; rfl
    | cons x xs ih =>
      intro hg
      rw [List.filterMap_cons, hg x (List.mem_cons_self ..)]
      simp only [List.cons.injEq, true_and]
      exact ih fun f hf => hg f (List.mem_cons_of_mem _ hf)
  unfold Ecc.clearFault
  rw [keep]
  intro f hf
  have := h f hf
  simp_all

/-- A store of lanes where no injected error stands changes them and nothing else. -/
theorem storeRaw_plain {s : State} {a : Nat} (h : s.ecc.faultAt a = none) (lanes : BitVec 4) (v : Word) :
    s.storeRaw a lanes v = { s with mem := Memory.writeLanes s.mem a lanes v } := by
  unfold State.storeRaw State.putLanes
  rw [clearFault_plain h]

/-- In mode 00 a controller delivers a word without injected error as memory holds it. -/
theorem protRead_plain {s : State} {u : EccUnit} {a : Nat} (hm : (s.ecc.ctl u).mode = 0) (h : s.ecc.faultAt a = none) :
    protRead u a s = .ok (Memory.readWord s.mem a) s := by
  unfold protRead
  rw [hm, rawWord_plain h]
  rfl

/-- In mode 00 a store through a controller to RAM without injected error changes its lanes and nothing else. -/
theorem protStore_plain {s : State} {u : EccUnit} {a : Nat} (hm : (s.ecc.ctl u).mode = 0) (h : s.ecc.faultAt a = none)
    (lanes : BitVec 4) (v : Word) :
    protStore u a lanes 0xF v s = .done { s with mem := Memory.writeLanes s.mem a lanes v } := by
  have all : ∀ l : BitVec 4, l &&& 0xF = l := by decide
  unfold protStore
  rw [hm, all, storeRaw_plain h]
  rfl

/-- A word whose four bytes are RAM changes and answers in all its lanes (R416). -/
theorem ramLanes_plain {s : State} {a : Nat} (h : ∀ k, k < 4 → extKindOf s.params (a + k) = .ram) :
    s.ramLanes a = 0xF ∧ s.presentLanes a = 0xF := by
  unfold State.ramLanes State.presentLanes State.extLanes
  simp only [h 0 (by omega), h 1 (by omega), h 2 (by omega), h 3 (by omega)]
  decide

/-- A load from plain memory delivers the word and changes nothing. -/
theorem busRead_plain {s : State} {pa : Word} (h : PlainRam s (wordAddr pa)) :
    busRead pa s = .ok (Memory.readWord s.mem (wordAddr pa)) s := by
  obtain ⟨hf, ⟨hc, hm, hd⟩ | ⟨hi, hk, hm, cs, he, hh, hb⟩⟩ := h
  · unfold busRead
    simp only [hc, hd, if_true, protRead_plain hm hf]
    simp
  · obtain ⟨h1, h2, h3, h4, h5, h6, h7, h8⟩ := not_internal hi
    have hl : s.mport.heldLanes cs (wordAddr pa) = 0xF := by simpa [Mport.holds] using hh
    unfold busRead extRead
    simp only [h1, h2, h4, h5, h6, h7, h8, hi, he, hl]
    simp only [hm, protRead_plain (u := .ext) hm hf, (ramLanes_plain hk).2]
    simp [Res.andThen, partialWord, rawWord_plain hf]

/-- In mode 00 a word that an external block holds is still held after a store, and nothing else changes. -/
theorem holdStored_plain {s : State} {cs : Fin 5} {a : Nat} (hm : s.ecc.ext.mode = 0) (hh : s.mport.holds cs a = true)
    (lanes : BitVec 4) (check : Bool) : s.holdStored cs a lanes check = s := by
  unfold State.holdStored
  rw [hm]
  simp [State.holdSdram, Mport.hold, Mport.markLanes, hh]

/-- A store to plain memory changes the enabled lanes and nothing else. -/
theorem busWrite_plain {s : State} {pa : Word} (h : PlainRam s (wordAddr pa)) (q : StoreReq) :
    busWrite pa q s = .done { s with mem := Memory.writeLanes s.mem (wordAddr pa) q.lanes q.data } := by
  obtain ⟨hf, ⟨hc, hm, hd⟩ | ⟨hi, hk, hm, cs, he, hh, hb⟩⟩ := h
  · unfold busWrite
    simp only [hc, if_true, protWrite, protStore_plain hm hf]
  · obtain ⟨h1, h2, h3, h4, h5, h6, h7, h8⟩ := not_internal hi
    unfold busWrite extWrite
    have hb' : ¬(cs = 3 ∧ s.params.bytePin = true) := fun h => by simp [hb h.1] at h
    simp only [h1, h2, h3, h4, h5, h6, h7, h8, hi, he, (ramLanes_plain hk).1]
    simp only [hm, protStore_plain (u := .ext) hm hf, hb']
    exact congrArg Res.done
      (holdStored_plain (s := { s with mem := Memory.writeLanes s.mem (wordAddr pa) q.lanes q.data }) hm hh _ _)

/-- A load of a size from an address that reaches plain memory. -/
theorem memRead_plain {s : State} {va pa : Word} {size : Nat} (h : Reaches s va .load size pa) :
    memRead va size s = .ok (Memory.readWord s.mem (wordAddr pa)) s := by
  obtain ⟨ha, ⟨c, ht⟩, hp⟩ := h
  unfold memRead
  rw [if_neg (by simpa using ha), ht]
  exact busRead_plain hp

/-- A store of a size to an address that reaches plain memory. -/
theorem memWrite_plain {s : State} {va pa : Word} {size : Nat} (h : Reaches s va .store size pa) (q : StoreReq) :
    memWrite va size q s = .done { s with mem := Memory.writeLanes s.mem (wordAddr pa) q.lanes q.data } := by
  obtain ⟨ha, ⟨c, ht⟩, hp⟩ := h
  unfold memWrite
  rw [if_neg (by simpa using ha), ht]
  exact busWrite_plain hp q

/-- The address an access reaches has the low bits of the virtual one. -/
theorem Reaches.low {s : State} {va pa : Word} {k : Access} {size : Nat} (h : Reaches s va k size pa) :
    pa.toNat % 4096 = va.toNat % 4096 := translate_low h.2.1.choose_spec

/-! ## Parts of a word of memory -/

/-- Byte k of a word of memory is the byte at its address plus k (R400). -/
theorem byteOf_readWord (m : List Cell) (a k : Nat) (hk : k < 4) :
    byteOf (Memory.readWord m a) k = Memory.read m (a + k) := by
  unfold byteOf Memory.readWord
  have : k = 0 ∨ k = 1 ∨ k = 2 ∨ k = 3 := by omega
  rcases this with rfl | rfl | rfl | rfl <;>
  · apply BitVec.eq_of_getElem_eq
    intro i hi
    simp only [BitVec.getElem_extractLsb', BitVec.getLsbD_append]
    grind

/-- The aligned halfword of a word of memory that an address selects (R400). -/
theorem halfAt_readWord (m : List Cell) (a : Nat) (va : Word) (h : va.toNat % 2 = 0) :
    halfAt (Memory.readWord m a) va = Memory.read m (a + va.toNat % 4 + 1) ++ Memory.read m (a + va.toNat % 4) := by
  unfold halfAt Memory.readWord fieldOf
  have : va.toNat % 4 = 0 ∨ va.toNat % 4 = 2 := by omega
  rcases this with h | h <;> rw [h] <;>
  · apply BitVec.eq_of_getElem_eq
    intro i hi
    simp only [BitVec.getElem_extractLsb', BitVec.getLsbD_append]
    grind

/-- A load from plain memory into a general register. -/
theorem loadTo_plain {s : State} {rt : GprNum} {va pa : Word} {size : Nat} (f : Word → Word → Word)
    (h : Reaches s va .load size pa) :
    loadTo rt va size f s =
      .next (s.putGpr rt (f (Memory.readWord s.mem (wordAddr pa)) (s.readGpr rt))).advance := by
  unfold loadTo; rw [memRead_plain h]; rfl

/-- The byte a load selects, at the address it reaches. -/
theorem byteAt_plain {s : State} {va pa : Word} {size : Nat} (h : Reaches s va .load size pa) :
    byteAt (Memory.readWord s.mem (wordAddr pa)) va = Memory.read s.mem pa.toNat := by
  have := h.low
  unfold byteAt
  rw [byteOf_readWord _ _ _ (by omega), wordAddr_eq]
  congr 1
  omega

/-- The halfword a load selects, at the address it reaches. -/
theorem halfAt_plain {s : State} {va pa : Word} (h : Reaches s va .load 2 pa) :
    halfAt (Memory.readWord s.mem (wordAddr pa)) va = Memory.read s.mem (pa.toNat + 1) ++ Memory.read s.mem pa.toNat := by
  have h1 := h.low
  have h2 := h.1
  rw [halfAt_readWord _ _ _ h2, wordAddr_eq]
  congr 2 <;> omega

/-- An aligned word address is its own word address. -/
theorem Reaches.wordAddr {s : State} {va pa : Word} {k : Access} (h : Reaches s va k 4 pa) :
    Sys2Proof.Machine.wordAddr pa = pa.toNat := by
  have h1 := h.low
  have h2 := h.1
  rw [wordAddr_eq]
  omega

end Sys2Proof.Machine
end

