-- ==== Sys2Proof/Laws/Decode.lean ====
section
/-! SUPPORT. Decode: the fields of an encoded word. -/

namespace Sys2Proof

/-- The op field of an R-format word. -/
@[simp] theorem opOf_packR (op : BitVec 6) (rs rt rd sa : BitVec 5) (fn : BitVec 6) :
    opOf (packR op rs rt rd sa fn) = op := by
  ext i hi
  simp only [opOf, packR, BitVec.getElem_extractLsb', BitVec.getLsbD_append]
  grind
/-- The rs field of an R-format word. -/
@[simp] theorem rsOf_packR (op : BitVec 6) (rs rt rd sa : BitVec 5) (fn : BitVec 6) :
    rsOf (packR op rs rt rd sa fn) = rs := by
  ext i hi
  simp only [rsOf, packR, BitVec.getElem_extractLsb', BitVec.getLsbD_append]
  grind
/-- The rt field of an R-format word. -/
@[simp] theorem rtOf_packR (op : BitVec 6) (rs rt rd sa : BitVec 5) (fn : BitVec 6) :
    rtOf (packR op rs rt rd sa fn) = rt := by
  ext i hi
  simp only [rtOf, packR, BitVec.getElem_extractLsb', BitVec.getLsbD_append]
  grind
/-- The rd field of an R-format word. -/
@[simp] theorem rdOf_packR (op : BitVec 6) (rs rt rd sa : BitVec 5) (fn : BitVec 6) :
    rdOf (packR op rs rt rd sa fn) = rd := by
  ext i hi
  simp only [rdOf, packR, BitVec.getElem_extractLsb', BitVec.getLsbD_append]
  grind
/-- The sa field of an R-format word. -/
@[simp] theorem saOf_packR (op : BitVec 6) (rs rt rd sa : BitVec 5) (fn : BitVec 6) :
    saOf (packR op rs rt rd sa fn) = sa := by
  ext i hi
  simp only [saOf, packR, BitVec.getElem_extractLsb', BitVec.getLsbD_append]
  grind
/-- The fn field of an R-format word. -/
@[simp] theorem fnOf_packR (op : BitVec 6) (rs rt rd sa : BitVec 5) (fn : BitVec 6) :
    fnOf (packR op rs rt rd sa fn) = fn := by
  ext i hi
  simp only [fnOf, packR, BitVec.getElem_extractLsb', BitVec.getLsbD_append]
  grind
/-- The op field of an I-format word. -/
@[simp] theorem opOf_packI (op : BitVec 6) (rs rt : BitVec 5) (imm : BitVec 16) :
    opOf (packI op rs rt imm) = op := by
  ext i hi
  simp only [opOf, packI, BitVec.getElem_extractLsb', BitVec.getLsbD_append]
  grind
/-- The rs field of an I-format word. -/
@[simp] theorem rsOf_packI (op : BitVec 6) (rs rt : BitVec 5) (imm : BitVec 16) :
    rsOf (packI op rs rt imm) = rs := by
  ext i hi
  simp only [rsOf, packI, BitVec.getElem_extractLsb', BitVec.getLsbD_append]
  grind
/-- The rt field of an I-format word. -/
@[simp] theorem rtOf_packI (op : BitVec 6) (rs rt : BitVec 5) (imm : BitVec 16) :
    rtOf (packI op rs rt imm) = rt := by
  ext i hi
  simp only [rtOf, packI, BitVec.getElem_extractLsb', BitVec.getLsbD_append]
  grind
/-- The imm field of an I-format word. -/
@[simp] theorem immOf_packI (op : BitVec 6) (rs rt : BitVec 5) (imm : BitVec 16) :
    immOf (packI op rs rt imm) = imm := by
  ext i hi
  simp only [immOf, packI, BitVec.getElem_extractLsb', BitVec.getLsbD_append]
  grind
/-- The op field of a J-format word. -/
@[simp] theorem opOf_packJ (op : BitVec 6) (idx : BitVec 26) : opOf (packJ op idx) = op := by
  ext i hi
  simp only [opOf, packJ, BitVec.getElem_extractLsb', BitVec.getLsbD_append]
  grind
/-- The idx field of a J-format word. -/
@[simp] theorem idxOf_packJ (op : BitVec 6) (idx : BitVec 26) : idxOf (packJ op idx) = idx := by
  ext i hi
  simp only [idxOf, packJ, BitVec.getElem_extractLsb', BitVec.getLsbD_append]
  grind

/-! ## Parts of fields -/

/-- The condition code above two bits. -/
@[simp] theorem fcc_of_append (cc : BitVec 3) (x : BitVec 2) : (cc ++ x).extractLsb' 2 3 = cc := by
  ext i hi
  simp only [BitVec.getElem_extractLsb', BitVec.getLsbD_append]
  grind
/-- The two bits below a condition code. -/
@[simp] theorem low_of_fcc (cc : BitVec 3) (x : BitVec 2) : (cc ++ x).extractLsb' 0 2 = x := by
  ext i hi
  simp only [BitVec.getElem_extractLsb', BitVec.getLsbD_append]
  grind
/-- Bit 1 below a condition code, for the words where it is 0. -/
@[simp] theorem fcc_bit1 (cc : BitVec 3) : (cc ++ 0#2) &&& 2#5 = 0#5 ∧ (cc ++ 1#2) &&& 2#5 = 0#5 := by
  revert cc; decide
@[simp] theorem fcc_and2_f (cc : BitVec 3) : (cc ++ 0#2) &&& 2#5 = 0#5 := (fcc_bit1 cc).1
@[simp] theorem fcc_and2_t (cc : BitVec 3) : (cc ++ 1#2) &&& 2#5 = 0#5 := (fcc_bit1 cc).2
@[simp] theorem fcc_and1_f (cc : BitVec 3) : (cc ++ 0#2) &&& 1#5 = 0#5 := by revert cc; decide
@[simp] theorem fcc_and1_t (cc : BitVec 3) : ¬ (cc ++ 1#2) &&& 1#5 = 0#5 := by revert cc; decide
@[simp] theorem fcc_and3 (cc : BitVec 3) : (cc ++ 0#2) &&& 3#5 = 0#5 := by revert cc; decide
/-- The select field. -/
@[simp] theorem sel_of_append (sel : BitVec 3) : (0#3 ++ sel).extractLsb' 0 3 = sel := by revert sel; decide
@[simp] theorem sel_and (sel : BitVec 3) : (0#3 ++ sel) &&& 56#6 = 0#6 := by revert sel; decide
/-- The 10-bit code from its two halves. -/
@[simp] theorem code10_split (c : BitVec 10) : c.extractLsb' 5 5 ++ c.extractLsb' 0 5 = c := by
  ext i hi
  simp only [BitVec.getElem_append, BitVec.getElem_extractLsb']
  grind
/-- The 20-bit code from its four parts. -/
@[simp] theorem code20_split (c : BitVec 20) :
    c.extractLsb' 15 5 ++ c.extractLsb' 10 5 ++ c.extractLsb' 5 5 ++ c.extractLsb' 0 5 = c := by
  ext i hi
  simp only [BitVec.getElem_append, BitVec.getElem_extractLsb']
  grind
/-- The 19-bit code from its four parts. -/
@[simp] theorem code19_split (c : BitVec 19) :
    (1#1 ++ c.extractLsb' 15 4).extractLsb' 0 4 ++ c.extractLsb' 10 5 ++ c.extractLsb' 5 5 ++ c.extractLsb' 0 5 = c := by
  ext i hi
  simp only [BitVec.getElem_append, BitVec.getElem_extractLsb', BitVec.getLsbD_append, BitVec.getLsbD_extractLsb']
  grind
/-- Bit 25 of WAIT. -/
@[simp] theorem wait_co (x : BitVec 4) : (1#1 ++ x) &&& 16#5 = 16#5 := by revert x; decide

end Sys2Proof
end

