-- ==== Sys2Proof/Laws/Exc.lean ====
section
/-! SUPPORT. Exc: what taking an exception writes (R960, R961). -/

namespace Sys2Proof.Machine

open Sys2Proof

/-- Cause after its code is replaced: the code, the other bits, BD. -/
theorem cause_putCode (x : Word) (c : BitVec 5) : (putField x 2 c).extractLsb' 2 5 = c ∧ putField x 2 c &&& 0x7FFFFF83 = x &&& 0x7FFFFF83 ∧ isSet (putField x 2 c) 31 = isSet x 31 := by
    unfold putField isSet
    refine ⟨?_, ?_, ?_⟩
    · ext i hi
      have : i = 0 ∨ i = 1 ∨ i = 2 ∨ i = 3 ∨ i = 4 := by omega
      rcases this with rfl|rfl|rfl|rfl|rfl <;> simp
    · rw [BitVec.and_or_distrib_right, BitVec.and_assoc]
      have h1 : (~~~((BitVec.setWidth 32 (BitVec.allOnes 5)) <<< 2) &&& (0x7FFFFF83 : Word)) = 0x7FFFFF83 := by decide
      have h2 : ∀ c : BitVec 5, (BitVec.setWidth 32 c <<< 2 &&& (0x7FFFFF83 : Word)) = 0 := by decide
      rw [h1, h2]; simp
    · simp
/-- Cause after BD is replaced. -/
theorem cause_putBd (x : Word) (b : Bool) : putBit x 31 b &&& 0x7FFFFF83 = x &&& 0x7FFFFF83 ∧ isSet (putBit x 31 b) 31 = b := by
  unfold putBit isSet
  cases b
  · simp
    rw [BitVec.and_assoc]
    congr 1
  · simp
    rw [BitVec.and_or_distrib_right]
    have : (2147483648#32 &&& 0x7FFFFF83#32) = 0 := by decide
    rw [show (BitVec.twoPow 32 31 : Word) = 2147483648#32 from rfl] 
    rw [this]; simp

/-- Taking an exception changes CP0, PC, the sequencing state, waiting, and the model's own freeCtr and excTaken. -/
theorem takeException_frame (e : Exc) (s : State) :
   takeException e s = { s with cp0 := (takeException e s).cp0, pc := (takeException e s).pc, slot := .none, waiting := false, freeCtr := (takeException e s).freeCtr, excTaken := (takeException e s).excTaken } := by
  unfold takeException State.noteReturn
  split <;> cases e <;> rfl

/-- The registers of CP0 an exception may write. -/
theorem takeException_cp0 (e : Exc) (s : State) :
   (takeException e s).cp0 = { s.cp0 with epc := (takeException e s).cp0.epc, cause := (takeException e s).cp0.cause, status := (takeException e s).cp0.status, badVAddr := (takeException e s).cp0.badVAddr, context := (takeException e s).cp0.context, entryHi := (takeException e s).cp0.entryHi, entryLo0 := (takeException e s).cp0.entryLo0, entryLo1 := (takeException e s).cp0.entryLo1 } := by
  unfold takeException State.noteReturn
  split <;> cases e <;> rfl

/-- EPC and BD are written first, while EXL = 0, and survive the rest (R960). -/
theorem takeException_epc (e : Exc) (s : State) :
    (takeException e s).cp0.epc = s.noteReturn.cp0.epc ∧
      (takeException e s).cp0.cause = putField s.noteReturn.cp0.cause 2 e.code ∧
      (takeException e s).cp0.status = putBit s.cp0.status 1 true := by
  unfold takeException State.noteReturn
  split <;> cases e <;> exact ⟨rfl, rfl, rfl⟩

/-- The vector (R956). -/
theorem takeException_pc (e : Exc) (s : State) :
    (takeException e s).pc = s.vectorBase + e.offset s.exl (isSet s.cp0.cause 23) := by
  unfold takeException State.noteReturn
  split <;> cases e <;> rfl

end Sys2Proof.Machine
end

