-- ==== Sys2Proof/Laws/Fp.lean ====
section
/-! SUPPORT. Fp: values of patterns as rational numbers: order, scaling to a common exponent, and the rounding of an exact
magnitude. -/

namespace Sys2Proof.Machine

open Sys2Proof

/-! ## Values -/

/-- A magnitude scaled down to a smaller exponent. -/
theorem scale_rat (m : Nat) {e d : Int} (h : d ≤ e) :
    ((m * 2 ^ (e - d).toNat : Nat) : ℚ) * (2 : ℚ) ^ d = (m : ℚ) * (2 : ℚ) ^ e := by
  have h1 : ((2 : ℚ) ^ (e - d).toNat) = (2 : ℚ) ^ (e - d) := by
    rw [← zpow_natCast]; congr 1; omega
  push_cast
  rw [h1, mul_assoc, ← zpow_add₀ (by norm_num)]
  congr 2; omega

/-- The same among the reals. -/
theorem scale_real (m : Nat) {e d : Int} (h : d ≤ e) :
    ((m * 2 ^ (e - d).toNat : Nat) : ℝ) * (2 : ℝ) ^ d = (m : ℝ) * (2 : ℝ) ^ e := by
  have := congrArg (fun q : ℚ => (q : ℝ)) (scale_rat m h)
  push_cast at this ⊢
  exact this

/-- The number of a finite value among the reals, its sign in front. -/
theorem FpVal.real_fin (neg : Bool) (m : Nat) (e : Int) :
    ((FpVal.fin neg m e).rat : ℝ) = (if neg then -1 else 1) * ((m : ℝ) * (2 : ℝ) ^ e) := by
  show (((if neg = true then (-1 : ℚ) else 1) * (m : ℚ) * (2 : ℚ) ^ e : ℚ) : ℝ) = _
  cases neg <;> push_cast <;> simp

/-- A signed magnitude scaled down to a smaller exponent. -/
theorem scale_signed (neg : Bool) (m : Nat) {e d : Int} (h : d ≤ e) :
    (((if neg then -((m * 2 ^ (e - d).toNat : Nat) : Int) else ((m * 2 ^ (e - d).toNat : Nat) : Int)) : Int) : ℚ) *
      (2 : ℚ) ^ d = (FpVal.fin neg m e).rat := by
  have := scale_rat m h
  unfold FpVal.rat
  cases neg
  · simp only [Bool.false_eq_true, if_false, one_mul]
    rw [← this]; push_cast; ring
  · simp only [if_true]
    rw [mul_assoc, ← this]; push_cast; ring

/-- The order of finite values is that of their rational numbers. -/
theorem FpVal.lt_fin (na nb : Bool) (ma mb : Nat) (ea eb : Int) :
    (FpVal.fin na ma ea).lt (.fin nb mb eb) = true ↔ (FpVal.fin na ma ea).rat < (FpVal.fin nb mb eb).rat := by
  rw [← scale_signed na ma (min_le_left ea eb), ← scale_signed nb mb (min_le_right ea eb)]
  unfold FpVal.lt
  simp only [decide_eq_true_eq]
  rw [mul_lt_mul_iff_left₀ (zpow_pos (by norm_num) _), Int.cast_lt]

/-- A value has a number exactly when it is no NaN. -/
theorem FpVal.number_none (a : FpVal) : a.number = none ↔ a.isNan = true := by
  cases a with
  | nan s => simp [FpVal.number, FpVal.isNan]
  | inf n => cases n <;> simp [FpVal.number, FpVal.isNan]
  | fin n m e => simp [FpVal.number, FpVal.isNan]

/-- The number of a finite value. -/
theorem FpVal.number_fin (neg : Bool) (m : Nat) (e : Int) :
    (FpVal.fin neg m e).number = some (((FpVal.fin neg m e).rat : WithTop ℚ) : WithBot (WithTop ℚ)) := rfl

/-- The model's comparison is the order of the extended numbers; NaNs are below nothing. -/
theorem FpVal.lt_iff (a b : FpVal) : a.lt b = true ↔ ∃ x y, a.number = some x ∧ b.number = some y ∧ x < y := by
  cases a with
  | nan s => simp [FpVal.lt, FpVal.number]
  | inf na =>
    cases b with
    | nan s => cases na <;> simp [FpVal.lt, FpVal.number]
    | inf nb => cases na <;> cases nb <;> simp [FpVal.lt, FpVal.number]
    | fin nb mb eb =>
      rw [FpVal.number_fin]
      cases na
      · simp [FpVal.lt, FpVal.number]
      · simp [FpVal.lt, FpVal.number, WithBot.bot_lt_coe]
  | fin na ma ea =>
    cases b with
    | nan s => simp [FpVal.lt, FpVal.number]
    | inf nb =>
      rw [FpVal.number_fin]
      cases nb
      · simp only [FpVal.lt, FpVal.number, Bool.not_false, Option.some.injEq, exists_and_left, exists_eq_left', true_iff]
        exact WithBot.coe_lt_coe.2 (WithTop.coe_lt_top _)
      · simp [FpVal.lt, FpVal.number]
    | fin nb mb eb =>
      rw [FpVal.lt_fin, FpVal.number_fin, FpVal.number_fin]
      simp only [Option.some.injEq, exists_and_left, exists_eq_left']
      rw [WithBot.coe_lt_coe, WithTop.coe_lt_coe]

/-- Two values that are no NaNs and neither below the other are equal numbers. -/
theorem FpVal.equal_iff (a b : FpVal) :
    (!(a.isNan || b.isNan) && !a.lt b && !b.lt a) = true ↔ ∃ x, a.number = some x ∧ b.number = some x := by
  have ha := FpVal.number_none a
  have hb := FpVal.number_none b
  have hab := FpVal.lt_iff a b
  have hba := FpVal.lt_iff b a
  cases hx : a.number with
  | none =>
    have : a.isNan = true := ha.1 hx
    simp [this]
  | some x =>
    cases hy : b.number with
    | none =>
      have : b.isNan = true := hb.1 hy
      simp [this]
    | some y =>
      rw [hx, hy] at hab hba
      have h1 : a.isNan = false := by rw [← Bool.not_eq_true, ← ha, hx]; simp
      have h2 : b.isNan = false := by rw [← Bool.not_eq_true, ← hb, hy]; simp
      simp only [Option.some.injEq, exists_and_left, exists_eq_left'] at hab hba ⊢
      simp only [h1, h2, Bool.or_self, Bool.not_false, Bool.true_and, Bool.and_eq_true, Bool.not_eq_true']
      constructor
      · rintro ⟨h3, h4⟩
        rw [← Bool.not_eq_true, hab] at h3
        rw [← Bool.not_eq_true, hba] at h4
        exact le_antisymm (not_lt.1 h3) (not_lt.1 h4)
      · intro h
        subst h
        rw [← Bool.not_eq_true, ← Bool.not_eq_true, hab, hba]
        exact ⟨lt_irrefl _, lt_irrefl _⟩

/-! ## From a gap to a rounding -/

/-- A magnitude R between q0 * u and (q0 + 1) * u, rounded to one of the two by mode. -/
theorem FpFmt.rounds_of_gap {f : FpFmt} {rm : BitVec 2} {neg up : Bool} {R u : ℝ} {q0 x m : Nat} {e : Int} (hu : 0 < u)
    (hlo : q0 * u ≤ R) (hhi : R < (q0 + 1) * u) (hpos : 0 < R)
    (gap : ∀ q, f.Has q → |q| ≤ q0 * u ∨ (q0 + 1) * u ≤ |q|)
    (hx : f.unpack .legacy x = .fin neg m e) (hm : (m : ℝ) * (2 : ℝ) ^ e = (if up then q0 + 1 else q0) * u)
    (hpar : x % 2 = (if up then q0 + 1 else q0) % 2)
    (hup : match rm with
      | 0#2 => up = true ↔ u / 2 < R - q0 * u ∨ (R - q0 * u = u / 2 ∧ q0 % 2 = 1)
      | 1#2 => up = false
      | 2#2 => up = true ↔ neg = false ∧ R ≠ q0 * u
      | _ => up = true ↔ neg = true ∧ R ≠ q0 * u) :
    f.Rounds rm (if neg then -R else R) x := by
  have hq0 : (0 : ℝ) ≤ q0 * u := by positivity
  have hval : (f.value x : ℝ) = (if neg then -1 else 1) * ((if up then (q0 : ℝ) + 1 else q0) * u) := by
    unfold FpFmt.value
    rw [hx, FpVal.real_fin, hm]
    push_cast
    rfl
  have hfin : (f.unpack .legacy x).IsFinite := ⟨neg, m, e, hx⟩
  -- the numbers around R or -R
  have side : ∀ q, f.Has q → if neg then (-(q0 * u) ≤ q ∨ q ≤ -((q0 + 1) * u)) else (q ≤ q0 * u ∨ (q0 + 1) * u ≤ q) := by
    intro q hq
    cases neg
    · simp only [Bool.false_eq_true, if_false]
      rcases gap q hq with h | h
      · exact .inl (le_trans (le_abs_self q) h)
      · rcases le_or_gt 0 q with h0 | h0
        · rw [abs_of_nonneg h0] at h; exact .inr h
        · exact .inl (by linarith)
    · simp only [if_true]
      rcases gap q hq with h | h
      · exact .inl (by have := neg_abs_le q; linarith)
      · rcases le_or_gt q 0 with h0 | h0
        · rw [abs_of_nonpos h0] at h; exact .inr (by linarith)
        · exact .inl (by linarith)
  have hW : (q0 : ℝ) * u < (q0 + 1) * u := by nlinarith
  refine ⟨hfin, ?_⟩
  have hrm : rm = 0#2 ∨ rm = 1#2 ∨ rm = 2#2 ∨ rm = 3#2 := by
    have : ∀ y : BitVec 2, y = 0#2 ∨ y = 1#2 ∨ y = 2#2 ∨ y = 3#2 := by decide
    exact this rm
  rcases hrm with rfl | rfl | rfl | rfl
  · -- to nearest
    simp only at hup ⊢
    intro q hq
    have hs := side q hq
    rw [hval]
    cases neg <;> cases up <;> simp only [Bool.false_eq_true, if_false, if_true, one_mul,
      neg_one_mul, false_iff, true_iff, not_or, not_and] at *
    · obtain ⟨h1, h2⟩ := hup
      rw [abs_of_nonpos (by linarith)]
      rcases hs with h | h
      · rw [abs_of_nonpos (by linarith)]
        refine ⟨by linarith, fun h3 h4 => absurd (by linarith) h4⟩
      · rw [abs_of_nonneg (by linarith)]
        refine ⟨by linarith, fun h3 h4 => ?_⟩
        have : R - q0 * u = u / 2 := by linarith
        have := h2 this
        omega
    · rw [abs_of_nonneg (by linarith)]
      rcases hs with h | h
      · rw [abs_of_nonpos (by linarith)]
        rcases hup with h1 | ⟨h1, h2⟩
        · refine ⟨by linarith, fun h3 h4 => absurd h3 (by intro; linarith)⟩
        · refine ⟨by linarith, fun h3 h4 => by omega⟩
      · rw [abs_of_nonneg (by linarith)]
        refine ⟨by linarith, fun h3 h4 => absurd (by linarith) h4⟩
    · obtain ⟨h1, h2⟩ := hup
      rw [abs_of_nonneg (by linarith)]
      rcases hs with h | h
      · rw [abs_of_nonneg (by linarith)]
        refine ⟨by linarith, fun h3 h4 => absurd (by linarith) h4⟩
      · rw [abs_of_nonpos (by linarith)]
        refine ⟨by linarith, fun h3 h4 => ?_⟩
        have : R - q0 * u = u / 2 := by linarith
        have := h2 this
        omega
    · rw [abs_of_nonpos (by linarith)]
      rcases hs with h | h
      · rw [abs_of_nonneg (by linarith)]
        rcases hup with h1 | ⟨h1, h2⟩
        · refine ⟨by linarith, fun h3 h4 => absurd h3 (by intro; linarith)⟩
        · refine ⟨by linarith, fun h3 h4 => by omega⟩
      · rw [abs_of_nonpos (by linarith)]
        refine ⟨by linarith, fun h3 h4 => absurd (by linarith) h4⟩
  · -- toward zero
    simp only at hup ⊢
    subst hup
    rw [hval]
    refine ⟨?_, ?_, fun q hq h => ?_⟩
    · cases neg <;> simp only [Bool.false_eq_true, if_false, if_true] <;> nlinarith
    · cases neg <;> simp only [Bool.false_eq_true, if_false, if_true, one_mul, neg_one_mul, abs_neg] <;>
        rw [abs_of_nonneg hq0, abs_of_pos hpos] <;> exact hlo
    · have h' : |q| ≤ R := by
        cases neg <;> simp only [Bool.false_eq_true, if_false, if_true, abs_neg, abs_of_pos hpos] at h <;> exact h
      have e1 : |(if neg = true then (-1 : ℝ) else 1) * ((if false = true then (q0 : ℝ) + 1 else q0) * u)| = q0 * u := by
        cases neg <;> simp only [Bool.false_eq_true, if_false, if_true, one_mul, neg_one_mul, abs_neg, abs_of_nonneg hq0]
      rw [e1]
      rcases gap q hq with h1 | h1
      · exact h1
      · linarith
  · -- up
    simp only at hup ⊢
    rw [hval]
    cases neg <;> cases up <;> simp only [Bool.false_eq_true, if_false, if_true, one_mul,
      neg_one_mul, false_iff, true_iff, not_and, reduceCtorEq, false_and] at *
    · have h1 : R = q0 * u := by simpa using hup
      refine ⟨by linarith, fun q hq h => by linarith⟩
    · refine ⟨by linarith, fun q hq h => ?_⟩
      rcases side q hq with h1 | h1
      · have : R ≠ q0 * u := hup.2
        exact absurd (le_antisymm (by linarith) hlo) this
      · exact h1
    · refine ⟨by linarith, fun q hq h => ?_⟩
      rcases side q hq with h1 | h1
      · exact h1
      · linarith
  · -- down
    replace hup : up = true ↔ neg = true ∧ R ≠ q0 * u := hup
    show (f.value x : ℝ) ≤ (if neg then -R else R) ∧ ∀ q, f.Has q → q ≤ (if neg then -R else R) → q ≤ (f.value x : ℝ)
    rw [hval]
    cases neg <;> cases up <;> simp only [Bool.false_eq_true, if_false, if_true, one_mul,
      neg_one_mul, false_iff, true_iff, false_and, true_and, not_not] at *
    · refine ⟨by linarith, fun q hq h => ?_⟩
      rcases side q hq with h1 | h1
      · exact h1
      · linarith
    · refine ⟨by linarith, fun q hq h => by linarith⟩
    · refine ⟨by linarith, fun q hq h => ?_⟩
      rcases side q hq with h1 | h1
      · exact absurd (le_antisymm (by linarith) hlo) hup
      · linarith
/-! ## Patterns -/

/-- The formats of the FPU: at least two exponent bits and one fraction bit. -/
def FpFmt.Proper (f : FpFmt) : Prop := 2 ≤ f.expBits ∧ 1 ≤ f.fracBits

/-- The exponent range: 2^expBits = 2 * bias + 2. -/
theorem FpFmt.expRange {f : FpFmt} (h : f.Proper) : 2 ^ f.expBits = 2 * f.bias + 2 ∧ 1 ≤ f.bias := by
  obtain ⟨h1, -⟩ := h
  unfold FpFmt.bias
  have e1 : 2 ^ f.expBits = 2 * 2 ^ (f.expBits - 1) := by
    rw [← pow_succ']; congr 1; omega
  have e2 : 2 ^ 1 ≤ 2 ^ (f.expBits - 1) := Nat.pow_le_pow_right (by omega) (by omega)
  omega

/-- A normal magnitude packed and unpacked. -/
theorem FpFmt.unpack_pack {f : FpFmt} (h : f.Proper) (n : NanEncoding) (neg : Bool) {q : Nat} {e : Int} (h1 : 2 ^ f.fracBits ≤ q)
    (h2 : q < 2 ^ (f.fracBits + 1)) (h3 : f.eMin - f.fracBits ≤ e) (h4 : e + f.fracBits ≤ f.bias) :
    f.unpack n (f.pack neg q e) = .fin neg q e ∧ f.pack neg q e % 2 = q % 2 := by
  obtain ⟨hx, hb⟩ := f.expRange h
  have hp : 2 ^ (f.fracBits + 1) = 2 * 2 ^ f.fracBits := by rw [pow_succ']
  obtain ⟨E, hE⟩ : ∃ E : Nat, e = (E : Int) - 1 + f.eMin - f.fracBits ∧ 1 ≤ E := ⟨(e - (f.eMin - f.fracBits) + 1).toNat, by omega⟩
  have hE2 : E ≤ 2 * f.bias := by unfold FpFmt.eMin at hE; omega
  have hpk : f.pack neg q e = f.signOf neg + (E * 2 ^ f.fracBits + (q - 2 ^ f.fracBits)) := by
    unfold FpFmt.pack
    rw [if_neg (by omega)]
    congr 3
    omega
  have hB : 0 < 2 ^ f.fracBits := by positivity
  have hlow : E * 2 ^ f.fracBits + (q - 2 ^ f.fracBits) < 2 ^ f.signBit := by
    unfold FpFmt.signBit
    rw [pow_add, hx]
    have : (E + 1) * 2 ^ f.fracBits ≤ (2 * f.bias + 2) * 2 ^ f.fracBits := Nat.mul_le_mul_right _ (by omega)
    have e1 : (E + 1) * 2 ^ f.fracBits = E * 2 ^ f.fracBits + 2 ^ f.fracBits := by ring
    omega
  have hs : f.signOf neg = (if neg then 1 else 0) * (2 ^ f.expBits * 2 ^ f.fracBits) := by
    unfold FpFmt.signOf FpFmt.signBit; rw [← pow_add]; cases neg <;> simp
  have hfrac : f.frac (f.pack neg q e) = q - 2 ^ f.fracBits := by
    unfold FpFmt.frac
    rw [hpk, hs]
    have : (if neg = true then 1 else 0) * (2 ^ f.expBits * 2 ^ f.fracBits) + (E * 2 ^ f.fracBits + (q - 2 ^ f.fracBits)) =
        (q - 2 ^ f.fracBits) + 2 ^ f.fracBits * ((if neg = true then 1 else 0) * 2 ^ f.expBits + E) := by ring
    rw [this, Nat.add_mul_mod_self_left, Nat.mod_eq_of_lt (by omega)]
  have hexp : f.exp (f.pack neg q e) = E := by
    unfold FpFmt.exp
    rw [hpk, hs]
    have : (if neg = true then 1 else 0) * (2 ^ f.expBits * 2 ^ f.fracBits) + (E * 2 ^ f.fracBits + (q - 2 ^ f.fracBits)) =
        (q - 2 ^ f.fracBits) + 2 ^ f.fracBits * (E + 2 ^ f.expBits * (if neg = true then 1 else 0)) := by ring
    rw [this, Nat.add_mul_div_left _ _ hB, Nat.div_eq_of_lt (by omega), Nat.zero_add, Nat.add_mul_mod_self_left,
      Nat.mod_eq_of_lt (by omega)]
  have hneg : f.neg (f.pack neg q e) = neg := by
    unfold FpFmt.neg
    rw [hpk]
    unfold FpFmt.signOf
    cases neg
    · simp only [Bool.false_eq_true, if_false, Nat.zero_add]
      exact Nat.testBit_lt_two_pow hlow
    · simp only [if_true]
      rw [Nat.testBit_two_pow_add_eq, Nat.testBit_lt_two_pow hlow]; rfl
  refine ⟨?_, ?_⟩
  · unfold FpFmt.unpack
    rw [hexp, hfrac, hneg, if_neg (by unfold FpFmt.expMax; omega), if_neg (by omega)]
    congr 1 <;> omega
  · rw [hpk, hs]
    have hf := h.2
    have e1 : 2 ^ f.fracBits = 2 * 2 ^ (f.fracBits - 1) := by rw [← pow_succ']; congr 1; omega
    generalize (if neg = true then 1 else 0) = s
    have : s * (2 ^ f.expBits * 2 ^ f.fracBits) + (E * 2 ^ f.fracBits + (q - 2 ^ f.fracBits)) =
        (q - 2 ^ f.fracBits) + 2 * (2 ^ (f.fracBits - 1) * (s * 2 ^ f.expBits + E)) := by rw [e1]; ring
    rw [this, Nat.add_mul_mod_self_left]
    omega

/-- The finite numbers of a format: few enough bits at an exponent that is not too small. -/
theorem FpFmt.has_form {f : FpFmt} (h : f.Proper) {q : ℝ} (hq : f.Has q) :
    ∃ (m : Nat) (e : Int), |q| = (m : ℝ) * (2 : ℝ) ^ e ∧ m < 2 ^ (f.fracBits + 1) ∧ f.eMin - f.fracBits ≤ e ∧
      e + f.fracBits ≤ f.bias := by
  obtain ⟨hr, hb⟩ := f.expRange h
  obtain ⟨x, hx, rfl⟩ := hq
  have hp : 2 ^ (f.fracBits + 1) = 2 * 2 ^ f.fracBits := by rw [pow_succ']
  have habs : ∀ (neg : Bool) (m : Nat) (e : Int), |((FpVal.fin neg m e).rat : ℝ)| = (m : ℝ) * (2 : ℝ) ^ e := by
    intro neg m e
    have : (0 : ℝ) ≤ (m : ℝ) * (2 : ℝ) ^ e := by positivity
    rw [FpVal.real_fin]
    cases neg
    · simp only [Bool.false_eq_true, if_false, one_mul, abs_of_nonneg this]
    · simp only [if_true, neg_one_mul, abs_neg, abs_of_nonneg this]
  have hfr : f.frac x < 2 ^ f.fracBits := Nat.mod_lt _ (by positivity)
  have hex : f.exp x < 2 ^ f.expBits := Nat.mod_lt _ (by positivity)
  unfold FpFmt.value
  unfold FpFmt.unpack at hx ⊢
  by_cases h1 : f.exp x = f.expMax
  · rw [if_pos h1] at hx
    obtain ⟨a, b, c, hx⟩ := hx
    split at hx <;> simp at hx
  · rw [if_neg h1]
    by_cases h2 : f.exp x = 0
    · rw [if_pos h2]
      refine ⟨f.frac x, f.eMin - f.fracBits, habs _ _ _, by omega, le_refl _, ?_⟩
      unfold FpFmt.eMin; omega
    · rw [if_neg h2]
      refine ⟨_, _, habs _ _ _, by omega, by omega, ?_⟩
      have : f.exp x ≤ 2 * f.bias := by unfold FpFmt.expMax at h1; omega
      unfold FpFmt.eMin
      omega

/-- No number of the format lies strictly between two neighbours with the full number of bits. -/
theorem FpFmt.gap {f : FpFmt} (h : f.Proper) {q0 : Nat} {e : Int} (h1 : 2 ^ f.fracBits ≤ q0) (q : ℝ) (hq : f.Has q) :
    |q| ≤ q0 * (2 : ℝ) ^ e ∨ (q0 + 1) * (2 : ℝ) ^ e ≤ |q| := by
  obtain ⟨m, d, hm, hlt, -⟩ := FpFmt.has_form h hq
  have hu : (0 : ℝ) < (2 : ℝ) ^ e := by positivity
  rw [hm]
  rcases le_or_gt e d with hd | hd
  · rw [← scale_real m hd]
    rcases Nat.lt_or_ge q0 (m * 2 ^ (d - e).toNat) with h2 | h2
    · right
      apply mul_le_mul_of_nonneg_right _ hu.le
      exact_mod_cast h2
    · left
      apply mul_le_mul_of_nonneg_right _ hu.le
      exact_mod_cast h2
  · left
    have e1 : (2 : ℝ) ^ (d + 1) ≤ (2 : ℝ) ^ e := zpow_le_zpow_right₀ (by norm_num) (by omega)
    rw [zpow_add_one₀ (by norm_num)] at e1
    have e2 : (m : ℝ) ≤ 2 * 2 ^ f.fracBits := by
      have : m ≤ 2 * 2 ^ f.fracBits := by rw [pow_succ'] at hlt; omega
      exact_mod_cast this
    have e3 : (2 : ℝ) ^ f.fracBits ≤ q0 := by exact_mod_cast h1
    have hd0 : (0 : ℝ) < (2 : ℝ) ^ d := by positivity
    have hp : (0 : ℝ) < (2 : ℝ) ^ f.fracBits := by positivity
    calc (m : ℝ) * 2 ^ d ≤ (2 * 2 ^ f.fracBits) * 2 ^ d := by nlinarith
      _ = 2 ^ f.fracBits * ((2 : ℝ) ^ d * 2) := by ring
      _ ≤ 2 ^ f.fracBits * (2 : ℝ) ^ e := by nlinarith
      _ ≤ q0 * (2 : ℝ) ^ e := by nlinarith

/-! ## Rounding -/

/-- Where an exact magnitude lies between two neighbours. -/
structure Between (R u : ℝ) (q0 : Nat) (rm : BitVec 2) (neg up inexact : Bool) : Prop where
  lo : q0 * u ≤ R
  hi : R < (q0 + 1) * u
  exact : inexact = false ↔ R = q0 * u
  up : match rm with
    | 0#2 => up = true ↔ u / 2 < R - q0 * u ∨ (R - q0 * u = u / 2 ∧ q0 % 2 = 1)
    | 1#2 => up = false
    | 2#2 => up = true ↔ neg = false ∧ R ≠ q0 * u
    | _ => up = true ↔ neg = true ∧ R ≠ q0 * u

/-- What roundShift decides about an exact magnitude that m * 2^e bounds below (R57). -/
theorem between_roundShift (rm : BitVec 2) (neg : Bool) (m sh : Nat) (e : Int) (sticky : Bool) (R : ℝ) (hs : 1 ≤ sh)
    (h1 : (m : ℝ) * (2 : ℝ) ^ e ≤ R) (h2 : R < (m + 1) * (2 : ℝ) ^ e) (h3 : sticky = false ↔ R = (m : ℝ) * (2 : ℝ) ^ e) :
    ∃ up, roundShift rm neg m sh sticky = (if up then m / 2 ^ sh + 1 else m / 2 ^ sh, m % 2 ^ sh != 0 || sticky) ∧
      Between R ((2 : ℝ) ^ (e + sh)) (m / 2 ^ sh) rm neg up (m % 2 ^ sh != 0 || sticky) := by
  refine ⟨roundsUp rm neg (m / 2 ^ sh % 2 == 1) (m % 2 ^ sh) (2 ^ sh / 2) sticky, rfl, ?_⟩
  have hE : (0 : ℝ) < (2 : ℝ) ^ e := by positivity
  obtain ⟨h, hh⟩ : ∃ h : Nat, 2 ^ sh = 2 * h ∧ 0 < h := ⟨2 ^ (sh - 1), by rw [← pow_succ']; congr 1; omega, by positivity⟩
  have hu : (2 : ℝ) ^ (e + sh) = (2 * h : Nat) * (2 : ℝ) ^ e := by
    rw [zpow_add₀ (by norm_num), zpow_natCast, ← hh.1]; push_cast; ring
  rw [hh.1] at *
  obtain ⟨q, hq⟩ : ∃ q, q = m / (2 * h) := ⟨_, rfl⟩
  obtain ⟨r, hr⟩ : ∃ r, r = m % (2 * h) := ⟨_, rfl⟩
  have hm : m = 2 * h * q + r := by rw [hq, hr]; exact (Nat.div_add_mod _ _).symm
  have hlt : r < 2 * h := by rw [hr]; exact Nat.mod_lt _ (by omega)
  have hhalf : 2 * h / 2 = h := by omega
  rw [← hq, ← hr, hhalf, hu]
  -- R in units of 2^e
  obtain ⟨d, hd⟩ : ∃ d : ℝ, R = (m + d) * (2 : ℝ) ^ e := ⟨R / (2 : ℝ) ^ e - m, by field_simp; ring⟩
  have hd0 : 0 ≤ d := by
    by_contra hc
    rw [hd] at h1; nlinarith
  have hd1 : d < 1 := by
    by_contra hc
    rw [hd] at h2; nlinarith
  have hst : sticky = false ↔ d = 0 := by
    rw [h3, hd]
    constructor
    · intro h4
      have : (m + d) = (m : ℝ) := mul_right_cancel₀ hE.ne' h4
      linarith
    · intro h4; rw [h4, add_zero]
  have hmq : (m : ℝ) = 2 * h * q + r := by exact_mod_cast hm
  have hhq : (0 : ℝ) < h := by exact_mod_cast hh.2
  have hR : R - q * ((2 * h : Nat) * (2 : ℝ) ^ e) = (r + d) * (2 : ℝ) ^ e := by
    rw [hd, hmq]; push_cast; ring
  have hrq : (r : ℝ) + 1 ≤ 2 * h := by exact_mod_cast hlt
  have hr0 : (0 : ℝ) ≤ r := by positivity
  have hzero : R = q * ((2 * h : Nat) * (2 : ℝ) ^ e) ↔ r = 0 ∧ sticky = false := by
    rw [← sub_eq_zero, hR, hst, mul_eq_zero, or_iff_left hE.ne']
    constructor
    · intro h4
      have h5 : (r : ℝ) = 0 := by linarith
      exact ⟨by exact_mod_cast h5, by linarith⟩
    · rintro ⟨h4, h5⟩; rw [h4, h5]; simp
  have hinex : (r != 0 || sticky) = false ↔ R = q * ((2 * h : Nat) * (2 : ℝ) ^ e) := by
    rw [hzero]; cases sticky <;> simp
  have hne : R ≠ q * ((2 * h : Nat) * (2 : ℝ) ^ e) ↔ (r != 0 || sticky) = true := by
    rw [ne_eq, ← hinex, Bool.not_eq_false]
  refine ⟨by nlinarith, ?_, hinex, ?_⟩
  · have : (q + 1 : ℝ) * ((2 * h : Nat) * (2 : ℝ) ^ e) - R = (2 * h - (r + d)) * (2 : ℝ) ^ e := by
      rw [hd, hmq]; push_cast; ring
    nlinarith
  · have hrm : rm = 0#2 ∨ rm = 1#2 ∨ rm = 2#2 ∨ rm = 3#2 := by
      have : ∀ y : BitVec 2, y = 0#2 ∨ y = 1#2 ∨ y = 2#2 ∨ y = 3#2 := by decide
      exact this rm
    rcases hrm with rfl | rfl | rfl | rfl
    · show (decide (h < r) || (r == h && h != 0 && (sticky || q % 2 == 1))) = true ↔ _
      rw [hR]
      have e1 : ((2 * h : Nat) : ℝ) * (2 : ℝ) ^ e / 2 = h * (2 : ℝ) ^ e := by push_cast; ring
      rw [e1, mul_lt_mul_iff_left₀ hE, mul_left_inj' hE.ne']
      have hcase : (h : ℝ) < r + d ↔ h < r ∨ (r = h ∧ sticky = true) := by
        constructor
        · intro h4
          rcases Nat.lt_trichotomy r h with h5 | h5 | h5
          · have : (r : ℝ) + 1 ≤ h := by exact_mod_cast h5
            linarith
          · right
            refine ⟨h5, ?_⟩
            rw [← Bool.not_eq_false, hst]
            intro h6; rw [h5, h6] at h4; linarith
          · exact .inl h5
        · rintro (h4 | ⟨h4, h5⟩)
          · have : (h : ℝ) + 1 ≤ r := by exact_mod_cast h4
            linarith
          · have : d ≠ 0 := by rw [ne_eq, ← hst]; simp [h5]
            have : 0 < d := lt_of_le_of_ne hd0 (Ne.symm this)
            rw [h4]; linarith
      have heq : (r : ℝ) + d = h ↔ r = h ∧ sticky = false := by
        rw [hst]
        constructor
        · intro h4
          rcases Nat.lt_trichotomy r h with h5 | h5 | h5
          · have : (r : ℝ) + 1 ≤ h := by exact_mod_cast h5
            linarith
          · exact ⟨h5, by rw [h5] at h4; linarith⟩
          · have : (h : ℝ) + 1 ≤ r := by exact_mod_cast h5
            linarith
        · rintro ⟨h4, h5⟩; rw [h4, h5, add_zero]
      rw [hcase, heq]
      have : h ≠ 0 := by omega
      cases sticky <;> simp [this]
    · rfl
    · show (!neg && (r != 0 || sticky)) = true ↔ _
      rw [hne]; simp
    · show (neg && (r != 0 || sticky)) = true ↔ (neg = true ∧ _)
      rw [hne]; simp


/-- The largest number of a format. -/
theorem FpFmt.rat_largest {f : FpFmt} (h : f.Proper) :
    (f.value (f.largest false) : ℝ) = (2 ^ (f.fracBits + 1) - 1 : Nat) * (2 : ℝ) ^ ((f.bias : Int) - f.fracBits) := by
  obtain ⟨hr, hb⟩ := f.expRange h
  have hp : 2 ^ (f.fracBits + 1) = 2 * 2 ^ f.fracBits := by rw [pow_succ']
  have hB : 0 < 2 ^ f.fracBits := by positivity
  have e1 : f.largest false = f.pack false (2 ^ (f.fracBits + 1) - 1) ((f.bias : Int) - f.fracBits) := by
    unfold FpFmt.largest FpFmt.infinity FpFmt.pack FpFmt.signOf FpFmt.expMax
    rw [if_neg (show ¬2 ^ (f.fracBits + 1) - 1 < 2 ^ f.fracBits by omega)]
    have : ((f.bias : Int) - f.fracBits - (f.eMin - f.fracBits) + 1).toNat = 2 * f.bias := by unfold FpFmt.eMin; omega
    rw [this, hr]
    simp only [Bool.false_eq_true, if_false]
    have : (2 * f.bias + 2 - 1) * 2 ^ f.fracBits = 2 * f.bias * 2 ^ f.fracBits + 2 ^ f.fracBits := by
      rw [show 2 * f.bias + 2 - 1 = 2 * f.bias + 1 by omega]; ring
    omega
  unfold FpFmt.value
  rw [e1, (FpFmt.unpack_pack h .legacy false (by omega) (by omega) (by unfold FpFmt.eMin; omega) (by omega)).1, FpVal.real_fin]
  simp

/-- The first step of Round: the leading bits of the magnitude (R755). -/
theorem FpFmt.leading (f : FpFmt) (rm : BitVec 2) (neg : Bool) {m : Nat} {e : Int} {sticky : Bool} {R : ℝ} (hm : m ≠ 0)
    (h1 : (m : ℝ) * (2 : ℝ) ^ e ≤ R) (h2 : R < (m + 1) * (2 : ℝ) ^ e) (h3 : sticky = false ↔ R = (m : ℝ) * (2 : ℝ) ^ e)
    (hs : sticky = true → f.fracBits + 1 < Nat.log2 m + 1) :
    ∃ q0 up inx,
      (if Nat.log2 m + 1 ≤ f.fracBits + 1 then (m * 2 ^ (f.fracBits + 1 - (Nat.log2 m + 1)), sticky)
        else roundShift rm neg m (Nat.log2 m + 1 - (f.fracBits + 1)) sticky) = (if up then q0 + 1 else q0, inx) ∧
      Between R ((2 : ℝ) ^ (e + (Nat.log2 m + 1 : Nat) - (f.fracBits + 1 : Nat))) q0 rm neg up inx ∧
      2 ^ f.fracBits ≤ q0 ∧ q0 < 2 ^ (f.fracBits + 1) := by
  have l1 : 2 ^ Nat.log2 m ≤ m := Nat.log2_self_le hm
  have l2 : m < 2 ^ (Nat.log2 m + 1) := Nat.lt_log2_self
  generalize Nat.log2 m = l at *
  by_cases hl : l + 1 ≤ f.fracBits + 1
  · have hst : sticky = false := by
      rw [← Bool.not_eq_true]; intro h; have := hs h; omega
    rw [if_pos hl]
    have hR := h3.1 hst
    have e1 : R = ((m * 2 ^ (f.fracBits + 1 - (l + 1)) : Nat) : ℝ) * (2 : ℝ) ^ (e + (l + 1 : Nat) - (f.fracBits + 1 : Nat)) := by
      have : f.fracBits + 1 - (l + 1) = (e - (e + (l + 1 : Nat) - (f.fracBits + 1 : Nat))).toNat := by omega
      rw [hR, this, scale_real m (by omega)]
    have hu : (0 : ℝ) < (2 : ℝ) ^ (e + (l + 1 : Nat) - (f.fracBits + 1 : Nat)) := by positivity
    refine ⟨m * 2 ^ (f.fracBits + 1 - (l + 1)), false, false, by rw [hst]; rfl, ⟨e1.ge, by rw [e1]; nlinarith, by simp [e1], ?_⟩, ?_, ?_⟩
    · have hrm : rm = 0#2 ∨ rm = 1#2 ∨ rm = 2#2 ∨ rm = 3#2 := by
        have : ∀ y : BitVec 2, y = 0#2 ∨ y = 1#2 ∨ y = 2#2 ∨ y = 3#2 := by decide
        exact this rm
      have e2 : R - ((m * 2 ^ (f.fracBits + 1 - (l + 1)) : Nat) : ℝ) * (2 : ℝ) ^ (e + (l + 1 : Nat) - (f.fracBits + 1 : Nat)) = 0 := by
        linarith
      rcases hrm with rfl | rfl | rfl | rfl
      · show false = true ↔ _
        rw [e2]
        constructor
        · intro h; simp at h
        · rintro (h | ⟨h, -⟩) <;> linarith
      · rfl
      · show false = true ↔ _
        rw [← e1]; simp
      · show false = true ↔ (neg = true ∧ _)
        rw [← e1]; simp
    · have : 2 ^ f.fracBits = 2 ^ l * 2 ^ (f.fracBits + 1 - (l + 1)) := by rw [← pow_add]; congr 1; omega
      rw [this]; exact Nat.mul_le_mul_right _ l1
    · have : 2 ^ (f.fracBits + 1) = 2 ^ (l + 1) * 2 ^ (f.fracBits + 1 - (l + 1)) := by rw [← pow_add]; congr 1; omega
      rw [this]; exact Nat.mul_lt_mul_of_pos_right l2 (by positivity)
  · rw [if_neg hl]
    obtain ⟨up, e1, hb⟩ := between_roundShift rm neg m (l + 1 - (f.fracBits + 1)) e sticky R (by omega) h1 h2 h3
    have e2 : e + (l + 1 - (f.fracBits + 1) : Nat) = e + (l + 1 : Nat) - (f.fracBits + 1 : Nat) := by omega
    rw [e2] at hb
    refine ⟨_, up, _, e1, hb, ?_, ?_⟩
    · rw [Nat.le_div_iff_mul_le (by positivity), ← pow_add]
      refine le_trans (Nat.pow_le_pow_right (by omega) (by omega)) l1
    · rw [Nat.div_lt_iff_lt_mul (by positivity), ← pow_add]
      refine lt_of_lt_of_le l2 (Nat.pow_le_pow_right (by omega) (by omega))

/-- Round delivers the exact value (R57, R755): R is the magnitude, which m * 2^e bounds below. -/
theorem FpFmt.round_delivers {f : FpFmt} (h : f.Proper) (v : FpEnv) (neg : Bool) {m : Nat} {e : Int} {sticky : Bool} {R : ℝ}
    (hm : m ≠ 0) (h1 : (m : ℝ) * (2 : ℝ) ^ e ≤ R) (h2 : R < (m + 1) * (2 : ℝ) ^ e)
    (h3 : sticky = false ↔ R = (m : ℝ) * (2 : ℝ) ^ e) (hs : sticky = true → f.fracBits + 1 < Nat.log2 m + 1) :
    f.Delivers v.rm (if neg then -R else R) (f.round v neg m e sticky) := by
  have hmpos : (0 : ℝ) < m := by exact_mod_cast Nat.pos_of_ne_zero hm
  have hpos : 0 < R := lt_of_lt_of_le (by positivity) h1
  intro hlow hhigh
  have habs : |(if neg then -R else R)| = R := by cases neg <;> simp [abs_of_pos hpos]
  rw [habs] at hlow hhigh
  rw [FpFmt.rat_largest h] at hhigh
  obtain ⟨hr, hb⟩ := f.expRange h
  have hp : 2 ^ (f.fracBits + 1) = 2 * 2 ^ f.fracBits := by rw [pow_succ']
  have hB : 0 < 2 ^ f.fracBits := by positivity
  obtain ⟨q0, up, inx, hq, hbt, hq0, hq1⟩ := FpFmt.leading f v.rm neg hm h1 h2 h3 hs
  obtain ⟨e1, he1⟩ : ∃ e1, e1 = e + (Nat.log2 m + 1 : Nat) - (f.fracBits + 1 : Nat) := ⟨_, rfl⟩
  rw [← he1] at hbt
  have hu : (0 : ℝ) < (2 : ℝ) ^ e1 := by positivity
  have hq0' : (2 : ℝ) ^ f.fracBits ≤ q0 := by exact_mod_cast hq0
  have hq1' : (q0 : ℝ) + 1 ≤ 2 ^ (f.fracBits + 1) := by exact_mod_cast hq1
  -- the exponent is in range
  have hge : f.eMin - f.fracBits ≤ e1 := by
    have a1 : (2 : ℝ) ^ f.eMin < (2 : ℝ) ^ (e1 + (f.fracBits + 1 : Nat)) := by
      calc (2 : ℝ) ^ f.eMin ≤ R := hlow
        _ < (q0 + 1) * (2 : ℝ) ^ e1 := hbt.hi
        _ ≤ 2 ^ (f.fracBits + 1) * (2 : ℝ) ^ e1 := by nlinarith
        _ = _ := by rw [zpow_add₀ (by norm_num), zpow_natCast]; ring
    have := (zpow_lt_zpow_iff_right₀ (by norm_num : (1 : ℝ) < 2)).1 a1
    push_cast at this
    omega
  have hle : e1 + f.fracBits ≤ f.bias := by
    by_contra hc
    have a1 : (2 : ℝ) ^ ((f.bias : Int) + 1) ≤ (2 : ℝ) ^ (e1 + f.fracBits) := zpow_le_zpow_right₀ (by norm_num) (by omega)
    have a2 : (2 : ℝ) ^ (e1 + f.fracBits) ≤ R := by
      refine le_trans ?_ hbt.lo
      rw [zpow_add₀ (by norm_num), zpow_natCast]; nlinarith
    have a3 : ((2 ^ (f.fracBits + 1) - 1 : Nat) : ℝ) * (2 : ℝ) ^ ((f.bias : Int) - f.fracBits) < (2 : ℝ) ^ ((f.bias : Int) + 1) := by
      have e2 : (2 : ℝ) ^ ((f.bias : Int) + 1) = 2 ^ (f.fracBits + 1) * (2 : ℝ) ^ ((f.bias : Int) - f.fracBits) := by
        rw [← zpow_natCast, ← zpow_add₀ (by norm_num)]; congr 1; push_cast; ring
      have e3 : ((2 ^ (f.fracBits + 1) - 1 : Nat) : ℝ) < 2 ^ (f.fracBits + 1) := by
        have : 2 ^ (f.fracBits + 1) - 1 < 2 ^ (f.fracBits + 1) := by omega
        exact_mod_cast this
      have e4 : (0 : ℝ) < (2 : ℝ) ^ ((f.bias : Int) - f.fracBits) := by positivity
      rw [e2]; nlinarith
    linarith
  -- a carry out of the largest exponent would pass the largest number
  have hcarry : up = true → q0 + 1 = 2 ^ (f.fracBits + 1) → e1 + 1 + f.fracBits ≤ f.bias := by
    intro hu1 hq2
    by_contra hc
    have he : e1 = (f.bias : Int) - f.fracBits := by omega
    have : R = q0 * (2 : ℝ) ^ e1 := by
      refine le_antisymm ?_ hbt.lo
      rw [he]
      have : q0 = 2 ^ (f.fracBits + 1) - 1 := by omega
      rw [this]; exact hhigh
    have hup := hbt.up
    rw [hu1, ← this] at hup
    have hrm : v.rm = 0#2 ∨ v.rm = 1#2 ∨ v.rm = 2#2 ∨ v.rm = 3#2 := by
      have : ∀ y : BitVec 2, y = 0#2 ∨ y = 1#2 ∨ y = 2#2 ∨ y = 3#2 := by decide
      exact this v.rm
    rcases hrm with hh | hh | hh | hh <;> rw [hh] at hup
    · rcases hup.1 rfl with h5 | ⟨h5, -⟩ <;> linarith
    · exact absurd hup (by simp)
    · exact (hup.1 rfl).2 rfl
    · exact (hup.1 rfl).2 rfl
  -- the result
  obtain ⟨q, e2, hqe, hqlo, hqhi, hval, hpar, he2, he2'⟩ : ∃ (q : Nat) (e2 : Int),
      f.round v neg m e sticky = { conds := if inx then condI else 0, bits := f.pack neg q e2 } ∧ 2 ^ f.fracBits ≤ q ∧
      q < 2 ^ (f.fracBits + 1) ∧ (q : ℝ) * (2 : ℝ) ^ e2 = (if up then q0 + 1 else q0 : Nat) * (2 : ℝ) ^ e1 ∧
      q % 2 = (if up then q0 + 1 else q0) % 2 ∧ f.eMin - f.fracBits ≤ e2 ∧ e2 + f.fracBits ≤ f.bias := by
    have hround : ∀ (q : Nat) (e2 : Int),
        (if (if up then q0 + 1 else q0) = 2 ^ (f.fracBits + 1) then 2 ^ f.fracBits else (if up then q0 + 1 else q0)) = q →
        (if (if up then q0 + 1 else q0) = 2 ^ (f.fracBits + 1) then e1 + 1 else e1) = e2 → f.eMin - f.fracBits ≤ e2 →
        e2 + f.fracBits ≤ f.bias →
        f.round v neg m e sticky = { conds := if inx then condI else 0, bits := f.pack neg q e2 } := by
      intro q e2 hq2 he2 h5 h6
      unfold FpFmt.round
      simp only [hq, ← he1, hq2, he2]
      rw [if_neg (by omega), if_neg (by omega)]
    by_cases hc : (if up then q0 + 1 else q0) = 2 ^ (f.fracBits + 1)
    · have hup1 : up = true := by
        cases up
        · simp only [Bool.false_eq_true, if_false] at hc; omega
        · rfl
      have hq2 : q0 + 1 = 2 ^ (f.fracBits + 1) := by rw [hup1] at hc; simpa using hc
      have := hcarry hup1 hq2
      refine ⟨2 ^ f.fracBits, e1 + 1, hround _ _ (if_pos hc) (if_pos hc) (by omega) (by omega), le_refl _, by omega, ?_, ?_,
        by omega, by omega⟩
      · rw [hc, zpow_add_one₀ (by norm_num)]; push_cast; rw [pow_succ]; ring
      · rw [hc, hp]
        obtain ⟨k, hk⟩ : ∃ k, f.fracBits = k + 1 := ⟨f.fracBits - 1, by have := h.2; omega⟩
        rw [hk, pow_succ']; omega
    · refine ⟨_, e1, hround _ _ (if_neg hc) (if_neg hc) hge hle, ?_, ?_, rfl, rfl, hge, hle⟩
      · split <;> omega
      · cases up <;> simp only [Bool.false_eq_true, if_false, if_true] at hc ⊢ <;> omega
  obtain ⟨hun, hpk⟩ := FpFmt.unpack_pack h .legacy neg hqlo hqhi he2 he2'
  rw [hqe]
  have hR : f.Rounds v.rm (if neg then -R else R) (f.pack neg q e2) :=
    FpFmt.rounds_of_gap hu hbt.lo hbt.hi hpos (fun y hy => FpFmt.gap h hq0 y hy) hun hval (hpk.trans hpar) hbt.up
  refine ⟨hR, ?_⟩
  -- inexact exactly when the value changed
  have hw : (f.value (f.pack neg q e2) : ℝ) = (if neg then -1 else 1) * ((if up then q0 + 1 else q0 : Nat) * (2 : ℝ) ^ e1) := by
    unfold FpFmt.value
    rw [hun, FpVal.real_fin, hval]
  have hiff : (f.value (f.pack neg q e2) : ℝ) = (if neg then -R else R) ↔ inx = false := by
    rw [hw, hbt.exact]
    have a1 : (if neg then -1 else 1) * ((if up then q0 + 1 else q0 : Nat) * (2 : ℝ) ^ e1) = (if neg then -R else R) ↔
        ((if up then q0 + 1 else q0 : Nat) : ℝ) * (2 : ℝ) ^ e1 = R := by
      cases neg
      · simp
      · simp only [if_true, neg_one_mul, neg_inj]
    rw [a1]
    cases hup : up
    · simp only [Bool.false_eq_true, if_false]; exact eq_comm
    · simp only [if_true]
      have hne : R ≠ q0 * (2 : ℝ) ^ e1 := by
        intro hc
        have h6 := hbt.up
        rw [hup, ← hc] at h6
        have hrm : v.rm = 0#2 ∨ v.rm = 1#2 ∨ v.rm = 2#2 ∨ v.rm = 3#2 := by
          have : ∀ y : BitVec 2, y = 0#2 ∨ y = 1#2 ∨ y = 2#2 ∨ y = 3#2 := by decide
          exact this v.rm
        rcases hrm with hh | hh | hh | hh <;> rw [hh] at h6
        · rcases h6.1 rfl with h5 | ⟨h5, -⟩ <;> linarith
        · exact absurd h6 (by simp)
        · exact (h6.1 rfl).2 rfl
        · exact (h6.1 rfl).2 rfl
      constructor
      · intro hc
        have := hbt.hi
        push_cast at hc
        linarith
      · intro hc; exact absurd hc hne
  cases inx
  · exact ⟨fun _ => rfl, fun hc => absurd (hiff.2 rfl) hc⟩
  · exact ⟨fun hc => absurd (hiff.1 hc) (by simp), fun _ => rfl⟩

/-! ## What the operations round -/

/-- The formats S and D are proper. -/
theorem FpFmt.proper_of_mem {f : FpFmt} (hf : f ∈ fpFormats) : f.Proper := by
  simp only [fpFormats] at hf
  simp only [List.mem_cons, List.mem_nil_iff, or_false] at hf
  rcases hf with rfl | rfl <;> exact ⟨by decide, by decide⟩

/-- Zero lies below every normal number. -/
theorem FpFmt.delivers_zero (f : FpFmt) (rm : BitVec 2) {r : ℝ} (x : FpResult) (h : r = 0) : f.Delivers rm r x := by
  intro h1
  rw [h, abs_zero] at h1
  have : (0 : ℝ) < (2 : ℝ) ^ f.eMin := by positivity
  linarith

/-- Round of an exactly given number delivers it. -/
theorem FpFmt.round_exact {f : FpFmt} (h : f.Proper) (v : FpEnv) (neg : Bool) {m : Nat} {e : Int} (hm : m ≠ 0) :
    f.Delivers v.rm (FpVal.fin neg m e).rat (f.round v neg m e false) := by
  have hE : (0 : ℝ) < (2 : ℝ) ^ e := by positivity
  have := FpFmt.round_delivers h v neg (m := m) (e := e) (sticky := false) (R := m * (2 : ℝ) ^ e) hm le_rfl (by nlinarith)
    (by simp) (by simp)
  rw [FpVal.real_fin]
  cases neg
  · simpa using this
  · simpa using this

end Sys2Proof.Machine
end

