-- ==== Sys2Proof/Laws/Frames.lean ====
section
/-! SUPPORT. Frames: what loads, stores, DMA and the DSP leave alone: the registers of the CPU in every case, memory in a read;
and the canonical form of memory in every case. No operation of the bus or of an agent raises a CPU exception. -/

namespace Sys2Proof.Machine

open Sys2Proof

/-! ## The relations -/

/-- The registers of the CPU, its modes and the model's own tracking fields are as before. -/
structure SameCpu (s t : State) : Prop where
  gpr : t.gpr = s.gpr
  hi : t.hi = s.hi
  lo : t.lo = s.lo
  pc : t.pc = s.pc
  slot : t.slot = s.slot
  waiting : t.waiting = s.waiting
  llbit : t.llbit = s.llbit
  cp0 : t.cp0 = s.cp0
  fgr : t.fgr = s.fgr
  fcsr : t.fcsr = s.fcsr
  tlb : t.tlb = s.tlb
  params : t.params = s.params
  moves : t.moves = s.moves
  excTaken : t.excTaken = s.excTaken
  mduUnread : t.mduUnread = s.mduUnread
  hazard : t.hazard = s.hazard

/-- Besides, memory and the check bits are as before. -/
structure SameCore (s t : State) : Prop where
  cpu : SameCpu s t
  mem : t.mem = s.mem
  checkBits : t.checkBits = s.checkBits

/-- The CPU is as before and memory keeps its canonical form. -/
structure Kept (s t : State) : Prop where
  cpu : SameCpu s t
  legal : MemoryLegal s → MemoryLegal t

theorem SameCpu.refl (s : State) : SameCpu s s := ⟨rfl, rfl, rfl, rfl, rfl, rfl, rfl, rfl, rfl, rfl, rfl, rfl, rfl, rfl, rfl, rfl⟩
theorem SameCpu.trans {s t u : State} (h : SameCpu s t) (k : SameCpu t u) : SameCpu s u :=
  ⟨k.gpr.trans h.gpr, k.hi.trans h.hi, k.lo.trans h.lo, k.pc.trans h.pc, k.slot.trans h.slot, k.waiting.trans h.waiting,
    k.llbit.trans h.llbit, k.cp0.trans h.cp0, k.fgr.trans h.fgr, k.fcsr.trans h.fcsr, k.tlb.trans h.tlb,
    k.params.trans h.params, k.moves.trans h.moves, k.excTaken.trans h.excTaken, k.mduUnread.trans h.mduUnread,
    k.hazard.trans h.hazard⟩
/-- By one equation between the fields taken together. -/
theorem SameCpu.of {s t : State} (h : (t.gpr, t.hi, t.lo, t.pc, t.slot, t.waiting, t.llbit, t.cp0, t.fgr, t.fcsr, t.tlb, t.params, t.moves, t.excTaken, t.mduUnread, t.hazard) =
    (s.gpr, s.hi, s.lo, s.pc, s.slot, s.waiting, s.llbit, s.cp0, s.fgr, s.fcsr, s.tlb, s.params, s.moves, s.excTaken, s.mduUnread, s.hazard)) : SameCpu s t := by
  simp only [Prod.mk.injEq] at h
  exact ⟨h.1, h.2.1, h.2.2.1, h.2.2.2.1, h.2.2.2.2.1, h.2.2.2.2.2.1, h.2.2.2.2.2.2.1, h.2.2.2.2.2.2.2.1, h.2.2.2.2.2.2.2.2.1, h.2.2.2.2.2.2.2.2.2.1, h.2.2.2.2.2.2.2.2.2.2.1, h.2.2.2.2.2.2.2.2.2.2.2.1, h.2.2.2.2.2.2.2.2.2.2.2.2.1, h.2.2.2.2.2.2.2.2.2.2.2.2.2.1, h.2.2.2.2.2.2.2.2.2.2.2.2.2.2.1, h.2.2.2.2.2.2.2.2.2.2.2.2.2.2.2⟩
theorem SameCore.refl (s : State) : SameCore s s := ⟨.of rfl, rfl, rfl⟩
theorem SameCore.trans {s t u : State} (h : SameCore s t) (k : SameCore t u) : SameCore s u :=
  ⟨h.cpu.trans k.cpu, k.mem.trans h.mem, k.checkBits.trans h.checkBits⟩
theorem Kept.refl (s : State) : Kept s s := ⟨.of rfl, id⟩
theorem Kept.trans {s t u : State} (h : Kept s t) (k : Kept t u) : Kept s u := ⟨h.cpu.trans k.cpu, fun m => k.legal (h.legal m)⟩
theorem SameCore.kept {s t : State} (h : SameCore s t) : Kept s t :=
  ⟨h.cpu, fun m => ⟨h.mem ▸ m.1, h.checkBits ▸ m.2⟩⟩

/-- An operation that succeeds is in the relation, and it raises no exception. -/
def Res.Sat {α : Type} (P : State → State → Prop) (s : State) (r : Res α) : Prop :=
  (∀ a t, r = .ok a t → P s t) ∧ ∀ e t, r ≠ .exc e t

theorem Res.sat_ok {α : Type} {P : State → State → Prop} {s t : State} {a : α} (h : P s t) : Res.Sat P s (.ok a t) :=
  ⟨fun _ _ e => by simp at e; exact e.2 ▸ h, fun _ _ e => by simp at e⟩
theorem Res.sat_fault {α : Type} {P : State → State → Prop} {s : State} {f : Fault} : Res.Sat P s (.fault f : Res α) :=
  ⟨fun _ _ e => by simp at e, fun _ _ e => by simp at e⟩
theorem Res.sat_refuse {α : Type} {P : State → State → Prop} {s : State} {f : Refusal} :
    Res.Sat P s (.refuse f : Res α) := ⟨fun _ _ e => by simp at e, fun _ _ e => by simp at e⟩

/-- Two operations in a row, each in a transitive relation. -/
theorem Res.sat_andThen {α β : Type} {P : State → State → Prop} (tr : ∀ {s t u}, P s t → P t u → P s u) {s : State}
    {r : Res α} {k : α → State → Res β} (h : Res.Sat P s r) (hk : ∀ a t, Res.Sat P t (k a t)) :
    Res.Sat P s (r.andThen k) := by
  cases r with
  | ok a t =>
    have h1 := h.1 a t rfl
    exact ⟨fun b u e => tr h1 ((hk a t).1 b u e), fun e u => (hk a t).2 e u⟩
  | exc e t => exact absurd rfl (h.2 e t)
  | fault f => exact .intro (fun _ _ e => by simp at e) (fun _ _ e => by simp at e)
  | refuse f => exact .intro (fun _ _ e => by simp at e) (fun _ _ e => by simp at e)

theorem Res.sat_mono {α : Type} {P Q : State → State → Prop} (hpq : ∀ {s t}, P s t → Q s t) {s : State} {r : Res α}
    (h : Res.Sat P s r) : Res.Sat Q s r := ⟨fun a t e => hpq (h.1 a t e), h.2⟩

/-- Two core-keeping operations in a row. -/
theorem Res.core_andThen {α β : Type} {s : State} {r : Res α} {k : α → State → Res β} (h : Res.Sat SameCore s r)
    (hk : ∀ a t, Res.Sat SameCore t (k a t)) : Res.Sat SameCore s (r.andThen k) := Res.sat_andThen (P := SameCore) (fun h k => SameCore.trans h k) h hk
/-- Two keeping operations in a row. -/
theorem Res.kept_andThen {α β : Type} {s : State} {r : Res α} {k : α → State → Res β} (h : Res.Sat Kept s r)
    (hk : ∀ a t, Res.Sat Kept t (k a t)) : Res.Sat Kept s (r.andThen k) := Res.sat_andThen (P := Kept) (fun h k => Kept.trans h k) h hk
/-- A first step that keeps, before an operation. -/
theorem Res.kept_after {α : Type} {s t : State} {r : Res α} (h : Kept s t) (hr : Res.Sat Kept t r) : Res.Sat Kept s r :=
  ⟨fun a u e => h.trans (hr.1 a u e), hr.2⟩
theorem Res.core_after {α : Type} {s t : State} {r : Res α} (h : SameCore s t) (hr : Res.Sat SameCore t r) :
    Res.Sat SameCore s r := ⟨fun a u e => h.trans (hr.1 a u e), hr.2⟩
theorem Res.core_kept {α : Type} {s : State} {r : Res α} (h : Res.Sat SameCore s r) : Res.Sat Kept s r :=
  Res.sat_mono SameCore.kept h

/-! ## Hamming controllers and memory -/

theorem noteEcc_core (s : State) (u : EccUnit) (a : Nat) (c : BitVec 2) : SameCore s (s.noteEcc u a c) :=
  ⟨.of rfl, rfl, rfl⟩
theorem fifoPop_core (s : State) (u : EccUnit) : SameCore s (s.fifoPop u) := ⟨.of rfl, rfl, rfl⟩
theorem fifoStore_core (s : State) (u : EccUnit) : SameCore s (s.fifoStore u) := by
  unfold State.fifoStore; split <;> exact ⟨.of rfl, rfl, rfl⟩
theorem writeEccCsr_core (s : State) (u : EccUnit) (v : Word) : SameCore s (s.writeEccCsr u v) := ⟨.of rfl, rfl, rfl⟩
theorem drawn_core (s : State) : SameCore s s.drawn := ⟨.of rfl, rfl, rfl⟩

theorem checkedWord_core (s : State) (u : EccUnit) (a : Nat) : SameCore s (s.checkedWord u a).2 := by
  unfold State.checkedWord
  split
  · exact .refl s
  · split
    · exact .refl s
    · split <;> exact noteEcc_core ..

theorem protRead_core (u : EccUnit) (a : Nat) (s : State) : Res.Sat SameCore s (protRead u a s) := by
  unfold protRead
  split
  · exact Res.sat_ok (.refl s)
  · exact Res.sat_ok (checkedWord_core s u a)
  · exact Res.sat_ok (.refl s)
  · exact Res.sat_fault

theorem anyWord_core (s : State) : Res.Sat SameCore s (anyWord s) := Res.sat_ok (drawn_core s)

/-- Stored lanes and check bits keep the canonical form. -/
theorem putLanes_kept (s : State) (a : Nat) (l : BitVec 4) (v : Word) : Kept s (s.putLanes a l v) :=
  ⟨.of rfl, fun m => ⟨Memory.wf_writeLanes m.1 a l v, m.2⟩⟩
theorem storeRaw_kept (s : State) (a : Nat) (l : BitVec 4) (v : Word) : Kept s (s.storeRaw a l v) :=
  ⟨.of rfl, fun m => ⟨Memory.wf_writeLanes m.1 a l v, m.2⟩⟩
theorem putCheckBits_kept (s : State) (a : Nat) (v : BitVec 7) : Kept s (s.putCheckBits a v) :=
  ⟨.of rfl, fun m => ⟨m.1, Memory.wf_write m.2 a _⟩⟩

theorem drawnBy_core (s : State) (n : Nat) : SameCore s (s.drawnBy n) := ⟨.of rfl, rfl, rfl⟩

/-- The read of a partial store in mode 01 leaves the core alone. -/
theorem readBack_core (u : EccUnit) (a : Nat) (l : BitVec 4) (v : Word) (s : State) :
    SameCore s (if l = 0xF then (v, s) else s.checkedWord u a).2 := by
  split
  · exact .refl s
  · exact checkedWord_core s u a

theorem storeCheck_kept (s : State) (ram : BitVec 4) (a : Nat) (v : BitVec 7) : Kept s (s.storeCheck ram a v) := by
  unfold State.storeCheck
  split
  · exact .refl s
  · exact putCheckBits_kept ..

/-- A store through a Hamming controller keeps the canonical form of memory and check bits. -/
theorem protStore_kept (u : EccUnit) (a : Nat) (l r : BitVec 4) (v : Word) (s : State) :
    Res.Sat Kept s (protStore u a l r v s) := by
  unfold protStore
  split
  · exact Res.sat_ok (storeRaw_kept ..)
  · exact Res.sat_ok ((readBack_core u a l v s).kept.trans
      (((storeRaw_kept ..).trans (storeCheck_kept ..)).trans (drawn_core _).kept))
  · split
    · exact Res.sat_ok (storeCheck_kept ..)
    · exact Res.sat_ok ((storeCheck_kept s ..).trans (drawn_core _).kept)
  · exact Res.sat_fault
theorem protWrite_kept (u : EccUnit) (a : Nat) (l : BitVec 4) (v : Word) (s : State) :
    Res.Sat Kept s (protWrite u a l v s) := protStore_kept ..

/-! ## External memory -/

theorem setOver_core (s : State) : SameCore s s.setOver := ⟨.of rfl, rfl, rfl⟩

theorem holdSdram_core (s : State) (cs : Fin 5) (a : Nat) (l : BitVec 4) (c g : Bool) :
    SameCore s (s.holdSdram cs a l c g) := ⟨.of rfl, rfl, rfl⟩
theorem holdStored_core (s : State) (cs : Fin 5) (a : Nat) (l : BitVec 4) (c : Bool) :
    SameCore s (s.holdStored cs a l c) := by
  unfold State.holdStored
  split <;> exact holdSdram_core ..

theorem partialWord_core (l : BitVec 4) (w : Word) (s : State) : Res.Sat SameCore s (partialWord l w s) := by
  unfold partialWord
  split
  · exact Res.sat_ok (.refl s)
  · exact Res.sat_ok (drawn_core s)

theorem extRead_core (a : Nat) (s : State) : Res.Sat SameCore s (extRead a s) := by
  unfold extRead
  dsimp only
  repeat' split
  · exact Res.sat_fault
  · exact partialWord_core ..
  · exact Res.sat_fault
  · exact Res.core_after (setOver_core s) (anyWord_core _)
  · exact Res.sat_ok (drawn_core s)
  · exact anyWord_core s
  · exact protRead_core ..
  · exact Res.sat_ok (drawn_core s)
  · exact Res.core_andThen (protRead_core ..) fun w t => partialWord_core _ w t

/-- A byte stored over the 8-bit path keeps the canonical form of memory and check bits. -/
theorem byteWrite_kept (a : Nat) (l : BitVec 4) (b : Byte) (s : State) : Res.Sat Kept s (byteWrite a l b s) := by
  have h := storeRaw_kept s a (l &&& s.ramLanes a) (b ++ b ++ b ++ b)
  unfold byteWrite
  dsimp only
  split
  · exact Res.sat_ok h
  · exact Res.sat_ok ((h.trans (storeCheck_kept ..)).trans (drawn_core _).kept)
  · exact Res.sat_ok (storeCheck_kept ..)
  · exact Res.sat_fault

theorem extWrite_kept (a : Nat) (q : StoreReq) (s : State) : Res.Sat Kept s (extWrite a q s) := by
  unfold extWrite
  dsimp only
  repeat' split
  · exact Res.sat_fault
  · exact Res.sat_fault
  · exact byteWrite_kept ..
  · exact Res.kept_andThen (protStore_kept ..) fun _ t => Res.sat_ok (holdStored_core t ..).kept
  · exact Res.sat_ok (setOver_core s).kept
  · exact Res.sat_ok (holdSdram_core s ..).kept

/-! ## DSP memory and the DMA bus -/

theorem noteExtRead_core (s : State) (a : Nat) : SameCore s (s.noteExtRead a) := by
  unfold State.noteExtRead
  split
  · exact .refl s
  · exact ⟨.of rfl, rfl, rfl⟩
theorem noteExtWrite_core (s : State) (a : Nat) : SameCore s (s.noteExtWrite a) := by
  unfold State.noteExtWrite
  split
  · exact .refl s
  · exact ⟨.of rfl, rfl, rfl⟩

theorem dspMemRead_core (a : Nat) (s : State) : Res.Sat SameCore s (dspMemRead a s) := by
  unfold dspMemRead
  refine Res.core_after (noteExtRead_core s a) (Res.core_andThen (protRead_core ..) fun _ t => ?_)
  split
  · exact anyWord_core t
  · exact Res.sat_ok (.refl t)

theorem dspCellWrite_kept (a : Nat) (v : Word) (s : State) : Res.Sat Kept s (dspCellWrite a v s) := by
  unfold dspCellWrite
  split
  · exact Res.kept_after ((noteExtWrite_core s a).trans (drawn_core _)).kept (protWrite_kept ..)
  · exact Res.kept_after (noteExtWrite_core s a).kept (protWrite_kept ..)

theorem dspMemWrite_kept (a : Nat) (v : Word) (s : State) : Res.Sat Kept s (dspMemWrite a v s) := by
  unfold dspMemWrite
  split
  · exact Res.kept_andThen (dspCellWrite_kept ..) fun _ _ => dspCellWrite_kept ..
  · exact dspCellWrite_kept ..

theorem dmaRead_core (pa : Word) (s : State) : Res.Sat SameCore s (dmaRead pa s) := by
  unfold dmaRead
  dsimp only
  split
  · exact protRead_core ..
  · split
    · exact dspMemRead_core ..
    · split
      · exact anyWord_core s
      · exact extRead_core ..

theorem joinErrors_core (s t : State) (a : Nat) : SameCore t (s.joinErrors t a) := by
  unfold State.joinErrors
  dsimp only
  split
  · exact ⟨.of rfl, rfl, rfl⟩
  · exact .refl t

theorem dmaWrite_kept (pa v : Word) (s : State) : Res.Sat Kept s (dmaWrite pa v s) := by
  unfold dmaWrite
  dsimp only
  split
  · exact protWrite_kept ..
  · split
    · exact dspMemWrite_kept ..
    · split
      · exact Res.sat_ok (.refl s)
      · exact extWrite_kept ..

theorem dmaRead64_core (pa : Word) (s : State) : Res.Sat SameCore s (dmaRead64 pa s) := by
  unfold dmaRead64
  refine Res.core_andThen (dmaRead_core ..) fun lo s1 => Res.core_andThen (dmaRead_core ..) fun hi s2 => Res.sat_ok ?_
  split
  · exact joinErrors_core ..
  · exact .refl s2

theorem dmaWrite64_kept (pa : Word) (v : Dword) (s : State) : Res.Sat Kept s (dmaWrite64 pa v s) := by
  unfold dmaWrite64
  dsimp only
  refine Res.kept_andThen ?_ fun _ t => ?_ <;> split
  · exact dspCellWrite_kept ..
  · exact dmaWrite_kept ..
  · exact dspCellWrite_kept ..
  · exact dmaWrite_kept ..

/-! ## DMA -/

theorem putChannel_core (s : State) (c : Fin 16) (ch : DmaChannel) : SameCore s (s.putChannel c ch) := ⟨.of rfl, rfl, rfl⟩
theorem putSwic_core (s : State) (n : Bool) (w : Swic) : SameCore s (s.putSwic n w) := by
  unfold State.putSwic; split <;> exact ⟨.of rfl, rfl, rfl⟩
theorem putMfbsp_core (s : State) (p : Fin 4) (m : Mfbsp) : SameCore s (s.putMfbsp p m) := ⟨.of rfl, rfl, rfl⟩
theorem storeChannel_core (s : State) (c : Fin 16) (ch : DmaChannel) : SameCore s (s.storeChannel c ch) := by
  unfold State.storeChannel
  dsimp only
  split <;> exact putChannel_core ..
theorem startDsp_core (s : State) (n : Nat) : SameCore s (s.startDsp n) := by
  unfold State.startDsp; split
  · exact ⟨.of rfl, rfl, rfl⟩
  · exact .refl s
theorem rotate_core (s : State) (c : Fin 16) : SameCore s (s.rotate c) := ⟨.of rfl, rfl, rfl⟩

theorem loadParams_core (c : Fin 16) (s : State) : Res.Sat SameCore s (loadParams c s) := by
  unfold loadParams
  dsimp only
  refine Res.core_andThen (dmaRead64_core ..) fun d0 s => Res.core_andThen (dmaRead64_core ..) fun d1 s => ?_
  split
  · exact Res.core_andThen (dmaRead64_core ..) fun d2 s => Res.sat_ok (putChannel_core ..)
  · exact Res.sat_ok (putChannel_core ..)

theorem blockEnd_core (c : Fin 16) (s : State) : SameCore s (blockEnd c s) := by
  have h1 : SameCore s (if isSet (s.channel c).csr 13 then s.putChannel c ((s.channel c).putCsrBit 14 true) else s) := by
    split
    · exact putChannel_core ..
    · exact .refl s
  unfold blockEnd
  dsimp only
  generalize (if isSet (s.channel c).csr 13 then s.putChannel c ((s.channel c).putCsrBit 14 true) else s) = s1 at h1
  have h2 : SameCore s1 (if isMemChannel c && isSet (s.channel c).csr 7 then s1.startDsp (channelNumber c).val else s1) := by
    split
    · exact startDsp_core ..
    · exact .refl s1
  generalize (if isMemChannel c && isSet (s.channel c).csr 7 then s1.startDsp (channelNumber c).val else s1) = s2 at h2
  exact (h1.trans h2).trans (putChannel_core ..)

theorem flybyStore_kept (pa v : Word) (s : State) : Res.Sat Kept s (flybyStore pa v s) := by
  unfold flybyStore
  split
  · split
    · exact protStore_kept ..
    · exact dmaWrite_kept ..
  · exact dmaWrite_kept ..

theorem flybyWord_kept (c : Fin 16) (s : State) : Res.Sat Kept s (flybyWord c s) := by
  have take : ∀ s : State, Kept s (match s.dma.flyIn[channelNumber c] with
      | w :: rest => (w, { s with dma := { s.dma with flyIn := s.dma.flyIn.set (channelNumber c) rest } })
      | [] => (s.freeWord, s.drawn)).2 := by
    intro s
    split
    · exact ⟨.of rfl, id⟩
    · exact ⟨.of rfl, id⟩
  unfold flybyWord
  dsimp only
  split
  · split
    · split
      · exact Res.kept_after ((take s).trans (take _))
          (Res.kept_andThen (flybyStore_kept ..) fun _ _ => flybyStore_kept ..)
      · exact Res.kept_after ((take s).trans (take _)) (dmaWrite64_kept ..)
    · exact Res.kept_after (take s) (flybyStore_kept ..)
  · split
    · exact Res.kept_andThen (Res.core_kept (dmaRead64_core ..)) fun _ t => Res.sat_ok ⟨.of rfl, id⟩
    · exact Res.kept_andThen (Res.core_kept (dmaRead_core ..)) fun _ t => Res.sat_ok ⟨.of rfl, id⟩

theorem memWord_kept (c : Fin 16) (s : State) : Res.Sat Kept s (memWord c s) := by
  unfold memWord
  dsimp only
  split
  · exact flybyWord_kept ..
  · split <;> split <;> try split
    all_goals first
      | exact Res.sat_fault
      | exact Res.kept_andThen (Res.core_kept (dmaRead64_core ..)) fun _ _ => dmaWrite64_kept ..
      | exact Res.kept_andThen (Res.core_kept (dmaRead_core ..)) fun _ _ => dmaWrite_kept ..

theorem endBurst_core (s : State) (c : Fin 16) : SameCore s (s.endBurst c) := ⟨.of rfl, rfl, rfl⟩

theorem wordDone_core (c : Fin 16) (next : DmaChannel) (last : Bool) (s : State) : SameCore s (wordDone c next last s) := by
  unfold wordDone
  dsimp only
  split
  · exact ((putChannel_core ..).trans (blockEnd_core ..)).trans (endBurst_core ..)
  · split
    · exact (putChannel_core ..).trans (endBurst_core ..)
    · exact putChannel_core ..

theorem memStep_kept (c : Fin 16) (s : State) : Res.Sat Kept s (memStep c s) :=
  Res.kept_andThen (memWord_kept ..) fun _ _ => Res.sat_ok (wordDone_core ..).kept

theorem memMove_kept (c : Fin 16) (s : State) : Res.Sat Kept s (memMove c s) := by
  unfold memMove
  dsimp only
  split
  · exact memStep_kept ..
  · split
    · exact Res.kept_after (putChannel_core ..).kept (memStep_kept ..)
    · exact Res.sat_ok (.refl s)

theorem portGive_kept (c : Fin 16) (d : Dword) (s : State) : Res.Sat Kept s (portGive c d s) := by
  unfold portGive
  dsimp only
  repeat' split
  · exact Res.sat_ok (putMfbsp_core ..).kept
  · exact Res.sat_ok (.refl s)
  · exact Res.sat_ok (putSwic_core ..).kept
  · exact Res.sat_fault
  · exact Res.sat_ok (putSwic_core ..).kept

theorem portTake_kept (c : Fin 16) (s : State) : Kept s (portTake c s).2 := by
  unfold portTake
  dsimp only
  split
  · exact ⟨.of rfl, id⟩
  · split
    · split
      · exact (putSwic_core ..).kept
      · exact ⟨.of rfl, id⟩
    · exact ((putSwic_core ..).trans ((drawn_core _).trans (drawn_core _))).kept

theorem portWord_kept (c : Fin 16) (s : State) : Res.Sat Kept s (portWord c s) := by
  unfold portWord
  dsimp only
  split
  · exact Res.kept_andThen (Res.core_kept (dmaRead64_core ..)) fun _ _ => portGive_kept ..
  · exact Res.kept_after (portTake_kept c s) (dmaWrite64_kept ..)

theorem portStep_kept (c : Fin 16) (s : State) : Res.Sat Kept s (portStep c s) :=
  Res.kept_andThen (portWord_kept ..) fun _ _ => Res.sat_ok (wordDone_core ..).kept

theorem portMove_kept (c : Fin 16) (s : State) : Res.Sat Kept s (portMove c s) := by
  unfold portMove
  dsimp only
  split
  · exact Res.sat_ok (.refl s)
  · split
    · exact Res.sat_fault
    · split
      · exact portStep_kept ..
      · split
        · exact Res.kept_after (putChannel_core ..).kept (portStep_kept ..)
        · exact Res.sat_ok (putChannel_core ..).kept

/-- A move of a DMA channel leaves the CPU alone and keeps memory in canonical form. -/
theorem dmaMove_kept (c : BitVec 4) (s : State) : Res.Sat Kept s (dmaMove c s) := by
  have go : Res.Sat Kept s (if isMemChannel c.toFin then memMove c.toFin s else portMove c.toFin s) := by
    split
    · exact memMove_kept ..
    · exact portMove_kept ..
  unfold dmaMove
  dsimp only
  split
  · split
    · exact Res.sat_ok (.refl s)
    · exact go
  · split
    · exact Res.sat_ok (.refl s)
    · split
      · split
        · exact Res.sat_ok (.refl s)
        · exact Res.core_kept (Res.core_after (putChannel_core ..) (loadParams_core ..))
      · split
        · exact Res.sat_ok (.refl s)
        · exact go

/-- The DMA moves between two accesses leave the CPU alone and keep memory in canonical form. -/
theorem dmaMoves_kept (l : List (BitVec 4)) (s : State) : Res.Sat Kept s (dmaMoves l s) := by
  induction l generalizing s with
  | nil => exact Res.sat_ok (.refl s)
  | cons c rest ih => exact Res.kept_andThen (dmaMove_kept ..) fun _ t => ih t
theorem finishBursts_kept (n : Nat) (l : List Slave) (s : State) : Res.Sat Kept s (finishBursts n l s) := by
  induction n generalizing s with
  | zero => exact Res.sat_ok (.refl s)
  | succ n ih =>
    unfold finishBursts
    split
    · exact Res.kept_andThen (dmaMove_kept ..) fun _ t => ih t
    · exact Res.sat_ok (.refl s)
theorem runBetween_kept (pa : Word) (s : State) : Res.Sat Kept s (runBetween pa s) := by
  unfold runBetween
  split
  · exact Res.sat_ok (.refl s)
  · exact Res.kept_andThen (Res.kept_after (t := { s with between := [] }) ⟨.of rfl, id⟩ (dmaMoves_kept ..)) fun _ t =>
      finishBursts_kept ..
/-- Without moves in between nothing happens there. -/
theorem runBetween_none {s : State} (pa : Word) (h : s.between = []) : runBetween pa s = .done s := by
  unfold runBetween
  rw [if_pos h]

theorem dmaStore_core (c : Fin 16) (r : DmaReg) (v : Word) (s : State) : Res.Sat SameCore s (dmaStore c r v s) := by
  unfold dmaStore
  dsimp only
  split
  · exact Res.sat_ok (storeChannel_core ..)
  · exact Res.sat_ok (storeChannel_core ..)
  · split
    · split
      · exact Res.sat_fault
      · exact Res.sat_ok (storeChannel_core ..)
    · exact Res.sat_ok (storeChannel_core ..)
  · exact Res.sat_ok (storeChannel_core ..)
  · exact Res.sat_ok (storeChannel_core ..)
  · exact Res.sat_ok (storeChannel_core ..)
  · exact Res.sat_ok (storeChannel_core ..)

/-! ## The DSP -/

theorem mapSec_core (s : State) (k : Bool) (f : DspSection → DspSection) : SameCore s (s.mapSec k f) := ⟨.of rfl, rfl, rfl⟩

theorem dspRegRead_core (off : Nat) (s : State) : Res.Sat SameCore s (dspRegRead off s) := by
  unfold dspRegRead
  split
  · exact anyWord_core s
  · split
    · exact Res.sat_ok (.refl s)
    · exact Res.sat_ok (.refl s)
    · split
      · exact Res.sat_ok (drawn_core s)
      · exact Res.sat_fault
    · exact Res.sat_ok (.refl s)
    · exact Res.sat_ok (fifoPop_core ..)
    · exact Res.sat_ok (.refl s)
    · exact Res.sat_ok (.refl s)
    · exact anyWord_core s

theorem dspRegWrite_core (off : Nat) (v : Word) (s : State) : SameCore s (dspRegWrite off v s) := by
  unfold dspRegWrite
  repeat' split
  all_goals first
    | exact .refl s
    | exact writeEccCsr_core ..
    | exact fifoStore_core ..
    | exact ⟨.of rfl, rfl, rfl⟩

theorem putDsp_core (s : State) (d : Dsp) : SameCore s { s with dsp := d } := ⟨.of rfl, rfl, rfl⟩

theorem eachSection_kept {f : Bool → State → Res Unit} (d : Dsp) (s : State) (h : ∀ k t, Res.Sat Kept t (f k t)) :
    Res.Sat Kept s (eachSection d f s) := by
  refine Res.kept_andThen (h ..) fun _ t => ?_
  split
  · exact h ..
  · exact Res.sat_ok (.refl t)

theorem computeIn_core (i : DspInstr) (k : Bool) (s : State) : Res.Sat SameCore s (computeIn i k s) := by
  unfold computeIn
  split
  · exact Res.sat_ok ⟨.of rfl, rfl, rfl⟩
  · exact Res.sat_fault

theorem cellRead_core (p : Half) (s : State) : Res.Sat SameCore s (cellRead p s) := by
  unfold cellRead
  refine Res.core_andThen (protRead_core ..) fun _ t => ?_
  split
  · exact anyWord_core t
  · exact Res.sat_ok (.refl t)

theorem cellWrite_kept (p : Half) (v : Word) (s : State) : Res.Sat Kept s (cellWrite p v s) := by
  unfold cellWrite
  split
  · exact Res.kept_after (drawn_core _).kept (protWrite_kept ..)
  · exact protWrite_kept ..

theorem loadCell_core (k : Bool) (p : Half) (dst : BitVec 5) (s : State) : Res.Sat SameCore s (loadCell k p dst s) :=
  Res.core_andThen (cellRead_core ..) fun _ _ => Res.sat_ok ⟨.of rfl, rfl, rfl⟩

theorem storeCell_kept (k : Bool) (p : Half) (v : Word) (s : State) : Res.Sat Kept s (storeCell k p v s) :=
  Res.kept_andThen (cellWrite_kept ..) fun _ _ => Res.sat_ok ⟨.of rfl, id⟩

theorem aguTransfer_kept (d : Dsp) (load : Bool) (r : BitVec 5) (n mode : BitVec 3) (dspl : Half) (noMove : Bool) (s : State) :
    Res.Sat Kept s (aguTransfer d load r n mode dspl noMove s) := by
  unfold aguTransfer
  dsimp only
  split
  · exact Res.sat_fault
  · next ea a _ =>
    have h0 : Kept s { s with dsp := { s.dsp with a := s.dsp.a.set n.toFin a } } := ⟨.of rfl, id⟩
    split
    · exact Res.sat_ok h0
    · split
      · exact Res.sat_ok h0
      · refine Res.kept_after h0 (eachSection_kept _ _ fun k t => ?_)
        split
        · exact Res.core_kept (loadCell_core ..)
        · exact storeCell_kept ..

theorem aguYRead_kept (d : Dsp) (clash : Bool) (dst : BitVec 5) (code : BitVec 2) (k : Bool) (s : State) :
    Res.Sat Kept s (aguYRead d clash dst code k s) := by
  unfold aguYRead
  dsimp only
  split
  · exact Res.sat_fault
  · split
    · exact Res.sat_ok (mapSec_core ..).kept
    · split
      · exact Res.sat_ok ⟨.of rfl, id⟩
      · exact Res.kept_after (mapSec_core ..).kept (Res.core_kept (loadCell_core ..))

theorem dspDmar_core (s : State) (v : Half) : SameCore s (s.dspDmar v) := by
  have start : ∀ (n : Nat) (c : Fin 16) (t : State),
      SameCore t (if isSet v (8 + n) && isSet t.sys.clkEn 12 then t.putChannel c ((t.channel c).putCsrBit 0 true) else t) := by
    intro n c t
    split
    · exact putChannel_core ..
    · exact .refl t
  unfold State.dspDmar
  dsimp only
  have h0 : SameCore s { s with dsp := { s.dsp with dmar := v &&& 0x0F0F } } := ⟨.of rfl, rfl, rfl⟩
  exact (((h0.trans (start 0 12 _)).trans (start 1 13 _)).trans (start 2 14 _)).trans (start 3 15 _)

theorem putCtl_core (s : State) (c : DspCtl) (k : Bool) (v : Word) : SameCore s (s.putCtl c k v) := by
  unfold State.putCtl
  dsimp only
  split
  · exact mapSec_core ..
  · exact dspDmar_core ..
  · exact ⟨.of rfl, rfl, rfl⟩
  · exact ⟨.of rfl, rfl, rfl⟩
  · exact .refl s
  · split
    · exact .refl s
    · exact ⟨.of rfl, rfl, rfl⟩
  · split
    · exact ⟨.of rfl, rfl, rfl⟩
    · exact .refl s

theorem gdbIn_core (d : Dsp) (g : DspGdb) (k : Bool) (s : State) : Res.Sat SameCore s (gdbIn d g k s) := by
  have put : ∀ (c : DspCtl) (v : Word), SameCore s (if k && !c.perSection then s else s.putCtl c k v) := by
    intro c v
    split
    · exact .refl s
    · exact putCtl_core ..
  unfold gdbIn
  dsimp only
  split
  · exact Res.sat_ok (put ..)
  · exact Res.sat_ok (put ..)
  · split
    · exact Res.sat_ok (mapSec_core ..)
    · exact Res.sat_fault
  · exact Res.sat_ok (mapSec_core ..)

theorem gdbMove_kept (d : Dsp) (g : DspGdb) (s : State) : Res.Sat Kept s (gdbMove d g s) := by
  refine Res.kept_andThen (eachSection_kept _ _ fun k t => Res.core_kept (gdbIn_core ..)) fun _ t => Res.sat_ok ?_
  split
  · exact ⟨.of rfl, id⟩
  · exact ⟨.of rfl, id⟩
  · exact .refl t

theorem firstMove_kept (d : Dsp) (m : Option DspMove1) (s : State) : Res.Sat Kept s (firstMove d m s) := by
  unfold firstMove
  split
  · exact Res.sat_ok (.refl s)
  · exact aguTransfer_kept ..
  · exact aguTransfer_kept ..
  · exact gdbMove_kept ..

theorem secondMove_kept (d : Dsp) (i : DspInstr) (s : State) : Res.Sat Kept s (secondMove d i s) := by
  unfold secondMove
  split
  · exact Res.sat_ok (.refl s)
  · exact eachSection_kept _ _ fun k t => aguYRead_kept ..
  · exact gdbMove_kept ..

theorem pramFetch_core (p : Half) (s : State) : Res.Sat SameCore s (pramFetch p s) := by
  unfold pramFetch
  split
  · exact Res.sat_ok (.refl s)
  · exact Res.core_andThen (protRead_core ..) fun _ t => Res.sat_ok (.refl t)

theorem dspExecute_kept (i : DspInstr) (inc : Half) (s : State) : Res.Sat Kept s (dspExecute i inc s) := by
  unfold dspExecute
  refine Res.kept_andThen (eachSection_kept _ _ fun k t => Res.core_kept (computeIn_core ..)) fun _ _ =>
    Res.kept_andThen (firstMove_kept ..) fun _ _ => Res.kept_andThen (secondMove_kept ..) fun _ t => ?_
  split
  · exact Res.sat_ok (.refl t)
  · exact Res.sat_ok ⟨.of rfl, id⟩

theorem putT_core (s : State) (t : Bool) : SameCore s (s.putT t) := by
  unfold State.putT
  dsimp only
  split
  · exact (mapSec_core ..).trans (mapSec_core ..)
  · exact mapSec_core ..

/-- A DSP instruction leaves the CPU alone and keeps memory in canonical form. -/
theorem dspStep_kept (i : DspInstr) (s : State) : Res.Sat Kept s (dspStep i s) := by
  unfold dspStep
  dsimp only
  split
  · exact Res.sat_ok (.refl s)
  · split
    · exact Res.sat_fault
    · split
      · exact Res.sat_ok ⟨.of rfl, id⟩
      · split
        · exact Res.sat_fault
        · refine Res.kept_andThen (Res.core_kept (pramFetch_core ..)) fun _ t => Res.kept_andThen ?_ fun _ t => Res.kept_andThen ?_ fun _ t => ?_
          · split
            · exact Res.core_kept (pramFetch_core ..)
            · exact Res.sat_ok (.refl t)
          · split
            · exact dspExecute_kept ..
            · exact Res.sat_ok (.refl t)
          · split
            · exact Res.sat_ok ⟨.of rfl, id⟩
            · exact Res.sat_ok ((putT_core ..).trans (putDsp_core ..)).kept

/-- So do its beginning and its end. -/
theorem dspBegin_core (i : DspInstr) (s : State) : SameCore s (dspBegin i s) := by
  unfold dspBegin
  dsimp only
  split
  · exact .refl s
  · exact putDsp_core ..
theorem dspEnd_kept (s : State) : Res.Sat Kept s (dspEnd s) := by
  unfold dspEnd
  split
  · exact Res.sat_ok (.refl s)
  · exact Res.kept_andThen (dspStep_kept ..) fun _ t => Res.sat_ok (putDsp_core ..).kept

/-! ## Device registers and the bus of the CPU -/

theorem putWdt_core (s : State) (t : WdTimer) : SameCore s (s.putWdt t) := ⟨.of rfl, rfl, rfl⟩

theorem timerWrite_core (s : State) (off : Nat) (v : Word) : SameCore s (s.timerWrite off v) := by
  unfold State.timerWrite
  split
  · exact ⟨.of rfl, rfl, rfl⟩
  · split <;> exact ⟨.of rfl, rfl, rfl⟩

theorem mportWrite_core (s : State) (off : Nat) (v : Word) : SameCore s (s.mportWrite off v) := by
  unfold State.mportWrite
  dsimp only
  split <;> first
    | exact writeEccCsr_core ..
    | exact fifoStore_core ..
    | exact ⟨.of rfl, rfl, rfl⟩

theorem storeCsr_core (s : State) (v : Word) : SameCore s (s.storeCsr v) := by
  unfold State.storeCsr
  dsimp only
  split <;> exact ⟨.of rfl, rfl, rfl⟩

theorem sysWrite_core (s : State) (off : Nat) (v : Word) : SameCore s (s.sysWrite off v) := by
  unfold State.sysWrite
  dsimp only
  split <;> first
    | exact storeCsr_core ..
    | exact writeEccCsr_core ..
    | exact ⟨.of rfl, rfl, rfl⟩

theorem sysReadEffect_core (s : State) (off : Nat) : SameCore s (s.sysReadEffect off) := by
  unfold State.sysReadEffect
  split <;> first
    | exact fifoPop_core ..
    | exact .refl s

theorem devEffect_core (s : State) (off : Nat) : SameCore s (s.devEffect off) := by
  unfold State.devEffect
  split
  · exact .refl s
  · split
    · exact putChannel_core ..
    · split
      · split
        · exact fifoPop_core ..
        · exact .refl s
      · exact ⟨.of rfl, rfl, rfl⟩
      · exact sysReadEffect_core ..
      · exact putMfbsp_core ..
      · exact .refl s

theorem devRead_core (off : Nat) (s : State) : Res.Sat SameCore s (devRead off s) := by
  unfold devRead
  split
  · exact Res.sat_fault
  · exact Res.sat_ok ((devEffect_core s off).trans (drawn_core _))

theorem devWrite_core (off : Nat) (v : Word) (s : State) : Res.Sat SameCore s (devWrite off v s) := by
  unfold devWrite
  split
  · exact Res.sat_fault
  · split
    · exact Res.sat_ok (.refl s)
    · split
      · exact dmaStore_core ..
      · split
        · exact Res.sat_ok (mportWrite_core ..)
        · exact Res.sat_ok ⟨.of rfl, rfl, rfl⟩
        · exact Res.sat_ok (sysWrite_core ..)
        · exact Res.sat_ok ⟨.of rfl, rfl, rfl⟩
        · exact Res.sat_ok ⟨.of rfl, rfl, rfl⟩
        · exact Res.sat_ok (putMfbsp_core ..)
        · exact Res.sat_ok (timerWrite_core ..)

theorem cacheWindowWrite_core (s : State) (a : Nat) (v : Word) : SameCore s (s.cacheWindowWrite a v) := ⟨.of rfl, rfl, rfl⟩

/-- A load, whatever it reaches, changes no register of the CPU, no memory and no check bit, and raises nothing. -/
theorem busRead_core (pa : Word) (s : State) : Res.Sat SameCore s (busRead pa s) := by
  unfold busRead
  dsimp only
  repeat' split
  · exact anyWord_core s
  · exact protRead_core ..
  · exact devRead_core ..
  · exact dspMemRead_core ..
  · exact dspRegRead_core ..
  · exact Res.sat_ok (.refl s)
  · exact anyWord_core s
  · exact extRead_core ..

/-- A store, whatever it reaches, changes no register of the CPU, keeps memory in canonical form, and raises nothing. -/
theorem busWrite_kept (pa : Word) (q : StoreReq) (s : State) : Res.Sat Kept s (busWrite pa q s) := by
  unfold busWrite
  dsimp only
  repeat' split
  · exact protWrite_kept ..
  · exact Res.core_kept (devWrite_core ..)
  · exact Res.core_kept (Res.core_after (drawn_core s) (devWrite_core ..))
  · exact Res.sat_refuse
  · exact dspMemWrite_kept ..
  · exact Res.sat_ok (dspRegWrite_core ..).kept
  · exact Res.sat_ok (.refl s)
  · exact Res.sat_ok (cacheWindowWrite_core ..).kept
  · exact Res.sat_ok (.refl s)
  · exact extWrite_kept ..

/-! ## Which bytes a store changes -/

/-- From a state with memory in canonical form, every byte outside p reads as before. -/
def SameOutside (p : Nat → Prop) (s t : State) : Prop :=
  MemoryLegal s → MemoryLegal t ∧ ∀ a, ¬p a → Memory.read t.mem a = Memory.read s.mem a

theorem SameOutside.trans {p : Nat → Prop} {s t u : State} (h : SameOutside p s t) (k : SameOutside p t u) :
    SameOutside p s u := fun m => ⟨(k (h m).1).1, fun a ha => ((k (h m).1).2 a ha).trans ((h m).2 a ha)⟩
theorem SameCore.outside {p : Nat → Prop} {s t : State} (h : SameCore s t) : SameOutside p s t :=
  fun m => ⟨h.kept.legal m, fun a _ => by rw [h.mem]⟩
theorem Res.core_outside {α : Type} {p : Nat → Prop} {s : State} {r : Res α} (h : Res.Sat SameCore s r) :
    Res.Sat (SameOutside p) s r := Res.sat_mono SameCore.outside h

/-- Lanes of a word. -/
theorem putLanes_outside (s : State) (a : Nat) (l : BitVec 4) (v : Word) :
    SameOutside (fun b => a ≤ b ∧ b < a + 4) s (s.putLanes a l v) :=
  fun m => ⟨(putLanes_kept ..).legal m, fun b hb => Memory.read_writeLanes_outside m.1 a b l v (by omega)⟩
theorem storeRaw_outside (s : State) (a : Nat) (l : BitVec 4) (v : Word) :
    SameOutside (fun b => a ≤ b ∧ b < a + 4) s (s.storeRaw a l v) :=
  fun m => ⟨(storeRaw_kept ..).legal m, fun b hb => Memory.read_writeLanes_outside m.1 a b l v (by omega)⟩
/-- Check bits are no memory. -/
theorem putCheckBits_outside {p : Nat → Prop} (s : State) (a : Nat) (v : BitVec 7) : SameOutside p s (s.putCheckBits a v) :=
  fun m => ⟨(putCheckBits_kept ..).legal m, fun _ _ => rfl⟩

theorem storeCheck_outside {p : Nat → Prop} (s : State) (ram : BitVec 4) (a : Nat) (v : BitVec 7) :
    SameOutside p s (s.storeCheck ram a v) := by
  unfold State.storeCheck
  split
  · exact (SameCore.refl s).outside
  · exact putCheckBits_outside s a v

/-- A store through a Hamming controller stays in its word. -/
theorem protStore_outside (u : EccUnit) (a : Nat) (l r : BitVec 4) (v : Word) (s : State) :
    Res.Sat (SameOutside fun b => a ≤ b ∧ b < a + 4) s (protStore u a l r v s) := by
  unfold protStore
  split
  · exact Res.sat_ok (storeRaw_outside s a _ v)
  · exact Res.sat_ok ((readBack_core u a l v s).outside.trans
      (((storeRaw_outside _ a r _).trans (storeCheck_outside _ r a _)).trans (drawn_core _).outside))
  · split
    · exact Res.sat_ok (storeCheck_outside s r a _)
    · exact Res.sat_ok ((storeCheck_outside s r a _).trans (drawn_core _).outside)
  · exact Res.sat_fault
theorem protWrite_outside (u : EccUnit) (a : Nat) (l : BitVec 4) (v : Word) (s : State) :
    Res.Sat (SameOutside fun b => a ≤ b ∧ b < a + 4) s (protWrite u a l v s) := protStore_outside ..

/-- A byte stored over the 8-bit path stays in its word. -/
theorem byteWrite_outside (a : Nat) (l : BitVec 4) (b : Byte) (s : State) :
    Res.Sat (SameOutside fun b => a ≤ b ∧ b < a + 4) s (byteWrite a l b s) := by
  have h := storeRaw_outside s a (l &&& s.ramLanes a) (b ++ b ++ b ++ b)
  unfold byteWrite
  dsimp only
  split
  · exact Res.sat_ok h
  · exact Res.sat_ok ((h.trans (storeCheck_outside _ _ a _)).trans (drawn_core _).outside)
  · exact Res.sat_ok (storeCheck_outside s _ a _)
  · exact Res.sat_fault

/-- A store to external memory stays in its word. -/
theorem extWrite_outside (a : Nat) (q : StoreReq) (s : State) :
    Res.Sat (SameOutside fun b => a ≤ b ∧ b < a + 4) s (extWrite a q s) := by
  unfold extWrite
  dsimp only
  repeat' split
  · exact Res.sat_fault
  · exact Res.sat_fault
  · exact byteWrite_outside ..
  · exact Res.sat_andThen (P := SameOutside _) (fun h k => SameOutside.trans h k) (protStore_outside ..) fun _ t =>
      Res.sat_ok (holdStored_core t ..).outside
  · exact Res.sat_ok (setOver_core s).outside
  · exact Res.sat_ok (holdSdram_core s ..).outside

/-- The bytes a store of the CPU may change: its word, and the partner word of a broadcast (R888). -/
def storedBytes (s : State) (a b : Nat) : Prop :=
  (a ≤ b ∧ b < a + 4) ∨ (inDspData a = true ∧ isSet s.dsp.sr 12 = true ∧ a ^^^ 4 ≤ b ∧ b < (a ^^^ 4) + 4)

theorem SameOutside.mono {p q : Nat → Prop} (hpq : ∀ a, p a → q a) {s t : State} (h : SameOutside p s t) :
    SameOutside q s t := fun m => ⟨(h m).1, fun a ha => (h m).2 a fun hp => ha (hpq a hp)⟩

theorem dspCellWrite_outside (a : Nat) (v : Word) (s : State) :
    Res.Sat (SameOutside fun b => a ≤ b ∧ b < a + 4) s (dspCellWrite a v s) := by
  unfold dspCellWrite
  have after : ∀ {t : State} {r : Res Unit}, SameCore s t → Res.Sat (SameOutside fun b => a ≤ b ∧ b < a + 4) t r →
      Res.Sat (SameOutside fun b => a ≤ b ∧ b < a + 4) s r :=
    fun h k => ⟨fun _ u e => h.outside.trans (k.1 _ u e), k.2⟩
  split
  · exact after ((noteExtWrite_core s a).trans (drawn_core _)) (protWrite_outside ..)
  · exact after (noteExtWrite_core s a) (protWrite_outside ..)

theorem dspMemWrite_outside (a : Nat) (v : Word) (s : State) :
    Res.Sat (SameOutside (storedBytes s a)) s (dspMemWrite a v s) := by
  have first : ∀ (w : Word) (t : State), Res.Sat (SameOutside (storedBytes s a)) t (dspCellWrite a w t) :=
    fun w t => Res.sat_mono (SameOutside.mono fun b hb => .inl hb) (dspCellWrite_outside ..)
  unfold dspMemWrite
  split
  · next h =>
    simp only [Bool.and_eq_true] at h
    exact Res.sat_andThen (P := SameOutside _) (fun h k => SameOutside.trans h k) (first _ _) fun _ t =>
      Res.sat_mono (SameOutside.mono fun b hb => .inr ⟨h.1, h.2, hb⟩) (dspCellWrite_outside ..)
  · exact first _ _

/-- A store of the CPU changes no byte outside its word, but the partner word of a broadcast (R401, R888). -/
theorem busWrite_outside (pa : Word) (q : StoreReq) (s : State) :
    Res.Sat (SameOutside (storedBytes s (wordAddr pa))) s (busWrite pa q s) := by
  unfold busWrite
  dsimp only
  repeat' split
  · exact Res.sat_mono (SameOutside.mono fun b hb => .inl hb) (protWrite_outside ..)
  · exact Res.core_outside (devWrite_core ..)
  · exact Res.core_outside (Res.core_after (drawn_core s) (devWrite_core ..))
  · exact Res.sat_refuse
  · exact dspMemWrite_outside ..
  · exact Res.sat_ok (dspRegWrite_core ..).outside
  · exact Res.sat_ok (SameCore.refl s).outside
  · exact Res.sat_ok (cacheWindowWrite_core ..).outside
  · exact Res.sat_ok (SameCore.refl s).outside
  · exact Res.sat_mono (SameOutside.mono fun b hb => .inl hb) (extWrite_outside ..)

end Sys2Proof.Machine
end

