-- ==== Sys2Proof/Laws/Lanes.lean ====
section
/-! SUPPORT. Lanes: the byte lanes of storesBytes_of_write: what a store of lanes leaves in the bytes of its word. -/

namespace Sys2Proof.Machine

open Sys2Proof

/-- A store to plain memory whose lanes hold the right bytes. -/
theorem storesBytes_of_write {i : Instr} {s : State} {va pa : Word} {size : Nat} {q : StoreReq} {a b : Nat} {v : Word} {k : Nat}
   (hr : Reaches s va .store size pa) (h : exec i s = finish (memWrite va size q s))
   (hq : ∀ x, Memory.read (Memory.writeLanes s.mem (wordAddr pa) q.lanes q.data) x = if a ≤ x ∧ x < b then v.extractLsb' (8 * (k + (x - a))) 8 else Memory.read s.mem x) :
   StoresBytes i s a b v k := by
  refine ⟨_, h.trans (by rw [memWrite_plain hr]; exact finish_ok _ _), ⟨?_, ?_⟩, .of_eq ?_, MovesOn.of_same ?_ ?_, ?_⟩
  · intro x; rw [State.advance_mem]; exact hq x
  · rw [State.advance_checkBits]
  · rw [State.advance_gpr]
  · rfl
  · rfl
  · unfold OnlyMemory; rw [State.advance_mem]; exact State.advance_eq _

/-- A store of lanes L of D in the word at w is a store of the bytes of v from a to b. -/
theorem Memory.read_lanes (m : List Cell) (hm : Memory.wf m) (w : Nat) (L : BitVec 4) (D v : Word) (a b k : Nat)
   (h : ∀ j, j < 4 → (isSet L j = true ↔ a ≤ w + j ∧ w + j < b) ∧ (isSet L j = true → byteOf D j = v.extractLsb' (8 * (k + (w + j - a))) 8))
   (hw : w ≤ a ∧ b ≤ w + 4) :
   ∀ x, Memory.read (Memory.writeLanes m w L D) x = if a ≤ x ∧ x < b then v.extractLsb' (8 * (k + (x - a))) 8 else Memory.read m x := by
  intro x
  rw [Memory.read_writeLanes hm]
  have h0 := h 0 (by omega); have h1 := h 1 (by omega); have h2 := h 2 (by omega); have h3 := h 3 (by omega)
  simp only [Nat.add_zero] at h0
  by_cases e0 : x = w
  · subst e0
    by_cases hs : isSet L 0 = true
    · rw [if_pos ⟨hs, rfl⟩, if_pos (h0.1.1 hs), h0.2 hs]
    · rw [if_neg (by simp [hs]), if_neg (by omega), if_neg (by omega), if_neg (by omega), if_neg (by simpa [hs] using h0.1)]
  by_cases e1 : x = w + 1
  · subst e1
    by_cases hs : isSet L 1 = true
    · rw [if_neg (by omega), if_pos ⟨hs, rfl⟩, if_pos (h1.1.1 hs), h1.2 hs]
    · rw [if_neg (by omega), if_neg (by simp [hs]), if_neg (by omega), if_neg (by omega), if_neg (by simpa [hs] using h1.1)]
  by_cases e2 : x = w + 2
  · subst e2
    by_cases hs : isSet L 2 = true
    · rw [if_neg (by omega), if_neg (by omega), if_pos ⟨hs, rfl⟩, if_pos (h2.1.1 hs), h2.2 hs]
    · rw [if_neg (by omega), if_neg (by omega), if_neg (by simp [hs]), if_neg (by omega), if_neg (by simpa [hs] using h2.1)]
  by_cases e3 : x = w + 3
  · subst e3
    by_cases hs : isSet L 3 = true
    · rw [if_neg (by omega), if_neg (by omega), if_neg (by omega), if_pos ⟨hs, rfl⟩, if_pos (h3.1.1 hs), h3.2 hs]
    · rw [if_neg (by omega), if_neg (by omega), if_neg (by omega), if_neg (by simp [hs]), if_neg (by simpa [hs] using h3.1)]
  · rw [if_neg (by omega), if_neg (by omega), if_neg (by omega), if_neg (by omega), if_neg (by omega)]

/-- The lane of a byte. -/
theorem lane_byte (n j : Nat) (hn : n < 4) (hj : j < 4) : isSet (1#4 <<< n) j = decide (j = n) := by
  have : ∀ n, n < 4 → ∀ j, j < 4 → isSet (1#4 <<< n) j = decide (j = n) := by decide
  exact this n hn j hj
/-- The lanes up to a byte (R665). -/
theorem lane_left (n j : Nat) (hn : n < 4) (hj : j < 4) : isSet (0xF#4 >>> (3-n)) j = decide (j ≤ n) := by
  have : ∀ n, n < 4 → ∀ j, j < 4 → isSet (0xF#4 >>> (3-n)) j = decide (j ≤ n) := by decide
  exact this n hn j hj
/-- The lanes from a byte on (R666). -/
theorem lane_right (n j : Nat) (hn : n < 4) (hj : j < 4) : isSet (0xF#4 <<< n) j = decide (n ≤ j) := by
  have : ∀ n, n < 4 → ∀ j, j < 4 → isSet (0xF#4 <<< n) j = decide (n ≤ j) := by decide
  exact this n hn j hj
/-- The lanes of a halfword. -/
theorem lane_half (n j : Nat) (hn : n = 0 ∨ n = 2) (hj : j < 4) : isSet (3#4 <<< n) j = decide (n ≤ j ∧ j < n + 2) := by
  have : ∀ n, n < 3 → (n = 0 ∨ n = 2) → ∀ j, j < 4 → isSet (3#4 <<< n) j = decide (n ≤ j ∧ j < n + 2) := by decide
  exact this n (by omega) hn j hj
/-- A byte of a word shifted up by whole bytes. -/
theorem byteOf_shiftLeft (v : Word) (n j : Nat) (hn : n ≤ j) (hj : j < 4) : byteOf (v <<< (8 * n)) j = v.extractLsb' (8 * (j - n)) 8 := by
  unfold byteOf
  apply BitVec.eq_of_getLsbD_eq
  intro i hi
  simp only [BitVec.getLsbD_extractLsb', BitVec.getLsbD_shiftLeft]
  have h1 : 8 * j + i < 32 := by omega
  have h2 : ¬ 8 * j + i < 8 * n := by omega
  simp only [h1, h2, decide_true, decide_false, Bool.not_false, Bool.true_and, hi]
  congr 1; omega
/-- A byte of a word shifted down by whole bytes. -/
theorem byteOf_shiftRight (v : Word) (n j : Nat)  : byteOf (v >>> (8 * n)) j = v.extractLsb' (8 * (j + n)) 8 := by
  unfold byteOf
  apply BitVec.eq_of_getLsbD_eq
  intro i hi
  simp only [BitVec.getLsbD_extractLsb', BitVec.getLsbD_ushiftRight]
  congr 2; omega

end Sys2Proof.Machine
end

