-- ==== Sys2Proof/Laws/Legal.lean ====
section
/-! SUPPORT. Legal: what the shared operations of the CPU do to the well-formed states: memory in canonical form and reserved
register bits zero. -/

namespace Sys2Proof.Machine

open Sys2Proof

/-! ## The relation -/

/-- t is well formed if s is. -/
def KeepsLegal (s t : State) : Prop := (MemoryLegal s → MemoryLegal t) ∧ (RegistersLegal s → RegistersLegal t)

theorem KeepsLegal.refl (s : State) : KeepsLegal s s := ⟨id, id⟩
theorem KeepsLegal.trans {s t u : State} (h : KeepsLegal s t) (k : KeepsLegal t u) : KeepsLegal s u :=
  ⟨fun m => k.1 (h.1 m), fun m => k.2 (h.2 m)⟩

/-- CP0, FCSR and memory as before. -/
theorem KeepsLegal.same {s t : State} (h : (t.cp0, t.fcsr, t.mem, t.checkBits) = (s.cp0, s.fcsr, s.mem, s.checkBits)) :
    KeepsLegal s t := by
  simp only [Prod.mk.injEq] at h
  obtain ⟨h1, h2, h3, h4⟩ := h
  exact ⟨fun m => by rw [MemoryLegal, h3, h4]; exact m, fun m => by rw [RegistersLegal, h1, h2]; exact m⟩

theorem Kept.legalStep {s t : State} (h : Kept s t) : KeepsLegal s t :=
  ⟨h.legal, fun m => by rw [RegistersLegal, h.cpu.cp0, h.cpu.fcsr]; exact m⟩

/-- A result keeps the state well formed, whether it succeeds or raises an exception. -/
def Res.Legal {α : Type} (s : State) (r : Res α) : Prop :=
  (∀ a t, r = .ok a t → KeepsLegal s t) ∧ ∀ e t, r = .exc e t → KeepsLegal s t

/-- An outcome keeps the state well formed. -/
def OutcomeLegal (s : State) (o : Outcome State Fault Refusal) : Prop := ∀ t, o = .next t → KeepsLegal s t

theorem Res.legal_ok {α : Type} {s t : State} {a : α} (h : KeepsLegal s t) : Res.Legal s (.ok a t : Res α) :=
  ⟨fun _ _ e => by simp at e; exact e.2 ▸ h, fun _ _ e => by simp at e⟩
theorem Res.legal_exc {α : Type} {s t : State} {e : Exc} (h : KeepsLegal s t) : Res.Legal s (.exc e t : Res α) :=
  ⟨fun _ _ e => by simp at e, fun _ _ e => by simp at e; exact e.2 ▸ h⟩
theorem Res.legal_fault {α : Type} {s : State} {f : Fault} : Res.Legal s (.fault f : Res α) :=
  ⟨fun _ _ e => by simp at e, fun _ _ e => by simp at e⟩
theorem Res.legal_refuse {α : Type} {s : State} {f : Refusal} : Res.Legal s (.refuse f : Res α) :=
  ⟨fun _ _ e => by simp at e, fun _ _ e => by simp at e⟩
theorem Res.legal_andThen {α β : Type} {s : State} {r : Res α} {k : α → State → Res β} (h : Res.Legal s r)
    (hk : ∀ a t, Res.Legal t (k a t)) : Res.Legal s (r.andThen k) := by
  cases r with
  | ok a t =>
    have h1 := h.1 a t rfl
    exact ⟨fun b u e => h1.trans ((hk a t).1 b u e), fun e u he => h1.trans ((hk a t).2 e u he)⟩
  | exc e t => exact Res.legal_exc (h.2 e t rfl)
  | fault f => exact Res.legal_fault
  | refuse f => exact Res.legal_refuse
theorem Res.Sat.legal {α : Type} {s : State} {r : Res α} (h : Res.Sat Kept s r) : Res.Legal s r :=
  ⟨fun a t e => (h.1 a t e).legalStep, fun e t he => absurd he (h.2 e t)⟩
theorem Res.legal_after {α : Type} {s t : State} {r : Res α} (h : KeepsLegal s t) (hr : Res.Legal t r) :
    Res.Legal s r := ⟨fun a u e => h.trans (hr.1 a u e), fun e u he => h.trans (hr.2 e u he)⟩

/-! ## Bits of the registers -/

/-- Setting a bit outside a mask leaves the bits of the mask. -/
theorem putBit_and {x m : Word} {i : Nat} (h : m &&& BitVec.twoPow 32 i = 0) (b : Bool) : putBit x i b &&& m = x &&& m := by
  unfold putBit
  cases b
  · have e : ~~~(BitVec.twoPow 32 i) &&& m = m := by
      ext j hj
      have := congrArg (fun y => y.getLsbD j) h
      simp only [BitVec.getLsbD_and] at this
      simp only [← BitVec.getLsbD_eq_getElem, BitVec.getLsbD_and, BitVec.getLsbD_not, hj, decide_true, Bool.true_and]
      cases h1 : m.getLsbD j <;> simp_all
    simp only [Bool.false_eq_true, if_false]
    rw [BitVec.and_assoc, e]
  · simp only [if_true]
    rw [BitVec.and_or_distrib_right, BitVec.and_comm (BitVec.twoPow 32 i) m, h]
    simp

/-- A field put outside a mask leaves the bits of the mask. -/
theorem putField_and {x m : Word} {lo len : Nat} {v : BitVec len}
    (h : m &&& ((BitVec.allOnes len).setWidth 32 <<< lo) = 0) : putField x lo v &&& m = x &&& m := by
  unfold putField
  ext j hj
  have := congrArg (fun y => y.getLsbD j) h
  simp only [BitVec.getLsbD_and, BitVec.getLsbD_shiftLeft, BitVec.getLsbD_setWidth,
    BitVec.getLsbD_allOnes, hj, decide_true, Bool.true_and] at this
  simp only [← BitVec.getLsbD_eq_getElem, BitVec.getLsbD_and, BitVec.getLsbD_or, BitVec.getLsbD_not,
    BitVec.getLsbD_shiftLeft, BitVec.getLsbD_setWidth, BitVec.getLsbD_allOnes, hj, decide_true, Bool.true_and]
  cases h1 : m.getLsbD j
  · simp
  · rw [h1] at this
    simp only [Bool.and_true, Bool.true_and] at this ⊢
    by_cases hl : j < lo
    · simp [hl]
    · have h3 : len ≤ j - lo := by
        by_contra h4
        have : j - lo < 32 := by omega
        simp_all
      rw [BitVec.getLsbD_of_ge v _ h3]
      simp [hl, show ¬j - lo < len by omega]

/-- A value cut to a mask has no bit outside it. -/
theorem and_mask (x m : Word) : (x &&& m) &&& ~~~m = 0 := by
  rw [BitVec.and_assoc, BitVec.and_not_self]
  simp

/-! ## Exceptions and the return -/

theorem State.advance_legal (s : State) : KeepsLegal s s.advance :=
  .same (by simp)

theorem State.sequence_legal (s : State) (d : Decision) : KeepsLegal s (s.sequence d) := by
  unfold State.sequence
  split
  · exact .same rfl
  · exact .same rfl
  · split <;> exact .same rfl

theorem State.noteReturn_legal (s : State) : KeepsLegal s s.noteReturn := by
  unfold State.noteReturn
  split
  · exact .refl s
  · refine ⟨id, fun ⟨h1, h2, h3, h4, h5, h6, h7, h8, h9, h10⟩ => ⟨h1, h2, h3, h4, h5, h6, h7, ?_, h9, h10⟩⟩
    exact (putBit_and (by decide) _).trans h8

theorem State.noteTlb_legal (s : State) (va : Word) : KeepsLegal s (s.noteTlb va) :=
  ⟨id, fun ⟨h1, _, _, h4, h5, h6, h7, h8, h9, h10⟩ =>
    ⟨h1, and_mask .., and_mask .., (putField_and (by decide)).trans h4, h5, (putField_and (by decide)).trans h6, h7, h8, h9,
      h10⟩⟩

theorem State.noteAddress_legal (s : State) (va : Word) : KeepsLegal s (s.noteAddress va) :=
  ⟨id, fun ⟨h1, _, _, h4, h5, h6, h7, h8, h9, h10⟩ =>
    ⟨h1, and_mask .., and_mask .., (putField_and (by decide)).trans h4, h5, (putField_and (by decide)).trans h6, h7, h8, h9,
      h10⟩⟩

theorem State.noteExc_legal (s : State) (e : Exc) : KeepsLegal s (s.noteExc e) := by
  unfold State.noteExc
  split
  · exact State.noteTlb_legal ..
  · exact State.noteTlb_legal ..
  · exact State.noteTlb_legal ..
  · exact State.noteAddress_legal ..
  · exact .refl s

/-- Taking an exception keeps the state well formed. -/
theorem takeException_legal (e : Exc) (s : State) : KeepsLegal s (takeException e s) := by
  refine (State.noteReturn_legal s).trans ((State.noteExc_legal _ e).trans ?_)
  unfold takeException
  dsimp only
  generalize s.noteReturn.noteExc e = t
  exact ⟨id, fun ⟨h1, h2, h3, h4, h5, h6, h7, h8, h9, h10⟩ =>
    ⟨h1, h2, h3, h4, h5, h6, (putBit_and (by decide) _).trans h7, (putField_and (by decide)).trans h8, h9, h10⟩⟩

/-- Taking an NMI keeps the state well formed. -/
theorem takeNmi_legal (s : State) : KeepsLegal s (takeNmi s) :=
  ⟨id, fun ⟨h1, h2, h3, h4, h5, h6, h7, h8, h9, h10⟩ => ⟨h1, h2, h3, h4, h5, h6, by
    show nmiStatus s.cp0.status &&& _ = 0
    unfold nmiStatus
    rw [putBit_and (by decide), putBit_and (by decide), putBit_and (by decide), putBit_and (by decide)]
    exact h7, h8, h9, h10⟩⟩

/-- ERET keeps the state well formed. -/
theorem returnFromException_legal (s : State) : KeepsLegal s (returnFromException s) := by
  unfold returnFromException
  split <;> exact ⟨id, fun ⟨h1, h2, h3, h4, h5, h6, h7, h8, h9, h10⟩ =>
    ⟨h1, h2, h3, h4, h5, h6, (putBit_and (by decide) _).trans h7, h8, h9, h10⟩⟩

/-! ## Outcomes -/

theorem finish_legal {s : State} {r : Res Unit} (h : Res.Legal s r) : OutcomeLegal s (finish r) := by
  intro t ht
  rcases finish_next ht with ⟨u, hu, rfl⟩ | ⟨e, u, hu, rfl⟩
  · exact (h.1 _ _ hu).trans (State.advance_legal u)
  · exact (h.2 _ _ hu).trans (takeException_legal e u)

theorem finishControl_legal {s : State} {r : Res Decision} (h : Res.Legal s r) : OutcomeLegal s (finishControl r) := by
  intro t ht
  unfold finishControl at ht
  split at ht
  · split at ht
    · simp only [Host.Outcome.next.injEq] at ht
      exact ht ▸ (h.1 _ _ rfl).trans (State.sequence_legal ..)
    · simp at ht
  · simp only [Host.Outcome.next.injEq] at ht
    exact ht ▸ (h.2 _ _ rfl).trans (takeException_legal ..)
  · simp at ht
  · simp at ht

theorem needCp0_legal {α : Type} {s : State} {r : Res α} (h : Res.Legal s r) : Res.Legal s (needCp0 s r) := by
  unfold needCp0; split
  · exact h
  · exact Res.legal_exc (.refl s)
theorem needFpu_legal {α : Type} {s : State} {r : Res α} (h : Res.Legal s r) : Res.Legal s (needFpu s r) := by
  unfold needFpu; split
  · exact h
  · exact Res.legal_exc (.refl s)
theorem evenOnly_legal {α : Type} {s : State} {r : Res α} (l : List (BitVec 5)) (h : Res.Legal s r) :
    Res.Legal s (evenOnly l r) := by
  unfold evenOnly; split
  · exact Res.legal_refuse
  · exact h
theorem fpuOp_legal {s : State} {r : Res Unit} (l : List FprNum) (h : Res.Legal s r) : OutcomeLegal s (fpuOp l r s) :=
  finish_legal (needFpu_legal (evenOnly_legal l h))

/-! ## Registers -/

theorem putGpr_legal (s : State) (n : BitVec 5) (v : Word) : KeepsLegal s (s.putGpr n v) := by
  unfold State.putGpr; split
  · exact .refl s
  · exact .same rfl
theorem putFgr_legal (s : State) (n : BitVec 5) (v : Word) : KeepsLegal s (s.putFgr n v) := .same rfl
theorem putFpr_legal (s : State) (n : BitVec 5) (v : Dword) : KeepsLegal s (s.putFpr n v) := .same rfl
theorem setReg_legal (s u : State) (n : BitVec 5) (v : Word) (h : KeepsLegal s u) : OutcomeLegal s (setReg n v u) :=
  finish_legal (Res.legal_ok (h.trans (putGpr_legal ..)))
theorem setRegChecked_legal (s : State) (n : BitVec 5) (v : Option Word) : OutcomeLegal s (setRegChecked n v s) := by
  unfold setRegChecked; split
  · exact setReg_legal _ _ _ _ (.refl s)
  · exact finish_legal (Res.legal_exc (.refl s))
theorem trapIf_legal (s : State) (c : Bool) : OutcomeLegal s (trapIf c s) := by
  unfold trapIf; refine finish_legal ?_; split
  · exact Res.legal_exc (.refl s)
  · exact Res.legal_ok (.refl s)
theorem branchIf_legal (s u : State) (c l : Bool) (o : BitVec 16) (h : KeepsLegal s u) : OutcomeLegal s (branchIf c l o u) :=
  finishControl_legal (Res.legal_ok h)
theorem branchAndLink_legal (s : State) (n : GprNum) (c l : Bool) (o : BitVec 16) :
    OutcomeLegal s (branchAndLink n c l o s) := by
  unfold branchAndLink; split
  · intro t ht; simp at ht
  · exact branchIf_legal _ _ _ _ _ (putGpr_legal ..)
theorem branchFcc_legal (s : State) (cc : BitVec 3) (w l : Bool) (o : BitVec 16) : OutcomeLegal s (branchFcc cc w l o s) := by
  unfold branchFcc; split
  · exact branchIf_legal _ _ _ _ _ (.refl s)
  · exact finish_legal (Res.legal_exc (.refl s))
theorem jumpTo_legal (s u : State) (a : Word) (h : KeepsLegal s u) : OutcomeLegal s (jumpTo a u) :=
  finishControl_legal (Res.legal_ok h)
theorem freeHiLo_legal (s : State) (b : Bool) : KeepsLegal s (s.freeHiLo b) := .same rfl
theorem putHiLo_legal (s : State) (v : Dword) (b : Bool) : KeepsLegal s (s.putHiLo v b) := .same rfl
theorem moveIf_legal (s : State) (c : Bool) (rs rd : GprNum) : Res.Legal s (moveIf c rs rd s) := by
  unfold moveIf; refine Res.legal_ok ?_; split
  · exact putGpr_legal ..
  · exact .refl s
theorem copyS_legal (s : State) (c : Bool) (fs fd : FprNum) : Res.Legal s (copyS c fs fd s) := by
  unfold copyS; refine Res.legal_ok ?_; split
  · exact putFgr_legal ..
  · exact .refl s
theorem copyD_legal (s : State) (c : Bool) (fs fd : FprNum) : Res.Legal s (copyD c fs fd s) := by
  unfold copyD; refine Res.legal_ok ?_; split
  · exact putFpr_legal ..
  · exact .refl s

/-! ## Memory accesses -/

theorem translate_legal (va : Word) (k : Access) (s : State) : Res.Legal s (translate va k s) :=
  ⟨fun _ _ h => translate_ok_state h ▸ .refl s, fun _ _ h => translate_exc_state h ▸ .refl s⟩
theorem busRead_legal (pa : Word) (s : State) : Res.Legal s (busRead pa s) := (Res.core_kept (busRead_core pa s)).legal
theorem busWrite_legal (pa : Word) (q : StoreReq) (s : State) : Res.Legal s (busWrite pa q s) := (busWrite_kept pa q s).legal

theorem memRead_legal (va : Word) (n : Nat) (s : State) : Res.Legal s (memRead va n s) := by
  unfold memRead; split
  · exact Res.legal_exc (.refl s)
  · exact Res.legal_andThen (translate_legal ..) fun _ _ => busRead_legal ..
theorem memWrite_legal (va : Word) (n : Nat) (q : StoreReq) (s : State) : Res.Legal s (memWrite va n q s) := by
  unfold memWrite; split
  · exact Res.legal_exc (.refl s)
  · exact Res.legal_andThen (translate_legal ..) fun _ _ => busWrite_legal ..
theorem memRead64_legal (va : Word) (s : State) : Res.Legal s (memRead64 va s) := by
  unfold memRead64; split
  · exact Res.legal_exc (.refl s)
  · exact Res.legal_andThen (translate_legal ..) fun _ _ => Res.legal_andThen (busRead_legal ..) fun _ s =>
      Res.legal_andThen (runBetween_kept _ s).legal fun _ _ => Res.legal_andThen (busRead_legal ..) fun _ t =>
        Res.legal_ok (.refl t)
theorem memWrite64_legal (va : Word) (v : Dword) (s : State) : Res.Legal s (memWrite64 va v s) := by
  unfold memWrite64; split
  · exact Res.legal_exc (.refl s)
  · exact Res.legal_andThen (translate_legal ..) fun _ _ => Res.legal_andThen (busWrite_legal ..) fun _ s =>
      Res.legal_andThen (runBetween_kept _ s).legal fun _ _ => busWrite_legal ..
theorem loadTo_legal (rt : GprNum) (va : Word) (n : Nat) (f : Word → Word → Word) (s : State) :
    OutcomeLegal s (loadTo rt va n f s) :=
  finish_legal (Res.legal_andThen (memRead_legal ..) fun _ _ => Res.legal_ok (putGpr_legal ..))
theorem refill_legal (n : Nat) (pa : Word) (s : State) : Res.Legal s (refill n pa s) := by
  unfold refill
  refine Res.legal_andThen (busRead_legal ..) fun _ _ => Res.legal_andThen (busRead_legal ..) fun _ _ =>
    Res.legal_andThen (busRead_legal ..) fun _ _ => Res.legal_andThen (busRead_legal ..) fun _ t => ?_
  dsimp only
  split
  · exact Res.legal_ok (.same rfl)
  · exact Res.legal_ok (.same rfl)
  · exact Res.legal_ok (.same rfl)
  · exact Res.legal_fault
theorem noteCacheEcc_legal (s : State) (f : CacheFault) : KeepsLegal s (s.noteCacheEcc f) := .same rfl
theorem refillRead_legal (va pa : Word) (s : State) : Res.Legal s (refillRead va pa s) :=
  Res.legal_andThen (refill_legal ..) fun _ t => Res.legal_ok (.refl t)
theorem icacheRead_legal (va pa : Word) (s : State) : Res.Legal s (icacheRead va pa s) := by
  unfold icacheRead
  dsimp only
  split
  · exact Res.legal_fault
  · split
    · exact refillRead_legal ..
    · split
      · exact Res.legal_ok (.refl s)
      · split
        · exact Res.legal_ok (.refl s)
        · split
          · exact Res.legal_ok (.refl s)
          · split
            · exact Res.legal_after (noteCacheEcc_legal ..) (refillRead_legal ..)
            · exact Res.legal_ok (noteCacheEcc_legal ..)
/-- A fetch keeps the state well formed. -/
theorem fetch_legal (s : State) : Res.Legal s (fetch s) := by
  unfold fetch
  refine Res.legal_andThen (translate_legal ..) fun _ t => ?_
  split
  · exact Res.legal_exc (.refl t)
  · split
    · exact Res.legal_fault
    · split
      · exact busRead_legal ..
      · split
        · exact Res.legal_fault
        · exact icacheRead_legal ..

/-! ## CP0, TLB, FCSR -/

/-- Random at a use is at least Wired (R29). -/
theorem wired_le_randomAfter (c : Cp0) (n : Nat) : c.wired ≤ c.randomAfter n := by
  unfold Cp0.randomAfter
  have hw := c.wired.isLt
  have := Nat.mod_lt (15 - c.random.toNat + n) (show 0 < 16 - c.wired.toNat by omega)
  rw [BitVec.le_def, BitVec.toNat_ofNat]
  omega
theorem randomUse_legal (s : State) : KeepsLegal s s.randomUse := by
  unfold State.randomUse
  generalize hr : s.cp0.randomAfter (Config.pipelineAdvances s.freeCtr) = r
  have hw : s.cp0.wired ≤ r := hr ▸ wired_le_randomAfter ..
  exact ⟨id, fun ⟨h1, h2, h3, h4, h5, h6, h7, h8, _, h10⟩ => ⟨h1, h2, h3, h4, h5, h6, h7, h8, hw, h10⟩⟩

theorem readCp0_legal (rd : BitVec 5) (sel : BitVec 3) (s : State) : Res.Legal s (readCp0 rd sel s) := by
  unfold readCp0
  dsimp only
  split
  · split <;> first
      | exact Res.legal_ok (.refl s)
      | exact Res.legal_ok (randomUse_legal s)
  · split
    · exact Res.legal_ok (.refl s)
    · exact Res.legal_ok (.same rfl)

/-- MTC0 keeps the reserved bits zero (R718). -/
theorem writeCp0_legal (s : State) (rd : BitVec 5) (sel : BitVec 3) (v : Word) : KeepsLegal s (s.writeCp0 rd sel v) := by
  have merge : ∀ (m n old : Word), m &&& n = 0 → mergeBits m v old &&& n = (old &&& ~~~m) &&& n := by
    intro m n old h
    unfold mergeBits
    rw [BitVec.and_or_distrib_right, BitVec.and_assoc, h]
    simp
  have sub : ∀ (x m n : Word), x &&& n = 0 → (x &&& m) &&& n = 0 := by
    intro x m n h
    rw [BitVec.and_assoc, BitVec.and_comm m n, ← BitVec.and_assoc, h]
    simp
  refine ⟨id, fun ⟨h1, h2, h3, h4, h5, h6, h7, h8, h9, h10⟩ => ?_⟩
  unfold State.writeCp0 Cp0.write RegistersLegal
  split
  · split <;> dsimp only
    · exact ⟨(merge _ _ _ (by decide)).trans (sub _ _ _ h1), h2, h3, h4, h5, h6, h7, h8, h9, h10⟩
    · exact ⟨h1, and_mask .., h3, h4, h5, h6, h7, h8, h9, h10⟩
    · exact ⟨h1, h2, and_mask .., h4, h5, h6, h7, h8, h9, h10⟩
    · exact ⟨h1, h2, h3, (merge _ _ _ (by decide)).trans (sub _ _ _ h4), h5, h6, h7, h8, h9, h10⟩
    · exact ⟨h1, h2, h3, h4, and_mask .., h6, h7, h8, h9, h10⟩
    · refine ⟨h1, h2, h3, h4, h5, h6, h7, h8, ?_, h10⟩
      rw [BitVec.le_def]
      have := (fieldOf v 0 4 : BitVec 4).isLt
      show _ ≤ 15
      omega
    · exact ⟨h1, h2, h3, h4, h5, h6, h7, h8, h9, h10⟩
    · exact ⟨h1, h2, h3, h4, h5, and_mask .., h7, h8, h9, h10⟩
    · exact ⟨h1, h2, h3, h4, h5, h6, h7, h8, h9, h10⟩
    · refine ⟨h1, h2, h3, h4, h5, h6, ?_, h8, h9, h10⟩
      unfold writeStatus
      rw [BitVec.and_or_distrib_right, BitVec.and_assoc, BitVec.and_assoc, BitVec.and_assoc]
      rw [show statusMask &&& ~~~(statusMask ||| statusClearMask) = 0 by decide,
        show statusClearMask &&& ~~~(statusMask ||| statusClearMask) = 0 by decide]
      simp
    · exact ⟨h1, h2, h3, h4, h5, h6, h7, (merge _ _ _ (by decide)).trans (sub _ _ _ h8), h9, h10⟩
    · exact ⟨h1, h2, h3, h4, h5, h6, h7, h8, h9, h10⟩
    · split <;> exact ⟨h1, h2, h3, h4, h5, h6, h7, h8, h9, h10⟩
    · exact ⟨h1, h2, h3, h4, h5, h6, h7, h8, h9, h10⟩
    · exact ⟨h1, h2, h3, h4, h5, h6, h7, h8, h9, h10⟩
  · exact ⟨h1, h2, h3, h4, h5, h6, h7, h8, h9, h10⟩

theorem tlbWrite_legal (i : Fin 16) (s : State) : Res.Legal s (tlbWrite i s) := by
  unfold tlbWrite
  dsimp only
  split
  · exact Res.legal_exc ⟨id, fun ⟨h1, h2, h3, h4, h5, h6, h7, h8, h9, h10⟩ =>
      ⟨h1, h2, h3, h4, h5, h6, (putBit_and (by decide) _).trans h7, h8, h9, h10⟩⟩
  · exact Res.legal_ok (.same rfl)

/-- The bits of a word made of a page (R30). -/
theorem entryLo_legal (p : TlbPage) (g : Bool) : p.entryLo g &&& ~~~entryLoMask = 0 := by
  unfold TlbPage.entryLo zext
  generalize (p.pfn ++ p.c ++ flag p.d ++ flag p.v ++ flag g : BitVec 26) = x
  apply BitVec.eq_of_getLsbD_eq
  intro i hi
  have : ∀ i, i < 32 → (~~~entryLoMask).getLsbD i = decide (26 ≤ i) := by decide
  rw [BitVec.getLsbD_and, this i hi, BitVec.getLsbD_setWidth]
  by_cases h : 26 ≤ i
  · rw [BitVec.getLsbD_of_ge x i h]; simp
  · simp [h]

theorem tlbRead_legal (s : State) (i : Fin 16) : KeepsLegal s (s.tlbRead i) := by
  refine ⟨id, fun ⟨h1, _, _, h4, _, _, h7, h8, h9, h10⟩ =>
    ⟨h1, entryLo_legal .., entryLo_legal .., h4, ?_, ?_, h7, h8, h9, h10⟩⟩
  · show (zext s.tlb[i].mask <<< 13 : Word) &&& ~~~pageMaskMask = 0
    generalize s.tlb[i].mask = x
    unfold zext
    apply BitVec.eq_of_getLsbD_eq
    intro j hj
    have : ∀ i, i < 32 → (~~~pageMaskMask).getLsbD i = decide (i < 13 ∨ 25 ≤ i) := by decide
    rw [BitVec.getLsbD_and, this j hj, BitVec.getLsbD_shiftLeft, BitVec.getLsbD_setWidth]
    by_cases h : j < 13
    · simp [h]
    · by_cases h' : 25 ≤ j
      · rw [BitVec.getLsbD_of_ge x _ (by omega)]; simp
      · simp [h, h']
  · show (s.tlb[i].vpn2 ++ 0#5 ++ s.tlb[i].asid : Word) &&& ~~~entryHiMask = 0
    generalize s.tlb[i].vpn2 = x
    generalize s.tlb[i].asid = y
    apply BitVec.eq_of_getLsbD_eq
    intro j hj
    have : ∀ i, i < 32 → (~~~entryHiMask).getLsbD i = decide (8 ≤ i ∧ i < 13) := by decide
    rw [BitVec.getLsbD_and, this j hj]
    simp only [BitVec.getLsbD_append]
    by_cases h : 8 ≤ j ∧ j < 13
    · have h1 : ¬j < 8 := by omega
      have h2 : j - 8 < 5 := by omega
      simp [h1, h2]
    · simp [h]

theorem tlbProbe_legal (s : State) : Res.Legal s (tlbProbe s) := by
  unfold tlbProbe
  split
  · exact Res.legal_fault
  · split
    · next i _ =>
      refine Res.legal_ok ⟨id, fun ⟨_, h2, h3, h4, h5, h6, h7, h8, h9, h10⟩ => ⟨?_, h2, h3, h4, h5, h6, h7, h8, h9, h10⟩⟩
      have : ∀ i : Fin 16, (BitVec.ofNat 32 i.val : Word) &&& 0x7FFFFFF0 = 0 := by decide
      exact this i
    · refine Res.legal_ok ⟨id, fun ⟨_, h2, h3, h4, h5, h6, h7, h8, h9, h10⟩ => ⟨?_, h2, h3, h4, h5, h6, h7, h8, h9, h10⟩⟩
      show (bitAt true 31 ||| (s.freeWord &&& indexMask)) &&& 0x7FFFFFF0 = 0
      rw [BitVec.and_or_distrib_right, BitVec.and_assoc, show indexMask &&& (0x7FFFFFF0 : Word) = 0 by decide,
        show bitAt true 31 &&& (0x7FFFFFF0 : Word) = 0 by decide]
      simp

theorem dropLine_legal (s : State) (n : Nat) : KeepsLegal s (s.dropLine n) := .same rfl
theorem cacheOp_legal (op : BitVec 5) (va : Word) (s : State) : Res.Legal s (cacheOp op va s) := by
  unfold cacheOp
  split
  · exact Res.legal_ok (dropLine_legal ..)
  · split
    · refine Res.legal_andThen (translate_legal ..) fun _ t => Res.legal_ok ?_
      split
      · exact dropLine_legal ..
      · exact .refl t
    · split
      · exact Res.legal_andThen (translate_legal ..) fun _ _ => refill_legal ..
      · exact Res.legal_ok (.refl s)

/-- FCSR with other bits outside the reserved ones. -/
theorem fcsr_legal {s t : State} (h : (t.cp0, t.mem, t.checkBits) = (s.cp0, s.mem, s.checkBits))
    (hf : t.fcsr &&& ~~~fcsrMask = s.fcsr &&& ~~~fcsrMask) : KeepsLegal s t := by
  simp only [Prod.mk.injEq] at h
  obtain ⟨h1, h2, h3⟩ := h
  refine ⟨fun m => by rw [MemoryLegal, h2, h3]; exact m, fun ⟨r1, r2, r3, r4, r5, r6, r7, r8, r9, r10⟩ => ?_⟩
  rw [RegistersLegal, h1]
  exact ⟨r1, r2, r3, r4, r5, r6, r7, r8, r9, hf.trans r10⟩

theorem completeFpu_legal (c : BitVec 6) (w : State → State) (s : State)
    (hw : ∀ t, KeepsLegal s t → KeepsLegal s (w t)) : Res.Legal s (completeFpu c w s) := by
  unfold completeFpu
  split
  · exact Res.legal_exc (fcsr_legal rfl (putField_and (by decide)))
  · exact Res.legal_ok (hw _ (fcsr_legal rfl ((putField_and (by decide)).trans (putField_and (by decide)))))
theorem completeS_legal (fd : FprNum) (r : FpResult) (s : State) : Res.Legal s (completeS fd r s) :=
  completeFpu_legal _ _ _ fun _ h => h.trans (putFgr_legal ..)
theorem completeD_legal (fd : FprNum) (r : FpResult) (s : State) : Res.Legal s (completeD fd r s) :=
  completeFpu_legal _ _ _ fun _ h => h.trans (putFpr_legal ..)
theorem putFcc_legal (s : State) (cc : BitVec 3) (b : Bool) : KeepsLegal s (s.putFcc cc b) :=
  fcsr_legal rfl (putBit_and (by revert cc; decide) _)
theorem compareS_legal (c : BitVec 4) (ft fs : FprNum) (cc : BitVec 3) (s : State) :
    OutcomeLegal s (compareS c ft fs cc s) :=
  fpuOp_legal _ (completeFpu_legal _ _ _ fun _ h => h.trans (putFcc_legal ..))
theorem compareD_legal (c : BitVec 4) (ft fs : FprNum) (cc : BitVec 3) (s : State) :
    OutcomeLegal s (compareD c ft fs cc s) :=
  fpuOp_legal _ (completeFpu_legal _ _ _ fun _ h => h.trans (putFcc_legal ..))

theorem readFcr_legal (n : BitVec 5) (s : State) : Res.Legal s (readFcr n s) := by
  unfold readFcr
  split <;> exact Res.legal_ok (.same rfl)
theorem writeFcr_legal (s : State) (n : BitVec 5) (v : Word) : KeepsLegal s (s.writeFcr n v) := by
  unfold State.writeFcr
  split
  · exact fcsr_legal rfl ((putField_and (by decide)).trans (putField_and (by decide)))
  · refine fcsr_legal rfl ?_
    show mergeBits _ _ _ &&& _ = _
    unfold mergeBits
    rw [BitVec.and_or_distrib_right, BitVec.and_assoc, BitVec.and_assoc]
    rw [show (0x0003F07C : Word) &&& ~~~fcsrMask = 0 by decide, show ~~~(0x0003F07C : Word) &&& ~~~fcsrMask = ~~~fcsrMask by decide]
    simp
  · refine fcsr_legal rfl ((putBit_and (by decide) _).trans ?_)
    unfold mergeBits
    rw [BitVec.and_or_distrib_right, BitVec.and_assoc, BitVec.and_assoc]
    rw [show (0x00000F83 : Word) &&& ~~~fcsrMask = 0 by decide, show ~~~(0x00000F83 : Word) &&& ~~~fcsrMask = ~~~fcsrMask by decide]
    simp
  · exact ⟨id, fun ⟨r1, r2, r3, r4, r5, r6, r7, r8, r9, _⟩ => ⟨r1, r2, r3, r4, r5, r6, r7, r8, r9, and_mask ..⟩⟩
  · exact .refl s
theorem moveTrap_legal {s t : State} (h : KeepsLegal s t) : Res.Legal s (moveTrap t) := by
  unfold moveTrap; split
  · exact Res.legal_exc h
  · exact Res.legal_ok h

/-! ## The rest of the step -/

theorem rttTick_legal (s : State) : KeepsLegal s (rttTick s) := by
  unfold rttTick
  split
  · exact .same rfl
  · exact .refl s
theorem coreTick_legal (s : State) : KeepsLegal s (coreTick s) := by
  unfold coreTick
  split
  · exact ⟨id, fun h => h⟩
  · exact .refl s
theorem clkTick_legal (s : State) : KeepsLegal s (clkTick s) :=
  (rttTick_legal s).trans ((coreTick_legal _).trans (.same rfl))
theorem endStep_legal (s : State) : KeepsLegal s s.endStep := .same rfl

theorem trackEntry_legal (t s : State) (last : HazardTrack) (writes : List (Cp0Write × Nat)) :
    KeepsLegal t (t.trackEntry s last writes) := by
  unfold State.trackEntry
  split
  · exact .refl t
  · exact .same rfl

theorem track_legal (t : State) (i : Instr) (s : State) : KeepsLegal t (t.track i s) := by
  unfold State.track
  split
  · exact .refl t
  · split
    · exact trackEntry_legal ..
    · exact .same rfl

theorem enterHandler_legal (s : State) : KeepsLegal s s.enterHandler := by
  unfold State.enterHandler
  split
  · exact .refl s
  · exact .same rfl

theorem execWakeNop_legal (s : State) : Res.Legal s (execWakeNop s) := by
  unfold execWakeNop
  split
  · exact Res.legal_refuse
  · split
    · next w u e =>
      split
      · exact Res.legal_ok (((fetch_legal s).1 _ _ e).trans (((State.advance_legal u).trans (track_legal ..)).trans
          ((endStep_legal _).trans (clkTick_legal _))))
      · exact Res.legal_refuse
    · exact Res.legal_refuse
    · exact Res.legal_fault
    · exact Res.legal_refuse

/-- A woken core keeps the state well formed. -/
theorem wakeCore_legal (s : State) : Res.Legal s s.wakeCore := by
  unfold State.wakeCore
  split
  · exact Res.legal_ok (.refl s)
  · exact Res.legal_andThen (finishBursts_kept ..).legal fun _ t =>
      Res.legal_after (t := { t with sys := { t.sys with coreClockOn := true, clkEn := putBit t.sys.clkEn 0 true } })
        (.same rfl) (execWakeNop_legal _)

theorem hardwareReset_legal (s : State) : KeepsLegal s (hardwareReset s) := by
  have h : RegistersLegal State.reset := by unfold RegistersLegal; decide
  exact ⟨id, fun _ => h⟩

end Sys2Proof.Machine
end

