-- ==== Sys2Proof/Laws/PerInstr.lean ====
section
/-! SUPPORT. PerInstr: one lemma per instruction: what the encoder writes, the decoder reads back. -/

set_option Elab.async false
set_option linter.unusedSimpArgs false

namespace Sys2Proof.Laws.RoundTrip

open Sys2Proof

/-- Decoding the word of a well-formed instruction gives the instruction. -/
def Statement (i : Instr) : Prop := i.wellFormed = true → decode (encode i) = .ok i

theorem add (rs : GprNum) (rt : GprNum) (rd : GprNum) : Statement (.add rs rt rd) := by
  intro _; simp [encode, decode, decodeSpecial, checked, codeOf10, codeOf20, codeOf19]
theorem addi (rs : GprNum) (rt : GprNum) (imm : BitVec 16) : Statement (.addi rs rt imm) := by
  intro _; simp only [encode, decode, opOf_packI, rsOf_packI, rtOf_packI, immOf_packI, opOf_packJ, idxOf_packJ]
theorem addiu (rs : GprNum) (rt : GprNum) (imm : BitVec 16) : Statement (.addiu rs rt imm) := by
  intro _; simp only [encode, decode, opOf_packI, rsOf_packI, rtOf_packI, immOf_packI, opOf_packJ, idxOf_packJ]
theorem addu (rs : GprNum) (rt : GprNum) (rd : GprNum) : Statement (.addu rs rt rd) := by
  intro _; simp [encode, decode, decodeSpecial, checked, codeOf10, codeOf20, codeOf19]
theorem sub (rs : GprNum) (rt : GprNum) (rd : GprNum) : Statement (.sub rs rt rd) := by
  intro _; simp [encode, decode, decodeSpecial, checked, codeOf10, codeOf20, codeOf19]
theorem subu (rs : GprNum) (rt : GprNum) (rd : GprNum) : Statement (.subu rs rt rd) := by
  intro _; simp [encode, decode, decodeSpecial, checked, codeOf10, codeOf20, codeOf19]
theorem slt (rs : GprNum) (rt : GprNum) (rd : GprNum) : Statement (.slt rs rt rd) := by
  intro _; simp [encode, decode, decodeSpecial, checked, codeOf10, codeOf20, codeOf19]
theorem slti (rs : GprNum) (rt : GprNum) (imm : BitVec 16) : Statement (.slti rs rt imm) := by
  intro _; simp only [encode, decode, opOf_packI, rsOf_packI, rtOf_packI, immOf_packI, opOf_packJ, idxOf_packJ]
theorem sltiu (rs : GprNum) (rt : GprNum) (imm : BitVec 16) : Statement (.sltiu rs rt imm) := by
  intro _; simp only [encode, decode, opOf_packI, rsOf_packI, rtOf_packI, immOf_packI, opOf_packJ, idxOf_packJ]
theorem sltu (rs : GprNum) (rt : GprNum) (rd : GprNum) : Statement (.sltu rs rt rd) := by
  intro _; simp [encode, decode, decodeSpecial, checked, codeOf10, codeOf20, codeOf19]
theorem andr (rs : GprNum) (rt : GprNum) (rd : GprNum) : Statement (.andr rs rt rd) := by
  intro _; simp [encode, decode, decodeSpecial, checked, codeOf10, codeOf20, codeOf19]
theorem andi (rs : GprNum) (rt : GprNum) (imm : BitVec 16) : Statement (.andi rs rt imm) := by
  intro _; simp only [encode, decode, opOf_packI, rsOf_packI, rtOf_packI, immOf_packI, opOf_packJ, idxOf_packJ]
theorem orr (rs : GprNum) (rt : GprNum) (rd : GprNum) : Statement (.orr rs rt rd) := by
  intro _; simp [encode, decode, decodeSpecial, checked, codeOf10, codeOf20, codeOf19]
theorem ori (rs : GprNum) (rt : GprNum) (imm : BitVec 16) : Statement (.ori rs rt imm) := by
  intro _; simp only [encode, decode, opOf_packI, rsOf_packI, rtOf_packI, immOf_packI, opOf_packJ, idxOf_packJ]
theorem xorr (rs : GprNum) (rt : GprNum) (rd : GprNum) : Statement (.xorr rs rt rd) := by
  intro _; simp [encode, decode, decodeSpecial, checked, codeOf10, codeOf20, codeOf19]
theorem xori (rs : GprNum) (rt : GprNum) (imm : BitVec 16) : Statement (.xori rs rt imm) := by
  intro _; simp only [encode, decode, opOf_packI, rsOf_packI, rtOf_packI, immOf_packI, opOf_packJ, idxOf_packJ]
theorem norr (rs : GprNum) (rt : GprNum) (rd : GprNum) : Statement (.norr rs rt rd) := by
  intro _; simp [encode, decode, decodeSpecial, checked, codeOf10, codeOf20, codeOf19]
theorem lui (rt : GprNum) (imm : BitVec 16) : Statement (.lui rt imm) := by
  intro _; simp [encode, decode, checked, codeOf10, codeOf20, codeOf19]
theorem sll (rt : GprNum) (rd : GprNum) (sa : BitVec 5) : Statement (.sll rt rd sa) := by
  intro _; simp [encode, decode, decodeSpecial, checked, codeOf10, codeOf20, codeOf19]
theorem srl (rt : GprNum) (rd : GprNum) (sa : BitVec 5) : Statement (.srl rt rd sa) := by
  intro _; simp [encode, decode, decodeSpecial, checked, codeOf10, codeOf20, codeOf19]
theorem sra (rt : GprNum) (rd : GprNum) (sa : BitVec 5) : Statement (.sra rt rd sa) := by
  intro _; simp [encode, decode, decodeSpecial, checked, codeOf10, codeOf20, codeOf19]
theorem sllv (rs : GprNum) (rt : GprNum) (rd : GprNum) : Statement (.sllv rs rt rd) := by
  intro _; simp [encode, decode, decodeSpecial, checked, codeOf10, codeOf20, codeOf19]
theorem srlv (rs : GprNum) (rt : GprNum) (rd : GprNum) : Statement (.srlv rs rt rd) := by
  intro _; simp [encode, decode, decodeSpecial, checked, codeOf10, codeOf20, codeOf19]
theorem srav (rs : GprNum) (rt : GprNum) (rd : GprNum) : Statement (.srav rs rt rd) := by
  intro _; simp [encode, decode, decodeSpecial, checked, codeOf10, codeOf20, codeOf19]
theorem mult (rs : GprNum) (rt : GprNum) : Statement (.mult rs rt) := by
  intro _; simp [encode, decode, decodeSpecial, checked, codeOf10, codeOf20, codeOf19]
theorem multu (rs : GprNum) (rt : GprNum) : Statement (.multu rs rt) := by
  intro _; simp [encode, decode, decodeSpecial, checked, codeOf10, codeOf20, codeOf19]
theorem mul (rs : GprNum) (rt : GprNum) (rd : GprNum) : Statement (.mul rs rt rd) := by
  intro _; simp [encode, decode, decodeSpecial2, checked, codeOf10, codeOf20, codeOf19]
theorem madd (rs : GprNum) (rt : GprNum) : Statement (.madd rs rt) := by
  intro _; simp [encode, decode, decodeSpecial2, checked, codeOf10, codeOf20, codeOf19]
theorem maddu (rs : GprNum) (rt : GprNum) : Statement (.maddu rs rt) := by
  intro _; simp [encode, decode, decodeSpecial2, checked, codeOf10, codeOf20, codeOf19]
theorem msub (rs : GprNum) (rt : GprNum) : Statement (.msub rs rt) := by
  intro _; simp [encode, decode, decodeSpecial2, checked, codeOf10, codeOf20, codeOf19]
theorem msubu (rs : GprNum) (rt : GprNum) : Statement (.msubu rs rt) := by
  intro _; simp [encode, decode, decodeSpecial2, checked, codeOf10, codeOf20, codeOf19]
theorem div (rs : GprNum) (rt : GprNum) : Statement (.div rs rt) := by
  intro _; simp [encode, decode, decodeSpecial, checked, codeOf10, codeOf20, codeOf19]
theorem divu (rs : GprNum) (rt : GprNum) : Statement (.divu rs rt) := by
  intro _; simp [encode, decode, decodeSpecial, checked, codeOf10, codeOf20, codeOf19]
theorem mfhi (rd : GprNum) : Statement (.mfhi rd) := by
  intro _; simp [encode, decode, decodeSpecial, checked, codeOf10, codeOf20, codeOf19]
theorem mflo (rd : GprNum) : Statement (.mflo rd) := by
  intro _; simp [encode, decode, decodeSpecial, checked, codeOf10, codeOf20, codeOf19]
theorem mthi (rs : GprNum) : Statement (.mthi rs) := by
  intro _; simp [encode, decode, decodeSpecial, checked, codeOf10, codeOf20, codeOf19]
theorem mtlo (rs : GprNum) : Statement (.mtlo rs) := by
  intro _; simp [encode, decode, decodeSpecial, checked, codeOf10, codeOf20, codeOf19]
theorem clz (rs : GprNum) (rt : GprNum) (rd : GprNum) : Statement (.clz rs rt rd) := by
  intro _; simp [encode, decode, decodeSpecial2, checked, codeOf10, codeOf20, codeOf19]
theorem clo (rs : GprNum) (rt : GprNum) (rd : GprNum) : Statement (.clo rs rt rd) := by
  intro _; simp [encode, decode, decodeSpecial2, checked, codeOf10, codeOf20, codeOf19]
theorem movn (rs : GprNum) (rt : GprNum) (rd : GprNum) : Statement (.movn rs rt rd) := by
  intro _; simp [encode, decode, decodeSpecial, checked, codeOf10, codeOf20, codeOf19]
theorem movz (rs : GprNum) (rt : GprNum) (rd : GprNum) : Statement (.movz rs rt rd) := by
  intro _; simp [encode, decode, decodeSpecial, checked, codeOf10, codeOf20, codeOf19]
theorem movf (rs : GprNum) (cc : BitVec 3) (rd : GprNum) : Statement (.movf rs cc rd) := by
  intro _; simp [encode, decode, decodeSpecial, checked, codeOf10, codeOf20, codeOf19]
theorem movt (rs : GprNum) (cc : BitVec 3) (rd : GprNum) : Statement (.movt rs cc rd) := by
  intro _; simp [encode, decode, decodeSpecial, checked, codeOf10, codeOf20, codeOf19]
theorem j (index : BitVec 26) : Statement (.j index) := by
  intro _; simp only [encode, decode, opOf_packI, rsOf_packI, rtOf_packI, immOf_packI, opOf_packJ, idxOf_packJ]
theorem jal (index : BitVec 26) : Statement (.jal index) := by
  intro _; simp only [encode, decode, opOf_packI, rsOf_packI, rtOf_packI, immOf_packI, opOf_packJ, idxOf_packJ]
theorem jr (rs : GprNum) (hint : BitVec 5) : Statement (.jr rs hint) := by
  intro _; simp [encode, decode, decodeSpecial, checked, codeOf10, codeOf20, codeOf19]
theorem jalr (rs : GprNum) (rd : GprNum) (hint : BitVec 5) : Statement (.jalr rs rd hint) := by
  intro _; simp [encode, decode, decodeSpecial, checked, codeOf10, codeOf20, codeOf19]
theorem beq (rs : GprNum) (rt : GprNum) (offset : BitVec 16) : Statement (.beq rs rt offset) := by
  intro _; simp only [encode, decode, opOf_packI, rsOf_packI, rtOf_packI, immOf_packI, opOf_packJ, idxOf_packJ]
theorem bne (rs : GprNum) (rt : GprNum) (offset : BitVec 16) : Statement (.bne rs rt offset) := by
  intro _; simp only [encode, decode, opOf_packI, rsOf_packI, rtOf_packI, immOf_packI, opOf_packJ, idxOf_packJ]
theorem blez (rs : GprNum) (offset : BitVec 16) : Statement (.blez rs offset) := by
  intro _; simp [encode, decode, checked, codeOf10, codeOf20, codeOf19]
theorem bgtz (rs : GprNum) (offset : BitVec 16) : Statement (.bgtz rs offset) := by
  intro _; simp [encode, decode, checked, codeOf10, codeOf20, codeOf19]
theorem bltz (rs : GprNum) (offset : BitVec 16) : Statement (.bltz rs offset) := by
  intro _; simp [encode, decode, decodeRegimm, checked, codeOf10, codeOf20, codeOf19]
theorem bgez (rs : GprNum) (offset : BitVec 16) : Statement (.bgez rs offset) := by
  intro _; simp [encode, decode, decodeRegimm, checked, codeOf10, codeOf20, codeOf19]
theorem bltzal (rs : GprNum) (offset : BitVec 16) : Statement (.bltzal rs offset) := by
  intro _; simp [encode, decode, decodeRegimm, checked, codeOf10, codeOf20, codeOf19]
theorem bgezal (rs : GprNum) (offset : BitVec 16) : Statement (.bgezal rs offset) := by
  intro _; simp [encode, decode, decodeRegimm, checked, codeOf10, codeOf20, codeOf19]
theorem beql (rs : GprNum) (rt : GprNum) (offset : BitVec 16) : Statement (.beql rs rt offset) := by
  intro _; simp only [encode, decode, opOf_packI, rsOf_packI, rtOf_packI, immOf_packI, opOf_packJ, idxOf_packJ]
theorem bnel (rs : GprNum) (rt : GprNum) (offset : BitVec 16) : Statement (.bnel rs rt offset) := by
  intro _; simp only [encode, decode, opOf_packI, rsOf_packI, rtOf_packI, immOf_packI, opOf_packJ, idxOf_packJ]
theorem blezl (rs : GprNum) (offset : BitVec 16) : Statement (.blezl rs offset) := by
  intro _; simp [encode, decode, checked, codeOf10, codeOf20, codeOf19]
theorem bgtzl (rs : GprNum) (offset : BitVec 16) : Statement (.bgtzl rs offset) := by
  intro _; simp [encode, decode, checked, codeOf10, codeOf20, codeOf19]
theorem bltzl (rs : GprNum) (offset : BitVec 16) : Statement (.bltzl rs offset) := by
  intro _; simp [encode, decode, decodeRegimm, checked, codeOf10, codeOf20, codeOf19]
theorem bgezl (rs : GprNum) (offset : BitVec 16) : Statement (.bgezl rs offset) := by
  intro _; simp [encode, decode, decodeRegimm, checked, codeOf10, codeOf20, codeOf19]
theorem bltzall (rs : GprNum) (offset : BitVec 16) : Statement (.bltzall rs offset) := by
  intro _; simp [encode, decode, decodeRegimm, checked, codeOf10, codeOf20, codeOf19]
theorem bgezall (rs : GprNum) (offset : BitVec 16) : Statement (.bgezall rs offset) := by
  intro _; simp [encode, decode, decodeRegimm, checked, codeOf10, codeOf20, codeOf19]
theorem lb (base : GprNum) (rt : GprNum) (offset : BitVec 16) : Statement (.lb base rt offset) := by
  intro _; simp only [encode, decode, opOf_packI, rsOf_packI, rtOf_packI, immOf_packI, opOf_packJ, idxOf_packJ]
theorem lbu (base : GprNum) (rt : GprNum) (offset : BitVec 16) : Statement (.lbu base rt offset) := by
  intro _; simp only [encode, decode, opOf_packI, rsOf_packI, rtOf_packI, immOf_packI, opOf_packJ, idxOf_packJ]
theorem lh (base : GprNum) (rt : GprNum) (offset : BitVec 16) : Statement (.lh base rt offset) := by
  intro _; simp only [encode, decode, opOf_packI, rsOf_packI, rtOf_packI, immOf_packI, opOf_packJ, idxOf_packJ]
theorem lhu (base : GprNum) (rt : GprNum) (offset : BitVec 16) : Statement (.lhu base rt offset) := by
  intro _; simp only [encode, decode, opOf_packI, rsOf_packI, rtOf_packI, immOf_packI, opOf_packJ, idxOf_packJ]
theorem lw (base : GprNum) (rt : GprNum) (offset : BitVec 16) : Statement (.lw base rt offset) := by
  intro _; simp only [encode, decode, opOf_packI, rsOf_packI, rtOf_packI, immOf_packI, opOf_packJ, idxOf_packJ]
theorem lwl (base : GprNum) (rt : GprNum) (offset : BitVec 16) : Statement (.lwl base rt offset) := by
  intro _; simp only [encode, decode, opOf_packI, rsOf_packI, rtOf_packI, immOf_packI, opOf_packJ, idxOf_packJ]
theorem lwr (base : GprNum) (rt : GprNum) (offset : BitVec 16) : Statement (.lwr base rt offset) := by
  intro _; simp only [encode, decode, opOf_packI, rsOf_packI, rtOf_packI, immOf_packI, opOf_packJ, idxOf_packJ]
theorem sb (base : GprNum) (rt : GprNum) (offset : BitVec 16) : Statement (.sb base rt offset) := by
  intro _; simp only [encode, decode, opOf_packI, rsOf_packI, rtOf_packI, immOf_packI, opOf_packJ, idxOf_packJ]
theorem sh (base : GprNum) (rt : GprNum) (offset : BitVec 16) : Statement (.sh base rt offset) := by
  intro _; simp only [encode, decode, opOf_packI, rsOf_packI, rtOf_packI, immOf_packI, opOf_packJ, idxOf_packJ]
theorem sw (base : GprNum) (rt : GprNum) (offset : BitVec 16) : Statement (.sw base rt offset) := by
  intro _; simp only [encode, decode, opOf_packI, rsOf_packI, rtOf_packI, immOf_packI, opOf_packJ, idxOf_packJ]
theorem swl (base : GprNum) (rt : GprNum) (offset : BitVec 16) : Statement (.swl base rt offset) := by
  intro _; simp only [encode, decode, opOf_packI, rsOf_packI, rtOf_packI, immOf_packI, opOf_packJ, idxOf_packJ]
theorem swr (base : GprNum) (rt : GprNum) (offset : BitVec 16) : Statement (.swr base rt offset) := by
  intro _; simp only [encode, decode, opOf_packI, rsOf_packI, rtOf_packI, immOf_packI, opOf_packJ, idxOf_packJ]
theorem ll (base : GprNum) (rt : GprNum) (offset : BitVec 16) : Statement (.ll base rt offset) := by
  intro _; simp only [encode, decode, opOf_packI, rsOf_packI, rtOf_packI, immOf_packI, opOf_packJ, idxOf_packJ]
theorem sc (base : GprNum) (rt : GprNum) (offset : BitVec 16) : Statement (.sc base rt offset) := by
  intro _; simp only [encode, decode, opOf_packI, rsOf_packI, rtOf_packI, immOf_packI, opOf_packJ, idxOf_packJ]
theorem pref (base : GprNum) (hint : BitVec 5) (offset : BitVec 16) : Statement (.pref base hint offset) := by
  intro _; simp only [encode, decode, opOf_packI, rsOf_packI, rtOf_packI, immOf_packI, opOf_packJ, idxOf_packJ]
theorem sync (stype : BitVec 5) : Statement (.sync stype) := by
  intro _; simp [encode, decode, decodeSpecial, checked, codeOf10, codeOf20, codeOf19]
theorem syscall (code : BitVec 20) : Statement (.syscall code) := by
  intro _; simp [encode, decode, decodeSpecial, checked, codeOf10, codeOf20, codeOf19]
theorem brk (code : BitVec 20) : Statement (.brk code) := by
  intro _; simp [encode, decode, decodeSpecial, checked, codeOf10, codeOf20, codeOf19]
theorem teq (rs : GprNum) (rt : GprNum) (code : BitVec 10) : Statement (.teq rs rt code) := by
  intro _; simp [encode, decode, decodeSpecial, checked, codeOf10, codeOf20, codeOf19]
theorem tne (rs : GprNum) (rt : GprNum) (code : BitVec 10) : Statement (.tne rs rt code) := by
  intro _; simp [encode, decode, decodeSpecial, checked, codeOf10, codeOf20, codeOf19]
theorem tge (rs : GprNum) (rt : GprNum) (code : BitVec 10) : Statement (.tge rs rt code) := by
  intro _; simp [encode, decode, decodeSpecial, checked, codeOf10, codeOf20, codeOf19]
theorem tgeu (rs : GprNum) (rt : GprNum) (code : BitVec 10) : Statement (.tgeu rs rt code) := by
  intro _; simp [encode, decode, decodeSpecial, checked, codeOf10, codeOf20, codeOf19]
theorem tlt (rs : GprNum) (rt : GprNum) (code : BitVec 10) : Statement (.tlt rs rt code) := by
  intro _; simp [encode, decode, decodeSpecial, checked, codeOf10, codeOf20, codeOf19]
theorem tltu (rs : GprNum) (rt : GprNum) (code : BitVec 10) : Statement (.tltu rs rt code) := by
  intro _; simp [encode, decode, decodeSpecial, checked, codeOf10, codeOf20, codeOf19]
theorem teqi (rs : GprNum) (imm : BitVec 16) : Statement (.teqi rs imm) := by
  intro _; simp [encode, decode, decodeRegimm, checked, codeOf10, codeOf20, codeOf19]
theorem tnei (rs : GprNum) (imm : BitVec 16) : Statement (.tnei rs imm) := by
  intro _; simp [encode, decode, decodeRegimm, checked, codeOf10, codeOf20, codeOf19]
theorem tgei (rs : GprNum) (imm : BitVec 16) : Statement (.tgei rs imm) := by
  intro _; simp [encode, decode, decodeRegimm, checked, codeOf10, codeOf20, codeOf19]
theorem tgeiu (rs : GprNum) (imm : BitVec 16) : Statement (.tgeiu rs imm) := by
  intro _; simp [encode, decode, decodeRegimm, checked, codeOf10, codeOf20, codeOf19]
theorem tlti (rs : GprNum) (imm : BitVec 16) : Statement (.tlti rs imm) := by
  intro _; simp [encode, decode, decodeRegimm, checked, codeOf10, codeOf20, codeOf19]
theorem tltiu (rs : GprNum) (imm : BitVec 16) : Statement (.tltiu rs imm) := by
  intro _; simp [encode, decode, decodeRegimm, checked, codeOf10, codeOf20, codeOf19]
theorem mfc0 (rt : GprNum) (rd : BitVec 5) (sel : BitVec 3) : Statement (.mfc0 rt rd sel) := by
  intro _; simp [encode, decode, decodeCop0, decodeCop0Co, checked, codeOf10, codeOf20, codeOf19]
theorem eret : Statement (.eret) := by
  intro _; simp [encode, decode, decodeCop0, decodeCop0Co, checked, codeOf10, codeOf20, codeOf19]
theorem mtc0 (rt : GprNum) (rd : BitVec 5) (sel : BitVec 3) : Statement (.mtc0 rt rd sel) := by
  intro _; simp [encode, decode, decodeCop0, decodeCop0Co, checked, codeOf10, codeOf20, codeOf19]
theorem tlbp : Statement (.tlbp) := by
  intro _; simp [encode, decode, decodeCop0, decodeCop0Co, checked, codeOf10, codeOf20, codeOf19]
theorem tlbr : Statement (.tlbr) := by
  intro _; simp [encode, decode, decodeCop0, decodeCop0Co, checked, codeOf10, codeOf20, codeOf19]
theorem tlbwi : Statement (.tlbwi) := by
  intro _; simp [encode, decode, decodeCop0, decodeCop0Co, checked, codeOf10, codeOf20, codeOf19]
theorem tlbwr : Statement (.tlbwr) := by
  intro _; simp [encode, decode, decodeCop0, decodeCop0Co, checked, codeOf10, codeOf20, codeOf19]
theorem cache (base : GprNum) (op : BitVec 5) (offset : BitVec 16) : Statement (.cache base op offset) := by
  intro _; simp only [encode, decode, opOf_packI, rsOf_packI, rtOf_packI, immOf_packI, opOf_packJ, idxOf_packJ]
theorem wait (code : BitVec 19) : Statement (.wait code) := by
  have h : ∀ x : BitVec 4, 1#1 ++ x ≠ 0#5 ∧ 1#1 ++ x ≠ 4#5 := by decide
  intro _
  simp [encode, decode, decodeCop0, decodeCop0Co, codeOf19]
  split
  · next e => exact absurd e (h _).1
  · next e => exact absurd e (h _).2
  · rfl
theorem addS (ft : FprNum) (fs : FprNum) (fd : FprNum) : Statement (.addS ft fs fd) := by
  intro _; simp [encode, decode, decodeCop1, decodeCop1S, checked, codeOf10, codeOf20, codeOf19]
theorem addD (ft : FprNum) (fs : FprNum) (fd : FprNum) : Statement (.addD ft fs fd) := by
  intro _; simp [encode, decode, decodeCop1, decodeCop1D, checked, codeOf10, codeOf20, codeOf19]
theorem subS (ft : FprNum) (fs : FprNum) (fd : FprNum) : Statement (.subS ft fs fd) := by
  intro _; simp [encode, decode, decodeCop1, decodeCop1S, checked, codeOf10, codeOf20, codeOf19]
theorem subD (ft : FprNum) (fs : FprNum) (fd : FprNum) : Statement (.subD ft fs fd) := by
  intro _; simp [encode, decode, decodeCop1, decodeCop1D, checked, codeOf10, codeOf20, codeOf19]
theorem mulS (ft : FprNum) (fs : FprNum) (fd : FprNum) : Statement (.mulS ft fs fd) := by
  intro _; simp [encode, decode, decodeCop1, decodeCop1S, checked, codeOf10, codeOf20, codeOf19]
theorem mulD (ft : FprNum) (fs : FprNum) (fd : FprNum) : Statement (.mulD ft fs fd) := by
  intro _; simp [encode, decode, decodeCop1, decodeCop1D, checked, codeOf10, codeOf20, codeOf19]
theorem divS (ft : FprNum) (fs : FprNum) (fd : FprNum) : Statement (.divS ft fs fd) := by
  intro _; simp [encode, decode, decodeCop1, decodeCop1S, checked, codeOf10, codeOf20, codeOf19]
theorem divD (ft : FprNum) (fs : FprNum) (fd : FprNum) : Statement (.divD ft fs fd) := by
  intro _; simp [encode, decode, decodeCop1, decodeCop1D, checked, codeOf10, codeOf20, codeOf19]
theorem sqrtS (fs : FprNum) (fd : FprNum) : Statement (.sqrtS fs fd) := by
  intro _; simp [encode, decode, decodeCop1, decodeCop1S, checked, codeOf10, codeOf20, codeOf19]
theorem sqrtD (fs : FprNum) (fd : FprNum) : Statement (.sqrtD fs fd) := by
  intro _; simp [encode, decode, decodeCop1, decodeCop1D, checked, codeOf10, codeOf20, codeOf19]
theorem absS (fs : FprNum) (fd : FprNum) : Statement (.absS fs fd) := by
  intro _; simp [encode, decode, decodeCop1, decodeCop1S, checked, codeOf10, codeOf20, codeOf19]
theorem absD (fs : FprNum) (fd : FprNum) : Statement (.absD fs fd) := by
  intro _; simp [encode, decode, decodeCop1, decodeCop1D, checked, codeOf10, codeOf20, codeOf19]
theorem negS (fs : FprNum) (fd : FprNum) : Statement (.negS fs fd) := by
  intro _; simp [encode, decode, decodeCop1, decodeCop1S, checked, codeOf10, codeOf20, codeOf19]
theorem negD (fs : FprNum) (fd : FprNum) : Statement (.negD fs fd) := by
  intro _; simp [encode, decode, decodeCop1, decodeCop1D, checked, codeOf10, codeOf20, codeOf19]
theorem movS (fs : FprNum) (fd : FprNum) : Statement (.movS fs fd) := by
  intro _; simp [encode, decode, decodeCop1, decodeCop1S, checked, codeOf10, codeOf20, codeOf19]
theorem movD (fs : FprNum) (fd : FprNum) : Statement (.movD fs fd) := by
  intro _; simp [encode, decode, decodeCop1, decodeCop1D, checked, codeOf10, codeOf20, codeOf19]
theorem cvtSD (fs : FprNum) (fd : FprNum) : Statement (.cvtSD fs fd) := by
  intro _; simp [encode, decode, decodeCop1, decodeCop1D, checked, codeOf10, codeOf20, codeOf19]
theorem cvtSW (fs : FprNum) (fd : FprNum) : Statement (.cvtSW fs fd) := by
  intro _; simp [encode, decode, decodeCop1, decodeCop1W, checked, codeOf10, codeOf20, codeOf19]
theorem cvtDS (fs : FprNum) (fd : FprNum) : Statement (.cvtDS fs fd) := by
  intro _; simp [encode, decode, decodeCop1, decodeCop1S, checked, codeOf10, codeOf20, codeOf19]
theorem cvtDW (fs : FprNum) (fd : FprNum) : Statement (.cvtDW fs fd) := by
  intro _; simp [encode, decode, decodeCop1, decodeCop1W, checked, codeOf10, codeOf20, codeOf19]
theorem cvtWS (fs : FprNum) (fd : FprNum) : Statement (.cvtWS fs fd) := by
  intro _; simp [encode, decode, decodeCop1, decodeCop1S, checked, codeOf10, codeOf20, codeOf19]
theorem cvtWD (fs : FprNum) (fd : FprNum) : Statement (.cvtWD fs fd) := by
  intro _; simp [encode, decode, decodeCop1, decodeCop1D, checked, codeOf10, codeOf20, codeOf19]
theorem roundWS (fs : FprNum) (fd : FprNum) : Statement (.roundWS fs fd) := by
  intro _; simp [encode, decode, decodeCop1, decodeCop1S, checked, codeOf10, codeOf20, codeOf19]
theorem roundWD (fs : FprNum) (fd : FprNum) : Statement (.roundWD fs fd) := by
  intro _; simp [encode, decode, decodeCop1, decodeCop1D, checked, codeOf10, codeOf20, codeOf19]
theorem truncWS (fs : FprNum) (fd : FprNum) : Statement (.truncWS fs fd) := by
  intro _; simp [encode, decode, decodeCop1, decodeCop1S, checked, codeOf10, codeOf20, codeOf19]
theorem truncWD (fs : FprNum) (fd : FprNum) : Statement (.truncWD fs fd) := by
  intro _; simp [encode, decode, decodeCop1, decodeCop1D, checked, codeOf10, codeOf20, codeOf19]
theorem ceilWS (fs : FprNum) (fd : FprNum) : Statement (.ceilWS fs fd) := by
  intro _; simp [encode, decode, decodeCop1, decodeCop1S, checked, codeOf10, codeOf20, codeOf19]
theorem ceilWD (fs : FprNum) (fd : FprNum) : Statement (.ceilWD fs fd) := by
  intro _; simp [encode, decode, decodeCop1, decodeCop1D, checked, codeOf10, codeOf20, codeOf19]
theorem floorWS (fs : FprNum) (fd : FprNum) : Statement (.floorWS fs fd) := by
  intro _; simp [encode, decode, decodeCop1, decodeCop1S, checked, codeOf10, codeOf20, codeOf19]
theorem floorWD (fs : FprNum) (fd : FprNum) : Statement (.floorWD fs fd) := by
  intro _; simp [encode, decode, decodeCop1, decodeCop1D, checked, codeOf10, codeOf20, codeOf19]
theorem mfc1 (rt : GprNum) (fs : FprNum) : Statement (.mfc1 rt fs) := by
  intro _; simp [encode, decode, decodeCop1, checked, codeOf10, codeOf20, codeOf19]
theorem mtc1 (rt : GprNum) (fs : FprNum) : Statement (.mtc1 rt fs) := by
  intro _; simp [encode, decode, decodeCop1, checked, codeOf10, codeOf20, codeOf19]
theorem cfc1 (rt : GprNum) (fs : FprNum) : Statement (.cfc1 rt fs) := by
  intro _; simp [encode, decode, decodeCop1, checked, codeOf10, codeOf20, codeOf19]
theorem ctc1 (rt : GprNum) (fs : FprNum) : Statement (.ctc1 rt fs) := by
  intro _; simp [encode, decode, decodeCop1, checked, codeOf10, codeOf20, codeOf19]
theorem lwc1 (base : GprNum) (ft : FprNum) (offset : BitVec 16) : Statement (.lwc1 base ft offset) := by
  intro _; simp only [encode, decode, opOf_packI, rsOf_packI, rtOf_packI, immOf_packI, opOf_packJ, idxOf_packJ]
theorem swc1 (base : GprNum) (ft : FprNum) (offset : BitVec 16) : Statement (.swc1 base ft offset) := by
  intro _; simp only [encode, decode, opOf_packI, rsOf_packI, rtOf_packI, immOf_packI, opOf_packJ, idxOf_packJ]
theorem ldc1 (base : GprNum) (ft : FprNum) (offset : BitVec 16) : Statement (.ldc1 base ft offset) := by
  intro _; simp only [encode, decode, opOf_packI, rsOf_packI, rtOf_packI, immOf_packI, opOf_packJ, idxOf_packJ]
theorem sdc1 (base : GprNum) (ft : FprNum) (offset : BitVec 16) : Statement (.sdc1 base ft offset) := by
  intro _; simp only [encode, decode, opOf_packI, rsOf_packI, rtOf_packI, immOf_packI, opOf_packJ, idxOf_packJ]
theorem movfS (cc : BitVec 3) (fs : FprNum) (fd : FprNum) : Statement (.movfS cc fs fd) := by
  intro _; simp [encode, decode, decodeCop1, decodeCop1S, checked, codeOf10, codeOf20, codeOf19]
theorem movfD (cc : BitVec 3) (fs : FprNum) (fd : FprNum) : Statement (.movfD cc fs fd) := by
  intro _; simp [encode, decode, decodeCop1, decodeCop1D, checked, codeOf10, codeOf20, codeOf19]
theorem movtS (cc : BitVec 3) (fs : FprNum) (fd : FprNum) : Statement (.movtS cc fs fd) := by
  intro _; simp [encode, decode, decodeCop1, decodeCop1S, checked, codeOf10, codeOf20, codeOf19]
theorem movtD (cc : BitVec 3) (fs : FprNum) (fd : FprNum) : Statement (.movtD cc fs fd) := by
  intro _; simp [encode, decode, decodeCop1, decodeCop1D, checked, codeOf10, codeOf20, codeOf19]
theorem movnS (rt : GprNum) (fs : FprNum) (fd : FprNum) : Statement (.movnS rt fs fd) := by
  intro _; simp [encode, decode, decodeCop1, decodeCop1S, checked, codeOf10, codeOf20, codeOf19]
theorem movnD (rt : GprNum) (fs : FprNum) (fd : FprNum) : Statement (.movnD rt fs fd) := by
  intro _; simp [encode, decode, decodeCop1, decodeCop1D, checked, codeOf10, codeOf20, codeOf19]
theorem movzS (rt : GprNum) (fs : FprNum) (fd : FprNum) : Statement (.movzS rt fs fd) := by
  intro _; simp [encode, decode, decodeCop1, decodeCop1S, checked, codeOf10, codeOf20, codeOf19]
theorem movzD (rt : GprNum) (fs : FprNum) (fd : FprNum) : Statement (.movzD rt fs fd) := by
  intro _; simp [encode, decode, decodeCop1, decodeCop1D, checked, codeOf10, codeOf20, codeOf19]
theorem bc1f (cc : BitVec 3) (offset : BitVec 16) : Statement (.bc1f cc offset) := by
  intro _; simp [encode, decode, decodeCop1, checked, codeOf10, codeOf20, codeOf19]
theorem bc1t (cc : BitVec 3) (offset : BitVec 16) : Statement (.bc1t cc offset) := by
  intro _; simp [encode, decode, decodeCop1, checked, codeOf10, codeOf20, codeOf19]
theorem bc1fl (cc : BitVec 3) (offset : BitVec 16) : Statement (.bc1fl cc offset) := by
  intro _; simp [encode, decode, decodeCop1, checked, codeOf10, codeOf20, codeOf19]
theorem bc1tl (cc : BitVec 3) (offset : BitVec 16) : Statement (.bc1tl cc offset) := by
  intro _; simp [encode, decode, decodeCop1, checked, codeOf10, codeOf20, codeOf19]
theorem cFS (ft : FprNum) (fs : FprNum) (cc : BitVec 3) : Statement (.cFS ft fs cc) := by
  intro _; simp [encode, decode, decodeCop1, decodeCop1S, checked, codeOf10, codeOf20, codeOf19]
theorem cFD (ft : FprNum) (fs : FprNum) (cc : BitVec 3) : Statement (.cFD ft fs cc) := by
  intro _; simp [encode, decode, decodeCop1, decodeCop1D, checked, codeOf10, codeOf20, codeOf19]
theorem cUnS (ft : FprNum) (fs : FprNum) (cc : BitVec 3) : Statement (.cUnS ft fs cc) := by
  intro _; simp [encode, decode, decodeCop1, decodeCop1S, checked, codeOf10, codeOf20, codeOf19]
theorem cUnD (ft : FprNum) (fs : FprNum) (cc : BitVec 3) : Statement (.cUnD ft fs cc) := by
  intro _; simp [encode, decode, decodeCop1, decodeCop1D, checked, codeOf10, codeOf20, codeOf19]
theorem cEqS (ft : FprNum) (fs : FprNum) (cc : BitVec 3) : Statement (.cEqS ft fs cc) := by
  intro _; simp [encode, decode, decodeCop1, decodeCop1S, checked, codeOf10, codeOf20, codeOf19]
theorem cEqD (ft : FprNum) (fs : FprNum) (cc : BitVec 3) : Statement (.cEqD ft fs cc) := by
  intro _; simp [encode, decode, decodeCop1, decodeCop1D, checked, codeOf10, codeOf20, codeOf19]
theorem cUeqS (ft : FprNum) (fs : FprNum) (cc : BitVec 3) : Statement (.cUeqS ft fs cc) := by
  intro _; simp [encode, decode, decodeCop1, decodeCop1S, checked, codeOf10, codeOf20, codeOf19]
theorem cUeqD (ft : FprNum) (fs : FprNum) (cc : BitVec 3) : Statement (.cUeqD ft fs cc) := by
  intro _; simp [encode, decode, decodeCop1, decodeCop1D, checked, codeOf10, codeOf20, codeOf19]
theorem cOltS (ft : FprNum) (fs : FprNum) (cc : BitVec 3) : Statement (.cOltS ft fs cc) := by
  intro _; simp [encode, decode, decodeCop1, decodeCop1S, checked, codeOf10, codeOf20, codeOf19]
theorem cOltD (ft : FprNum) (fs : FprNum) (cc : BitVec 3) : Statement (.cOltD ft fs cc) := by
  intro _; simp [encode, decode, decodeCop1, decodeCop1D, checked, codeOf10, codeOf20, codeOf19]
theorem cUltS (ft : FprNum) (fs : FprNum) (cc : BitVec 3) : Statement (.cUltS ft fs cc) := by
  intro _; simp [encode, decode, decodeCop1, decodeCop1S, checked, codeOf10, codeOf20, codeOf19]
theorem cUltD (ft : FprNum) (fs : FprNum) (cc : BitVec 3) : Statement (.cUltD ft fs cc) := by
  intro _; simp [encode, decode, decodeCop1, decodeCop1D, checked, codeOf10, codeOf20, codeOf19]
theorem cOleS (ft : FprNum) (fs : FprNum) (cc : BitVec 3) : Statement (.cOleS ft fs cc) := by
  intro _; simp [encode, decode, decodeCop1, decodeCop1S, checked, codeOf10, codeOf20, codeOf19]
theorem cOleD (ft : FprNum) (fs : FprNum) (cc : BitVec 3) : Statement (.cOleD ft fs cc) := by
  intro _; simp [encode, decode, decodeCop1, decodeCop1D, checked, codeOf10, codeOf20, codeOf19]
theorem cUleS (ft : FprNum) (fs : FprNum) (cc : BitVec 3) : Statement (.cUleS ft fs cc) := by
  intro _; simp [encode, decode, decodeCop1, decodeCop1S, checked, codeOf10, codeOf20, codeOf19]
theorem cUleD (ft : FprNum) (fs : FprNum) (cc : BitVec 3) : Statement (.cUleD ft fs cc) := by
  intro _; simp [encode, decode, decodeCop1, decodeCop1D, checked, codeOf10, codeOf20, codeOf19]
theorem cSfS (ft : FprNum) (fs : FprNum) (cc : BitVec 3) : Statement (.cSfS ft fs cc) := by
  intro _; simp [encode, decode, decodeCop1, decodeCop1S, checked, codeOf10, codeOf20, codeOf19]
theorem cSfD (ft : FprNum) (fs : FprNum) (cc : BitVec 3) : Statement (.cSfD ft fs cc) := by
  intro _; simp [encode, decode, decodeCop1, decodeCop1D, checked, codeOf10, codeOf20, codeOf19]
theorem cNgleS (ft : FprNum) (fs : FprNum) (cc : BitVec 3) : Statement (.cNgleS ft fs cc) := by
  intro _; simp [encode, decode, decodeCop1, decodeCop1S, checked, codeOf10, codeOf20, codeOf19]
theorem cNgleD (ft : FprNum) (fs : FprNum) (cc : BitVec 3) : Statement (.cNgleD ft fs cc) := by
  intro _; simp [encode, decode, decodeCop1, decodeCop1D, checked, codeOf10, codeOf20, codeOf19]
theorem cSeqS (ft : FprNum) (fs : FprNum) (cc : BitVec 3) : Statement (.cSeqS ft fs cc) := by
  intro _; simp [encode, decode, decodeCop1, decodeCop1S, checked, codeOf10, codeOf20, codeOf19]
theorem cSeqD (ft : FprNum) (fs : FprNum) (cc : BitVec 3) : Statement (.cSeqD ft fs cc) := by
  intro _; simp [encode, decode, decodeCop1, decodeCop1D, checked, codeOf10, codeOf20, codeOf19]
theorem cNglS (ft : FprNum) (fs : FprNum) (cc : BitVec 3) : Statement (.cNglS ft fs cc) := by
  intro _; simp [encode, decode, decodeCop1, decodeCop1S, checked, codeOf10, codeOf20, codeOf19]
theorem cNglD (ft : FprNum) (fs : FprNum) (cc : BitVec 3) : Statement (.cNglD ft fs cc) := by
  intro _; simp [encode, decode, decodeCop1, decodeCop1D, checked, codeOf10, codeOf20, codeOf19]
theorem cLtS (ft : FprNum) (fs : FprNum) (cc : BitVec 3) : Statement (.cLtS ft fs cc) := by
  intro _; simp [encode, decode, decodeCop1, decodeCop1S, checked, codeOf10, codeOf20, codeOf19]
theorem cLtD (ft : FprNum) (fs : FprNum) (cc : BitVec 3) : Statement (.cLtD ft fs cc) := by
  intro _; simp [encode, decode, decodeCop1, decodeCop1D, checked, codeOf10, codeOf20, codeOf19]
theorem cNgeS (ft : FprNum) (fs : FprNum) (cc : BitVec 3) : Statement (.cNgeS ft fs cc) := by
  intro _; simp [encode, decode, decodeCop1, decodeCop1S, checked, codeOf10, codeOf20, codeOf19]
theorem cNgeD (ft : FprNum) (fs : FprNum) (cc : BitVec 3) : Statement (.cNgeD ft fs cc) := by
  intro _; simp [encode, decode, decodeCop1, decodeCop1D, checked, codeOf10, codeOf20, codeOf19]
theorem cLeS (ft : FprNum) (fs : FprNum) (cc : BitVec 3) : Statement (.cLeS ft fs cc) := by
  intro _; simp [encode, decode, decodeCop1, decodeCop1S, checked, codeOf10, codeOf20, codeOf19]
theorem cLeD (ft : FprNum) (fs : FprNum) (cc : BitVec 3) : Statement (.cLeD ft fs cc) := by
  intro _; simp [encode, decode, decodeCop1, decodeCop1D, checked, codeOf10, codeOf20, codeOf19]
theorem cNgtS (ft : FprNum) (fs : FprNum) (cc : BitVec 3) : Statement (.cNgtS ft fs cc) := by
  intro _; simp [encode, decode, decodeCop1, decodeCop1S, checked, codeOf10, codeOf20, codeOf19]
theorem cNgtD (ft : FprNum) (fs : FprNum) (cc : BitVec 3) : Statement (.cNgtD ft fs cc) := by
  intro _; simp [encode, decode, decodeCop1, decodeCop1D, checked, codeOf10, codeOf20, codeOf19]

end Sys2Proof.Laws.RoundTrip
end

