-- ==== Sys2Proof/Laws/Step.lean ====
section
/-! SUPPORT. Step: which part of a step runs: a step of the CPU without a burst in its way, and one that executes an instruction; and
the parts of the period of RTCXTI. -/

namespace Sys2Proof.Machine

open Sys2Proof

/-- Every clock that CR_PLL can choose takes a whole number of parts of the period of RTCXTI in a CLK tick (R182, R1187). -/
theorem rttClk_dvd_rttSpan (s : State) : s.rttClk ∣ rttSpan s.params := by
  have code (n : BitVec 5) (h : n ≠ 0) : n.toNat ∣ 72201776446800 := by revert n; decide
  unfold State.rttClk rttSpan
  rcases Nat.le_total s.fClk (7 * s.params.fRtc) with h | h
  · rw [Nat.max_eq_right h]
    exact Dvd.intro _ rfl
  · rw [Nat.max_eq_left h]
    rcases Nat.eq_zero_or_pos s.params.fXti with hx | hx
    · have h0 : s.fClk = 0 := by
        unfold State.fClk
        dsimp only
        rw [hx]
        split
        · rfl
        · split <;> rfl
      have hr : s.params.fRtc = 0 := by omega
      simp [hr]
    · rw [Nat.max_eq_right hx]
      refine Dvd.dvd.mul_left ?_ _
      unfold State.fClk
      dsimp only
      split
      · exact Dvd.intro _ rfl
      · split
        · exact ⟨16 * 72201776446800, by ring⟩
        · next h0 =>
          obtain ⟨k, hk⟩ := code _ h0
          exact ⟨k, by rw [hk]; ring⟩

/-- Without a burst no slave is held. -/
theorem holder_none {s : State} (h : NoBurst s) (self : Option (Fin 16)) (l : List Slave) : s.holder self l = none := by
  unfold State.holder
  rw [List.find?_eq_none]
  intro c _
  simp [DmaChannel.moving, h c]

theorem burstAhead_none {s : State} (h : NoBurst s) (l : List Slave) : s.burstAhead l = none := by
  unfold State.burstAhead
  rw [holder_none h, Option.map_none]

/-- A step of the CPU (R1050, R1051). -/
theorem step_cpu {s : State} (h : CpuNext s) : step s = afterCpu (runCpu s) := by
  obtain ⟨hm, hc, hb⟩ := h
  unfold step runStep cpuStep
  rw [hm, hc]
  simp only [if_true, burstAhead_none hb]

/-- A step of the CPU that takes an NMI (R957). -/
theorem step_nmi {s : State} (h : CpuNext s) (hn : s.nmiPending = true) :
    step s = .next (clkTick ((takeNmi s).trackNmi s).endStep) := by
  rw [step_cpu h]
  unfold runCpu
  rw [hn]
  rfl

/-- A step in which the CPU waits (R990). -/
theorem step_waits {s : State} (h : CpuNext s) (hn : s.nmiPending = false) (hw : s.waiting = true)
    (hr : s.maskedRequest = false) : step s = .next (clkTick s.endStep) := by
  rw [step_cpu h]
  unfold runCpu
  rw [hn, hw, hr]
  rfl

/-- Whether the recognition of an interrupt may be late does not depend on the flags a step clears first. -/
theorem mayDelay_flags (s : State) :
    ({ s with waiting := false, excTaken := false } : State).mayDelayInterrupt = s.mayDelayInterrupt := by
  have h : ∀ w : Cp0Write, (({ s with waiting := false, excTaken := false } : State).withOld w).interruptRequest =
      (s.withOld w).interruptRequest := by
    intro w
    cases w <;> rfl
  unfold State.mayDelayInterrupt
  simp only [h]

/-- A step that takes an interrupt, or runs an instruction that raises an exception of its own (R990). -/
theorem step_interrupt {s : State} (h : CpuNext s) (hn : s.nmiPending = false) (hr : s.interruptRequest = true)
    (hd : s.mayDelayInterrupt = false) :
    step s = afterCpu (runInterrupt { s with waiting := false, excTaken := false }) := by
  have hm : s.maskedRequest = true := by
    unfold State.interruptRequest at hr
    simp only [Bool.and_eq_true] at hr
    exact hr.1.1.1
  have hi : ({ s with waiting := false, excTaken := false } : State).interruptNow = true := by
    unfold State.interruptNow
    rw [mayDelay_flags, hd]
    simp only [Bool.not_false, Bool.true_or, Bool.and_true]
    exact hr
  rw [step_cpu h]
  unfold runCpu
  rw [if_neg (by simp [hn]), if_neg (by simp [hm])]
  dsimp only
  rw [if_pos hi, mayDelay_flags, if_neg (by simp [hd])]

/-- A step that executes an instruction. -/
theorem step_instruction {s : State} (h : InstructionNext s) :
    step s = afterCpu (runInstr { s with excTaken := false }) := by
  obtain ⟨hc, hn, hw, hr⟩ := h
  have e : ({ s with waiting := false, excTaken := false } : State) = { s with excTaken := false } := by
    rw [← hw]
  have h1 : ({ s with excTaken := false } : State).interruptRequest = false := hr
  have h2 : ({ s with excTaken := false } : State).interruptNow = false := by
    unfold State.interruptNow; rw [h1]; rfl
  rw [step_cpu hc]
  unfold runCpu
  rw [if_neg (by simp [hn]), if_neg (by simp [hw])]
  dsimp only
  rw [e, if_neg (by simp [h2]), if_neg (by simp [h1])]

/-- What the strict profile tracks is all that an entry changes in its tracking. -/
theorem trackEntry_eq (t s : State) (last : HazardTrack) (writes : List (Cp0Write × Nat)) :
    t.trackEntry s last writes = { t with hazard := (t.trackEntry s last writes).hazard } := by
  unfold State.trackEntry
  split <;> rfl
theorem trackExc_eq (t s : State) : t.trackExc s = { t with hazard := (t.trackExc s).hazard } := trackEntry_eq ..
theorem trackFetchExc_eq (t s : State) : t.trackFetchExc s = { t with hazard := (t.trackFetchExc s).hazard } := trackEntry_eq ..
theorem trackNmi_eq (t s : State) : t.trackNmi s = { t with hazard := (t.trackNmi s).hazard } := trackEntry_eq ..

end Sys2Proof.Machine
end

