-- ==== Sys2Proof/Laws/Translate.lean ====
section
/-! SUPPORT. Translate: the tests of translation as statements about addresses, and what a TLB entry does to an address. -/

namespace Sys2Proof.Machine

open Sys2Proof

/-- Bit 31 of an address. -/
theorem isSet_31 (va : Word) : isSet va 31 = decide (0x80000000 ≤ va.toNat) := by
  unfold isSet
  rw [show va.getLsbD 31 = va.msb by simp [BitVec.msb_eq_getLsbD_last], BitVec.msb_eq_decide]
/-- The three isSet_31 bits of an address. -/
theorem fieldOf_29 (va : Word) (k : BitVec 3) : (fieldOf va 29 3 = k) ↔ va.toNat / 2^29 = k.toNat := by
  unfold fieldOf
  rw [← BitVec.toNat_inj]
  simp [BitVec.extractLsb'_toNat, Nat.shiftRight_eq_div_pow]
  have := va.isLt
  omega

/-- The cacheable attributes (R31). -/
theorem cacheable_eq (c : BitVec 3) : cacheable c = (c != 2 && c != 7) := by
  revert c; decide
/-- The legal page tlbMasksLegal_of (R433). -/
theorem legalMask_iff (m : BitVec 12) : legalMask m = true ↔ ∃ k, k ≤ 6 ∧ m.toNat = 4 ^ k - 1 := by
  constructor
  · intro h
    unfold legalMask at h
    simp at h
    rcases h with (((((h | h) | h) | h) | h) | h) | h
    · exact ⟨0, by omega, by rw [h]; rfl⟩
    · exact ⟨1, by omega, by rw [h]; rfl⟩
    · exact ⟨2, by omega, by rw [h]; rfl⟩
    · exact ⟨3, by omega, by rw [h]; rfl⟩
    · exact ⟨4, by omega, by rw [h]; rfl⟩
    · exact ⟨5, by omega, by rw [h]; rfl⟩
    · exact ⟨6, by omega, by rw [h]; rfl⟩
  · rintro ⟨k, hk, h⟩
    have : m = BitVec.ofNat 12 (4^k-1) := by rw [← h]; simp
    have h2 : ∀ k, k ≤ 6 → legalMask (BitVec.ofNat 12 (4^k-1)) = true := by decide
    rw [this]; exact h2 k hk

/-- The model's test of the page masks. -/
theorem tlbMasksLegal_of (s) (h : TlbMasksLegal s) : s.tlbMasksLegal = true := by
  unfold State.tlbMasksLegal
  rw [List.all_eq_true]
  intro i _
  cases hi : s.tlb[i].init
  · rfl
  · have := (legalMask_iff s.tlb[i].mask).2 (h i hi)
    rw [this]; rfl

/-- The model's match is R432's. -/
theorem hits_iff (s : State) (i : Fin 16) (v : BitVec 19) : s.tlb[i].hits v s.asid = true ↔ TlbMatches s i v := by
  unfold TlbEntry.hits TlbMatches sameVpn State.asid
  generalize s.tlb[i] = e
  simp only [Bool.and_eq_true, Bool.or_eq_true, beq_iff_eq]
  have : ((v ^^^ e.vpn2) &&& ~~~BitVec.setWidth 19 e.mask = 0) ↔ (v &&& ~~~BitVec.setWidth 19 e.mask = e.vpn2 &&& ~~~BitVec.setWidth 19 e.mask) := by
    generalize ~~~BitVec.setWidth 19 e.mask = m
    constructor
    · intro h
      ext j hj
      have := congrArg (fun x => x.getLsbD j) h
      simp [hj] at this
      simp
      grind
    · intro h
      ext j hj
      have := congrArg (fun x => x.getLsbD j) h
      simp [hj] at this
      simp
      grind
  rw [this, and_assoc]; rfl

/-- No entry is found. -/
theorem tlbFind_none (s : State) (v : BitVec 19) : s.tlbFind v = none ↔ ∀ i, ¬ TlbMatches s i v := by
  unfold State.tlbFind
  rw [List.find?_eq_none]
  simp only [hits_iff, List.mem_finRange, forall_true_left]

/-- The lowest entry is found (D15). -/
theorem tlbFind_some (s : State) (v : BitVec 19) (i : Fin 16) (h : TlbFirst s i v) : s.tlbFind v = some i := by
  unfold State.tlbFind
  rw [List.find?_eq_some_iff_getElem]
  refine ⟨by rw [hits_iff]; exact h.1, i.val, by simp, by simp, ?_⟩
  intro j hj
  have := h.2 ⟨j, by omega⟩ (by rw [Fin.lt_def]; exact hj)
  rw [← hits_iff] at this
  simpa using this

/-- The page and the address of an entry whose mask stands for 12 + 2 * k offset bits (R432, R433). -/
theorem TlbEntry.translate_toNat (e : TlbEntry) (va : Word) (k : Nat) (hk : e.mask.toNat = 4 ^ k - 1) (hk' : k ≤ 6) :
  e.page va = (if va.getLsbD (12 + 2 * k) then e.page1 else e.page0) ∧
  (e.translate va).toNat = (e.page va).pfn.toNat * 4096 / 2 ^ (12 + 2*k) * 2 ^ (12 + 2*k) + va.toNat % 2 ^ (12 + 2*k) := by
  have hm : e.offsetMask = BitVec.ofNat 32 (2 ^ (12 + 2*k) - 1) := by
    unfold TlbEntry.offsetMask zext
    have : e.mask = BitVec.ofNat 12 (4^k-1) := by rw [← hk]; simp
    rw [this]
    have h2 : ∀ k, k ≤ 6 → (BitVec.setWidth 32 (BitVec.ofNat 12 (4 ^ k - 1)) <<< 12 ||| 0xFFF) = BitVec.ofNat 32 (2 ^ (12 + 2*k) - 1) := by decide
    exact h2 k hk'
  have hlow : ∀ k, k ≤ 6 → ∀ j, j < 32 → (BitVec.ofNat 32 (2 ^ (12 + 2*k) - 1)).getLsbD j = decide (j < 12 + 2*k) := by decide
  constructor
  · unfold TlbEntry.page
    rw [hm]
    have h1 : BitVec.ofNat 32 (2 ^ (12 + 2*k) - 1) + 1 = BitVec.twoPow 32 (12 + 2*k) := by
      have h2 : ∀ k, k ≤ 6 → BitVec.ofNat 32 (2 ^ (12 + 2*k) - 1) + 1 = BitVec.twoPow 32 (12 + 2*k) := by decide
      exact h2 k hk'
    rw [h1, BitVec.and_twoPow]
    cases h : va.getLsbD (12 + 2*k)
    · simp
    · simp only [if_true]
      rw [if_neg]
      have h2 : ∀ k, k ≤ 6 → BitVec.twoPow 32 (12 + 2*k) ≠ 0 := by decide
      exact h2 k hk'
  · unfold TlbEntry.translate mergeBits
    rw [hm]
    set p := (e.page va).pfn
    generalize hn : 12 + 2*k = n at *
    have e1 : ((va &&& BitVec.ofNat 32 (2^n-1)) ||| ((p ++ 0#12) &&& ~~~ (BitVec.ofNat 32 (2^n-1)))).toNat = (va.toNat % 2^n) ||| (((p.toNat * 4096) / 2^n) <<< n) := by
      apply Nat.eq_of_testBit_eq
      intro j
      rw [BitVec.testBit_toNat]
      simp only [BitVec.getLsbD_or, BitVec.getLsbD_and, BitVec.getLsbD_not, Nat.testBit_or, Nat.testBit_mod_two_pow, Nat.testBit_shiftLeft, Nat.testBit_div_two_pow]
      by_cases hj : j < 32
      · have := hlow k hk' j hj
        rw [hn] at this
        rw [this]
        have e2 : (p ++ 0#12).getLsbD j = (p.toNat * 4096).testBit j := by
          rw [BitVec.getLsbD, BitVec.toNat_append]
          simp [Nat.shiftLeft_eq]
        rw [e2]
        by_cases hjn : j < n
        · simp [hj, hjn, BitVec.getLsbD]
        · have : n ≤ j := by omega
          simp [hj, hjn, this]
      · have h1 : va.toNat.testBit j = false := by
          apply Nat.testBit_lt_two_pow; have := va.isLt
          calc _ < 2^32 := this
               _ ≤ _ := Nat.pow_le_pow_right (by omega) (by omega)
        have h2 : (p.toNat * 4096).testBit j = false := by
          apply Nat.testBit_lt_two_pow; have := p.isLt
          calc _ < 2^32 := by omega
               _ ≤ _ := Nat.pow_le_pow_right (by omega) (by omega)
        rw [show va.getLsbD j = false from h1, h1]
        simp [hj]
        by_cases hjn : n ≤ j
        · simp [hjn, h2]
        · simp [hjn]
    rw [e1, Nat.or_comm, ← Nat.shiftLeft_add_eq_or_of_lt (Nat.mod_lt _ (by positivity)), Nat.shiftLeft_eq]

end Sys2Proof.Machine
end

