-- ==== Sys2Proof/Tests/Slice0.lean ====
section
/-! SUPPORT. Slice0: the model's own tests: decoding of words written out from the spec's encodings, the checks of WellFormed, one
step of each instruction on a small state with results worked out by hand from the spec's rules, and for each statement with
hypotheses a state and operands that meet them. -/

namespace Sys2Proof.Tests

open Sys2Proof Sys2Proof.Machine

/-! ## Decoding: words written bit by bit from the encodings -/

/-- Arithmetic and logic: opcodes and functions of R522 to R539, fields from the most significant to the least. -/
theorem test_decode_arithmetic :
    decode 0b000000_00001_00010_00011_00000_100000 = .ok (.add 1 2 3) ∧
    decode 0b001000_00001_00010_1000000000000001 = .ok (.addi 1 2 0x8001) ∧
    decode 0b001001_00001_00010_1000000000000001 = .ok (.addiu 1 2 0x8001) ∧
    decode 0b000000_00001_00010_00011_00000_100001 = .ok (.addu 1 2 3) ∧
    decode 0b000000_00001_00010_00011_00000_100010 = .ok (.sub 1 2 3) ∧
    decode 0b000000_00001_00010_00011_00000_100011 = .ok (.subu 1 2 3) ∧
    decode 0b000000_00001_00010_00011_00000_101010 = .ok (.slt 1 2 3) ∧
    decode 0b001010_00001_00010_1000000000000001 = .ok (.slti 1 2 0x8001) ∧
    decode 0b001011_00001_00010_1000000000000001 = .ok (.sltiu 1 2 0x8001) ∧
    decode 0b000000_00001_00010_00011_00000_101011 = .ok (.sltu 1 2 3) ∧
    decode 0b000000_00001_00010_00011_00000_100100 = .ok (.andr 1 2 3) ∧
    decode 0b001100_00001_00010_1000000000000001 = .ok (.andi 1 2 0x8001) ∧
    decode 0b000000_00001_00010_00011_00000_100101 = .ok (.orr 1 2 3) ∧
    decode 0b001101_00001_00010_1000000000000001 = .ok (.ori 1 2 0x8001) ∧
    decode 0b000000_00001_00010_00011_00000_100110 = .ok (.xorr 1 2 3) ∧
    decode 0b001110_00001_00010_1000000000000001 = .ok (.xori 1 2 0x8001) ∧
    decode 0b000000_00001_00010_00011_00000_100111 = .ok (.norr 1 2 3) ∧
    decode 0b001111_00000_00010_1000000000000001 = .ok (.lui 2 0x8001) := by
  decide

/-- Shifts (R540 to R545). -/
theorem test_decode_shifts :
    decode 0b000000_00000_00010_00011_00101_000000 = .ok (.sll 2 3 5) ∧
    decode 0b000000_00000_00010_00011_00101_000010 = .ok (.srl 2 3 5) ∧
    decode 0b000000_00000_00010_00011_00101_000011 = .ok (.sra 2 3 5) ∧
    decode 0b000000_00001_00010_00011_00000_000100 = .ok (.sllv 1 2 3) ∧
    decode 0b000000_00001_00010_00011_00000_000110 = .ok (.srlv 1 2 3) ∧
    decode 0b000000_00001_00010_00011_00000_000111 = .ok (.srav 1 2 3) := by
  decide

/-- Multiply, divide, HI and LO, leading bits: SPECIAL and SPECIAL2 (R547 to R561). -/
theorem test_decode_multiply :
    decode 0b000000_00001_00010_00000_00000_011000 = .ok (.mult 1 2) ∧
    decode 0b000000_00001_00010_00000_00000_011001 = .ok (.multu 1 2) ∧
    decode 0b011100_00001_00010_00011_00000_000010 = .ok (.mul 1 2 3) ∧
    decode 0b011100_00001_00010_00000_00000_000000 = .ok (.madd 1 2) ∧
    decode 0b011100_00001_00010_00000_00000_000001 = .ok (.maddu 1 2) ∧
    decode 0b011100_00001_00010_00000_00000_000100 = .ok (.msub 1 2) ∧
    decode 0b011100_00001_00010_00000_00000_000101 = .ok (.msubu 1 2) ∧
    decode 0b000000_00001_00010_00000_00000_011010 = .ok (.div 1 2) ∧
    decode 0b000000_00001_00010_00000_00000_011011 = .ok (.divu 1 2) ∧
    decode 0b000000_00000_00000_00011_00000_010000 = .ok (.mfhi 3) ∧
    decode 0b000000_00000_00000_00011_00000_010010 = .ok (.mflo 3) ∧
    decode 0b000000_00001_00000_00000_00000_010001 = .ok (.mthi 1) ∧
    decode 0b000000_00001_00000_00000_00000_010011 = .ok (.mtlo 1) ∧
    decode 0b011100_00001_00010_00011_00000_100000 = .ok (.clz 1 2 3) ∧
    decode 0b011100_00001_00010_00011_00000_100001 = .ok (.clo 1 2 3) := by
  decide

/-- Conditional moves, jumps and branches: SPECIAL, REGIMM and their own opcodes (R562 to R565, R610 to R630). -/
theorem test_decode_moves_and_jumps :
    decode 0b000000_00001_00010_00011_00000_001011 = .ok (.movn 1 2 3) ∧
    decode 0b000000_00001_00010_00011_00000_001010 = .ok (.movz 1 2 3) ∧
    decode 0b000000_00001_101_00_00011_00000_000001 = .ok (.movf 1 5 3) ∧
    decode 0b000000_00001_101_01_00011_00000_000001 = .ok (.movt 1 5 3) ∧
    decode 0b000010_10000000000000000000000011 = .ok (.j 0x2000003) ∧
    decode 0b000011_10000000000000000000000011 = .ok (.jal 0x2000003) ∧
    decode 0b000000_00001_00000_00000_01001_001000 = .ok (.jr 1 9) ∧
    decode 0b000000_00001_00000_00011_01001_001001 = .ok (.jalr 1 3 9) ∧
    decode 0b000100_00001_00010_1111111111110000 = .ok (.beq 1 2 0xfff0) ∧
    decode 0b000101_00001_00010_1111111111110000 = .ok (.bne 1 2 0xfff0) ∧
    decode 0b000110_00001_00000_1111111111110000 = .ok (.blez 1 0xfff0) ∧
    decode 0b000111_00001_00000_1111111111110000 = .ok (.bgtz 1 0xfff0) ∧
    decode 0b000001_00001_00000_1111111111110000 = .ok (.bltz 1 0xfff0) ∧
    decode 0b000001_00001_00001_1111111111110000 = .ok (.bgez 1 0xfff0) ∧
    decode 0b000001_00001_10000_1111111111110000 = .ok (.bltzal 1 0xfff0) ∧
    decode 0b000001_00001_10001_1111111111110000 = .ok (.bgezal 1 0xfff0) ∧
    decode 0b010100_00001_00010_1111111111110000 = .ok (.beql 1 2 0xfff0) ∧
    decode 0b010101_00001_00010_1111111111110000 = .ok (.bnel 1 2 0xfff0) ∧
    decode 0b010110_00001_00000_1111111111110000 = .ok (.blezl 1 0xfff0) ∧
    decode 0b010111_00001_00000_1111111111110000 = .ok (.bgtzl 1 0xfff0) ∧
    decode 0b000001_00001_00010_1111111111110000 = .ok (.bltzl 1 0xfff0) ∧
    decode 0b000001_00001_00011_1111111111110000 = .ok (.bgezl 1 0xfff0) ∧
    decode 0b000001_00001_10010_1111111111110000 = .ok (.bltzall 1 0xfff0) ∧
    decode 0b000001_00001_10011_1111111111110000 = .ok (.bgezall 1 0xfff0) := by
  decide

/-- Loads, stores, LL, SC, PREF, SYNC (R655 to R671). -/
theorem test_decode_memory :
    decode 0b100000_00100_00010_1111111111110000 = .ok (.lb 4 2 0xfff0) ∧
    decode 0b100100_00100_00010_1111111111110000 = .ok (.lbu 4 2 0xfff0) ∧
    decode 0b100001_00100_00010_1111111111110000 = .ok (.lh 4 2 0xfff0) ∧
    decode 0b100101_00100_00010_1111111111110000 = .ok (.lhu 4 2 0xfff0) ∧
    decode 0b100011_00100_00010_1111111111110000 = .ok (.lw 4 2 0xfff0) ∧
    decode 0b100010_00100_00010_1111111111110000 = .ok (.lwl 4 2 0xfff0) ∧
    decode 0b100110_00100_00010_1111111111110000 = .ok (.lwr 4 2 0xfff0) ∧
    decode 0b101000_00100_00010_1111111111110000 = .ok (.sb 4 2 0xfff0) ∧
    decode 0b101001_00100_00010_1111111111110000 = .ok (.sh 4 2 0xfff0) ∧
    decode 0b101011_00100_00010_1111111111110000 = .ok (.sw 4 2 0xfff0) ∧
    decode 0b101010_00100_00010_1111111111110000 = .ok (.swl 4 2 0xfff0) ∧
    decode 0b101110_00100_00010_1111111111110000 = .ok (.swr 4 2 0xfff0) ∧
    decode 0b110000_00100_00010_1111111111110000 = .ok (.ll 4 2 0xfff0) ∧
    decode 0b111000_00100_00010_1111111111110000 = .ok (.sc 4 2 0xfff0) ∧
    decode 0b110011_00100_01001_1111111111110000 = .ok (.pref 4 9 0xfff0) ∧
    decode 0b000000_00000_00000_00000_10001_001111 = .ok (.sync 17) := by
  decide

/-- SYSCALL, BREAK and the traps (R701 to R715). -/
theorem test_decode_traps :
    decode 0b000000_10100000111100000101_001100 = .ok (.syscall 0xa0f05) ∧
    decode 0b000000_10100000111100000101_001101 = .ok (.brk 0xa0f05) ∧
    decode 0b000000_00001_00010_0101010101_110100 = .ok (.teq 1 2 0x155) ∧
    decode 0b000000_00001_00010_0101010101_110110 = .ok (.tne 1 2 0x155) ∧
    decode 0b000000_00001_00010_0101010101_110000 = .ok (.tge 1 2 0x155) ∧
    decode 0b000000_00001_00010_0101010101_110001 = .ok (.tgeu 1 2 0x155) ∧
    decode 0b000000_00001_00010_0101010101_110010 = .ok (.tlt 1 2 0x155) ∧
    decode 0b000000_00001_00010_0101010101_110011 = .ok (.tltu 1 2 0x155) ∧
    decode 0b000001_00001_01100_1000000000000001 = .ok (.teqi 1 0x8001) ∧
    decode 0b000001_00001_01110_1000000000000001 = .ok (.tnei 1 0x8001) ∧
    decode 0b000001_00001_01000_1000000000000001 = .ok (.tgei 1 0x8001) ∧
    decode 0b000001_00001_01001_1000000000000001 = .ok (.tgeiu 1 0x8001) ∧
    decode 0b000001_00001_01010_1000000000000001 = .ok (.tlti 1 0x8001) ∧
    decode 0b000001_00001_01011_1000000000000001 = .ok (.tltiu 1 0x8001) := by
  decide

/-- CP0, TLB, CACHE, WAIT (R716 to R731). -/
theorem test_decode_system :
    decode 0b010000_00000_00010_00011_00000_000_011 = .ok (.mfc0 2 3 3) ∧
    decode 0b010000_10000_00000_00000_00000_011000 = .ok .eret ∧
    decode 0b010000_00100_00010_00011_00000_000_011 = .ok (.mtc0 2 3 3) ∧
    decode 0b010000_10000_00000_00000_00000_001000 = .ok .tlbp ∧
    decode 0b010000_10000_00000_00000_00000_000001 = .ok .tlbr ∧
    decode 0b010000_10000_00000_00000_00000_000010 = .ok .tlbwi ∧
    decode 0b010000_10000_00000_00000_00000_000110 = .ok .tlbwr ∧
    decode 0b101111_00100_10101_1111111111110000 = .ok (.cache 4 21 0xfff0) ∧
    decode 0b010000_1_1010000111100000101_100000 = .ok (.wait 0x50f05) := by
  decide

/-- FPU arithmetic and conversions: COP1 with fmt S, D, W (R765 to R798). -/
theorem test_decode_fpu_arithmetic :
    decode 0b010001_10000_00110_01000_01010_000000 = .ok (.addS 6 8 10) ∧
    decode 0b010001_10001_00110_01000_01010_000000 = .ok (.addD 6 8 10) ∧
    decode 0b010001_10000_00110_01000_01010_000001 = .ok (.subS 6 8 10) ∧
    decode 0b010001_10001_00110_01000_01010_000001 = .ok (.subD 6 8 10) ∧
    decode 0b010001_10000_00110_01000_01010_000010 = .ok (.mulS 6 8 10) ∧
    decode 0b010001_10001_00110_01000_01010_000010 = .ok (.mulD 6 8 10) ∧
    decode 0b010001_10000_00110_01000_01010_000011 = .ok (.divS 6 8 10) ∧
    decode 0b010001_10001_00110_01000_01010_000011 = .ok (.divD 6 8 10) ∧
    decode 0b010001_10000_00000_01000_01010_000100 = .ok (.sqrtS 8 10) ∧
    decode 0b010001_10001_00000_01000_01010_000100 = .ok (.sqrtD 8 10) ∧
    decode 0b010001_10000_00000_01000_01010_000101 = .ok (.absS 8 10) ∧
    decode 0b010001_10001_00000_01000_01010_000101 = .ok (.absD 8 10) ∧
    decode 0b010001_10000_00000_01000_01010_000111 = .ok (.negS 8 10) ∧
    decode 0b010001_10001_00000_01000_01010_000111 = .ok (.negD 8 10) ∧
    decode 0b010001_10000_00000_01000_01010_000110 = .ok (.movS 8 10) ∧
    decode 0b010001_10001_00000_01000_01010_000110 = .ok (.movD 8 10) ∧
    decode 0b010001_10001_00000_01000_01010_100000 = .ok (.cvtSD 8 10) ∧
    decode 0b010001_10100_00000_01000_01010_100000 = .ok (.cvtSW 8 10) ∧
    decode 0b010001_10000_00000_01000_01010_100001 = .ok (.cvtDS 8 10) ∧
    decode 0b010001_10100_00000_01000_01010_100001 = .ok (.cvtDW 8 10) ∧
    decode 0b010001_10000_00000_01000_01010_100100 = .ok (.cvtWS 8 10) ∧
    decode 0b010001_10001_00000_01000_01010_100100 = .ok (.cvtWD 8 10) ∧
    decode 0b010001_10000_00000_01000_01010_001100 = .ok (.roundWS 8 10) ∧
    decode 0b010001_10001_00000_01000_01010_001100 = .ok (.roundWD 8 10) ∧
    decode 0b010001_10000_00000_01000_01010_001101 = .ok (.truncWS 8 10) ∧
    decode 0b010001_10001_00000_01000_01010_001101 = .ok (.truncWD 8 10) ∧
    decode 0b010001_10000_00000_01000_01010_001110 = .ok (.ceilWS 8 10) ∧
    decode 0b010001_10001_00000_01000_01010_001110 = .ok (.ceilWD 8 10) ∧
    decode 0b010001_10000_00000_01000_01010_001111 = .ok (.floorWS 8 10) ∧
    decode 0b010001_10001_00000_01000_01010_001111 = .ok (.floorWD 8 10) := by
  decide

/-- FPU transfers, loads and stores, conditional moves and branches (R799 to R824). -/
theorem test_decode_fpu_moves :
    decode 0b010001_00000_00010_01000_00000_000000 = .ok (.mfc1 2 8) ∧
    decode 0b010001_00100_00010_01000_00000_000000 = .ok (.mtc1 2 8) ∧
    decode 0b010001_00010_00010_01000_00000_000000 = .ok (.cfc1 2 8) ∧
    decode 0b010001_00110_00010_01000_00000_000000 = .ok (.ctc1 2 8) ∧
    decode 0b110001_00100_00110_1111111111110000 = .ok (.lwc1 4 6 0xfff0) ∧
    decode 0b111001_00100_00110_1111111111110000 = .ok (.swc1 4 6 0xfff0) ∧
    decode 0b110101_00100_00110_1111111111110000 = .ok (.ldc1 4 6 0xfff0) ∧
    decode 0b111101_00100_00110_1111111111110000 = .ok (.sdc1 4 6 0xfff0) ∧
    decode 0b010001_10000_101_00_01000_01010_010001 = .ok (.movfS 5 8 10) ∧
    decode 0b010001_10001_101_00_01000_01010_010001 = .ok (.movfD 5 8 10) ∧
    decode 0b010001_10000_101_01_01000_01010_010001 = .ok (.movtS 5 8 10) ∧
    decode 0b010001_10001_101_01_01000_01010_010001 = .ok (.movtD 5 8 10) ∧
    decode 0b010001_10000_00010_01000_01010_010011 = .ok (.movnS 2 8 10) ∧
    decode 0b010001_10001_00010_01000_01010_010011 = .ok (.movnD 2 8 10) ∧
    decode 0b010001_10000_00010_01000_01010_010010 = .ok (.movzS 2 8 10) ∧
    decode 0b010001_10001_00010_01000_01010_010010 = .ok (.movzD 2 8 10) ∧
    decode 0b010001_01000_101_00_1111111111110000 = .ok (.bc1f 5 0xfff0) ∧
    decode 0b010001_01000_101_01_1111111111110000 = .ok (.bc1t 5 0xfff0) ∧
    decode 0b010001_01000_101_10_1111111111110000 = .ok (.bc1fl 5 0xfff0) ∧
    decode 0b010001_01000_101_11_1111111111110000 = .ok (.bc1tl 5 0xfff0) := by
  decide

/-- FPU compares: the condition in bits 3:0 (R826 to R841). -/
theorem test_decode_fpu_compares_single :
    decode 0b010001_10000_00110_01000_101_00_110000 = .ok (.cFS 6 8 5) ∧
    decode 0b010001_10001_00110_01000_101_00_110000 = .ok (.cFD 6 8 5) ∧
    decode 0b010001_10000_00110_01000_101_00_110001 = .ok (.cUnS 6 8 5) ∧
    decode 0b010001_10001_00110_01000_101_00_110001 = .ok (.cUnD 6 8 5) ∧
    decode 0b010001_10000_00110_01000_101_00_110010 = .ok (.cEqS 6 8 5) ∧
    decode 0b010001_10001_00110_01000_101_00_110010 = .ok (.cEqD 6 8 5) ∧
    decode 0b010001_10000_00110_01000_101_00_110011 = .ok (.cUeqS 6 8 5) ∧
    decode 0b010001_10001_00110_01000_101_00_110011 = .ok (.cUeqD 6 8 5) ∧
    decode 0b010001_10000_00110_01000_101_00_110100 = .ok (.cOltS 6 8 5) ∧
    decode 0b010001_10001_00110_01000_101_00_110100 = .ok (.cOltD 6 8 5) ∧
    decode 0b010001_10000_00110_01000_101_00_110101 = .ok (.cUltS 6 8 5) ∧
    decode 0b010001_10001_00110_01000_101_00_110101 = .ok (.cUltD 6 8 5) ∧
    decode 0b010001_10000_00110_01000_101_00_110110 = .ok (.cOleS 6 8 5) ∧
    decode 0b010001_10001_00110_01000_101_00_110110 = .ok (.cOleD 6 8 5) ∧
    decode 0b010001_10000_00110_01000_101_00_110111 = .ok (.cUleS 6 8 5) ∧
    decode 0b010001_10001_00110_01000_101_00_110111 = .ok (.cUleD 6 8 5) ∧
    decode 0b010001_10000_00110_01000_101_00_111000 = .ok (.cSfS 6 8 5) ∧
    decode 0b010001_10001_00110_01000_101_00_111000 = .ok (.cSfD 6 8 5) ∧
    decode 0b010001_10000_00110_01000_101_00_111001 = .ok (.cNgleS 6 8 5) ∧
    decode 0b010001_10001_00110_01000_101_00_111001 = .ok (.cNgleD 6 8 5) ∧
    decode 0b010001_10000_00110_01000_101_00_111010 = .ok (.cSeqS 6 8 5) ∧
    decode 0b010001_10001_00110_01000_101_00_111010 = .ok (.cSeqD 6 8 5) ∧
    decode 0b010001_10000_00110_01000_101_00_111011 = .ok (.cNglS 6 8 5) ∧
    decode 0b010001_10001_00110_01000_101_00_111011 = .ok (.cNglD 6 8 5) ∧
    decode 0b010001_10000_00110_01000_101_00_111100 = .ok (.cLtS 6 8 5) ∧
    decode 0b010001_10001_00110_01000_101_00_111100 = .ok (.cLtD 6 8 5) ∧
    decode 0b010001_10000_00110_01000_101_00_111101 = .ok (.cNgeS 6 8 5) ∧
    decode 0b010001_10001_00110_01000_101_00_111101 = .ok (.cNgeD 6 8 5) ∧
    decode 0b010001_10000_00110_01000_101_00_111110 = .ok (.cLeS 6 8 5) ∧
    decode 0b010001_10001_00110_01000_101_00_111110 = .ok (.cLeD 6 8 5) ∧
    decode 0b010001_10000_00110_01000_101_00_111111 = .ok (.cNgtS 6 8 5) ∧
    decode 0b010001_10001_00110_01000_101_00_111111 = .ok (.cNgtD 6 8 5) := by
  decide

/-- Words that are no instruction are refused by name: an unassigned opcode, and a nonzero field that must be zero (R495, R496). -/
theorem test_decode_refuses :
    (decode 0b000000_00001_00010_00011_00001_100000).toOption = none ∧
    (decode 0b000000_00000_00010_00011_00101_000001).toOption = none ∧
    (decode 0b111111_00000_00000_0000000000000000).toOption = none ∧
    (decode 0b001111_00001_00010_0000000000000000).toOption = none ∧
    (decode 0b010000_00000_00010_01100_00000_001000).toOption = none ∧
    (decode 0b010001_10001_00000_00010_00100_010001).toOption = some (.movfD 0 2 4) ∧
    (decode 0b010001_10001_00010_00010_00100_010001).toOption = none := by
  decide

/-- The host's entry: the word of a table row, bit 0 the least significant (R400). -/
theorem test_decodeTableWord :
    decodeTableWord 32 0x2404FFFF = some (.addiu 0 4 0xFFFF) ∧ decodeTableWord 32 0xFC000000 = none := by
  decide

/-! ## WellFormed refuses -/

/-- A link register that is the source (R604b). -/
theorem test_wf_link :
    (Instr.jalr 5 5 0).wellFormed = false ∧ (Instr.bltzal 31 0).wellFormed = false ∧ (Instr.bgezal 31 0).wellFormed = false ∧
    (Instr.bltzall 31 0).wellFormed = false ∧ (Instr.bgezall 31 0).wellFormed = false ∧
    (Instr.jalr 5 31 0).wellFormed = true ∧ (Instr.bltzal 30 0).wellFormed = true := by
  decide

/-- An odd register number: in each operand place of three, two and one operands (R753). -/
theorem test_wf_fpr :
    (Instr.addS 1 2 4).wellFormed = false ∧ (Instr.addD 2 1 4).wellFormed = false ∧ (Instr.mulS 2 4 1).wellFormed = false ∧
    (Instr.sqrtD 3 2).wellFormed = false ∧ (Instr.cvtWS 2 3).wellFormed = false ∧ (Instr.movD 1 2).wellFormed = false ∧
    (Instr.movnS 1 3 2).wellFormed = false ∧ (Instr.movtD 0 2 31).wellFormed = false ∧ (Instr.cLtD 1 2 0).wellFormed = false ∧
    (Instr.cEqS 2 1 0).wellFormed = false ∧ (Instr.ldc1 4 1 0).wellFormed = false ∧ (Instr.sdc1 4 1 0).wellFormed = false ∧
    (Instr.lwc1 4 1 0).wellFormed = true ∧ (Instr.mtc1 1 1).wellFormed = true := by
  decide

/-! ## One step of each instruction -/

/-- Kernel mode with the FPU on, some registers set, and eight bytes in CRAM at physical address 0x18000000. Of the FPU: f0 = 1.5,
f2 = 2.25, f8 = -1.5 and the word 7 in f12; in pairs f4 = 1.5, f6 = 2.5, f10 = 2.25. -/
def small : State :=
  { State.reset with
    gpr := #v[0, 7, 0xFFFFFFFD, 0x7FFFFFFF, 0xB8000000, 0x80000000, 0x00FF00F0, 4, 0, 0, 0, 0, 0, 0, 0, 0, 0, 0, 0, 0, 0, 0, 0, 0,
      0, 0, 0, 0, 0, 0, 0, 0]
    fgr := #v[0x3FC00000, 0, 0x40100000, 0, 0, 0x3FF80000, 0, 0x40040000, 0xBFC00000, 0, 0, 0x40020000, 7, 0, 0, 0, 0, 0, 0, 0, 0,
      0, 0, 0, 0, 0, 0, 0, 0, 0, 0, 0]
    pc := 0x80001000
    lo := 5
    cp0 := { Cp0.reset with status := 0x20000000 }
    mem := [(0x18000000, 0x88), (0x18000001, 0x77), (0x18000002, 0x66), (0x18000003, 0xF5),
      (0x18000004, 0x44), (0x18000005, 0x33), (0x18000006, 0x22), (0x18000007, 0x11)] }

/-- A view of the state after an instruction; none when the instruction does not answer a next state. -/
def after {α : Type} (i : Instr) (f : State → α) (s : State := small) : Option α :=
  match exec i s with
  | .next t => some (f t)
  | _ => none

/-- The register d after an instruction. -/
def gprAfter (i : Instr) (d : GprNum) : Option Word := after i fun t => t.readGpr d

/-- HI and LO after an instruction. -/
def accAfter (i : Instr) : Option (Word × Word) := after i fun t => (t.hi, t.lo)

/-- PC and the sequencing state after an instruction. -/
def flowAfter (i : Instr) : Option (Word × Slot) := after i fun t => (t.pc, t.slot)

/-- PC and the exception code after an instruction. -/
def trapAfter (i : Instr) (s : State := small) : Option (Word × BitVec 5) :=
  after i (fun t => (t.pc, t.cp0.cause.extractLsb' 2 5)) s

/-- The word of memory at 0x18000000 and the next one after an instruction. -/
def memAfter (i : Instr) : Option (Word × Word) := after i fun t => (wordAt t 0x18000000, wordAt t 0x18000004)

/-- The FPU register d and FCSR after an instruction. -/
def fgrAfter (i : Instr) (d : FprNum) : Option (Word × Word) := after i fun t => (t.readFgr d, t.fcsr)

/-- The pair d and FCSR after an instruction. -/
def fprAfter (i : Instr) (d : FprNum) : Option (Dword × Word) := after i fun t => (t.readFpr d, t.fcsr)

theorem test_add_sub :
    gprAfter (.add 1 2 8) 8 = some 4 ∧ gprAfter (.addi 1 8 0xFFFE) 8 = some 5 ∧ gprAfter (.sub 1 2 8) 8 = some 10 ∧
    gprAfter (.addiu 3 8 1) 8 = some 0x80000000 ∧ gprAfter (.addu 3 1 8) 8 = some 0x80000006 ∧
    gprAfter (.subu 0 1 8) 8 = some 0xFFFFFFF9 ∧ gprAfter (.addu 1 1 0) 0 = some 0 := by
  decide

theorem test_overflow :
    trapAfter (.add 3 1 8) = some (0x80000180, 12) ∧ trapAfter (.addi 3 8 1) = some (0x80000180, 12) ∧
    trapAfter (.sub 5 1 8) = some (0x80000180, 12) ∧ gprAfter (.add 3 1 8) 8 = some 0 := by
  decide

theorem test_compares :
    gprAfter (.slt 2 1 8) 8 = some 1 ∧ gprAfter (.sltu 2 1 8) 8 = some 0 ∧ gprAfter (.slti 2 8 0xFFFF) 8 = some 1 ∧
    gprAfter (.sltiu 1 8 0xFFFF) 8 = some 1 := by
  decide

theorem test_logic :
    gprAfter (.andr 6 2 8) 8 = some 0x00FF00F0 ∧ gprAfter (.andi 2 8 0xF0F0) 8 = some 0xF0F0 ∧
    gprAfter (.orr 6 1 8) 8 = some 0x00FF00F7 ∧ gprAfter (.ori 6 8 0x8001) 8 = some 0x00FF80F1 ∧
    gprAfter (.xorr 6 2 8) 8 = some 0xFF00FF0D ∧ gprAfter (.xori 2 8 0xFFFF) 8 = some 0xFFFF0002 ∧
    gprAfter (.norr 6 1 8) 8 = some 0xFF00FF08 ∧ gprAfter (.lui 8 0x8001) 8 = some 0x80010000 := by
  decide

theorem test_shifts :
    gprAfter (.sll 1 8 4) 8 = some 0x70 ∧ gprAfter (.srl 5 8 4) 8 = some 0x08000000 ∧
    gprAfter (.sra 5 8 4) 8 = some 0xF8000000 ∧ gprAfter (.sllv 6 1 8) 8 = some 0x00070000 ∧
    gprAfter (.srlv 7 2 8) 8 = some 0x0FFFFFFF ∧ gprAfter (.srav 7 2 8) 8 = some 0xFFFFFFFF := by
  decide

theorem test_multiply :
    accAfter (.mult 1 2) = some (0xFFFFFFFF, 0xFFFFFFEB) ∧ accAfter (.multu 1 2) = some (6, 0xFFFFFFEB) ∧
    gprAfter (.mul 1 2 8) 8 = some 0xFFFFFFEB ∧ accAfter (.madd 1 2) = some (0xFFFFFFFF, 0xFFFFFFF0) ∧
    accAfter (.maddu 1 2) = some (6, 0xFFFFFFF0) ∧ accAfter (.msub 1 2) = some (0, 0x1A) ∧
    accAfter (.msubu 1 2) = some (0xFFFFFFF9, 0x1A) := by
  decide

theorem test_divide :
    accAfter (.div 1 2) = some (1, 0xFFFFFFFE) ∧ accAfter (.divu 2 1) = some (1, 613566756) ∧
    (after (.div 1 0) fun t => t.pc) = some 0x80001004 ∧ (after (.divu 1 0) fun t => t.pc) = some 0x80001004 := by
  decide

theorem test_hi_lo :
    gprAfter (.mflo 8) 8 = some 5 ∧ gprAfter (.mfhi 8) 8 = some 0 ∧ accAfter (.mthi 1) = some (7, 5) ∧
    accAfter (.mtlo 1) = some (0, 7) := by
  decide

theorem test_leading_and_moves :
    gprAfter (.clz 6 0 8) 8 = some 8 ∧ gprAfter (.clo 2 0 8) 8 = some 30 ∧ gprAfter (.clz 0 0 8) 8 = some 32 ∧
    gprAfter (.movn 1 0 6) 6 = some 0x00FF00F0 ∧ gprAfter (.movn 1 2 6) 6 = some 7 ∧ gprAfter (.movz 1 0 6) 6 = some 7 ∧
    gprAfter (.movf 1 0 6) 6 = some 7 ∧ gprAfter (.movt 1 0 6) 6 = some 0x00FF00F0 := by
  decide

theorem test_jumps :
    flowAfter (.j 3) = some (0x80001004, .taken 0x8000000C) ∧ flowAfter (.jal 3) = some (0x80001004, .taken 0x8000000C) ∧
    gprAfter (.jal 3) 31 = some 0x80001008 ∧ flowAfter (.jr 5 0) = some (0x80001004, .taken 0x80000000) ∧
    flowAfter (.jalr 5 8 0) = some (0x80001004, .taken 0x80000000) ∧ gprAfter (.jalr 5 8 0) 8 = some 0x80001008 := by
  decide

theorem test_branches_taken :
    flowAfter (.beq 1 1 0xFFFF) = some (0x80001004, .taken 0x80001000) ∧ flowAfter (.bne 1 2 4) = some (0x80001004, .taken 0x80001014) ∧
    flowAfter (.blez 0 4) = some (0x80001004, .taken 0x80001014) ∧ flowAfter (.bgtz 1 4) = some (0x80001004, .taken 0x80001014) ∧
    flowAfter (.bltz 2 4) = some (0x80001004, .taken 0x80001014) ∧ flowAfter (.bgez 0 4) = some (0x80001004, .taken 0x80001014) ∧
    flowAfter (.bltzal 2 4) = some (0x80001004, .taken 0x80001014) ∧ gprAfter (.bgezal 2 4) 31 = some 0x80001008 ∧
    flowAfter (.beql 1 1 4) = some (0x80001004, .taken 0x80001014) ∧ flowAfter (.bnel 1 2 4) = some (0x80001004, .taken 0x80001014) ∧
    flowAfter (.bc1f 0 4) = some (0x80001004, .taken 0x80001014) ∧ flowAfter (.bc1fl 0 4) = some (0x80001004, .taken 0x80001014) := by
  decide

theorem test_branches_not_taken :
    flowAfter (.bgtz 0 4) = some (0x80001004, .fall) ∧ flowAfter (.bc1t 0 4) = some (0x80001004, .fall) ∧
    flowAfter (.bc1tl 0 4) = some (0x80001008, .none) ∧ flowAfter (.blezl 1 4) = some (0x80001008, .none) ∧
    flowAfter (.bgtzl 2 4) = some (0x80001008, .none) ∧ flowAfter (.bltzl 0 4) = some (0x80001008, .none) ∧
    flowAfter (.bgezl 2 4) = some (0x80001008, .none) ∧ flowAfter (.bltzall 0 4) = some (0x80001008, .none) ∧
    flowAfter (.bgezall 2 4) = some (0x80001008, .none) ∧ gprAfter (.bgezall 2 4) 31 = some 0x80001008 := by
  decide

theorem test_loads :
    gprAfter (.lb 4 8 0) 8 = some 0xFFFFFF88 ∧ gprAfter (.lbu 4 8 3) 8 = some 0xF5 ∧
    gprAfter (.lh 4 8 2) 8 = some 0xFFFFF566 ∧ gprAfter (.lhu 4 8 0) 8 = some 0x7788 ∧
    gprAfter (.lw 4 8 4) 8 = some 0x11223344 ∧ gprAfter (.lwl 4 1 1) 1 = some 0x77880007 ∧
    gprAfter (.lwr 4 2 1) 2 = some 0xFFF56677 ∧ trapAfter (.lw 4 8 2) = some (0x80000180, 4) := by
  decide

theorem test_stores :
    memAfter (.sb 4 2 3) = some (0xFD667788, 0x11223344) ∧ memAfter (.sh 4 6 2) = some (0x00F07788, 0x11223344) ∧
    memAfter (.sw 4 6 4) = some (0xF5667788, 0x00FF00F0) ∧ memAfter (.swl 4 6 1) = some (0xF56600FF, 0x11223344) ∧
    memAfter (.swr 4 6 1) = some (0xFF00F088, 0x11223344) ∧ trapAfter (.sh 4 6 1) = some (0x80000180, 5) := by
  decide

theorem test_linked :
    (after (.ll 4 8 4) fun t => (t.readGpr 8, t.llbit, t.cp0.llAddr)) = some (0x11223344, true, 0x01800000) ∧
    memAfter (.sc 4 6 4) = some (0xF5667788, 0x11223344) ∧ gprAfter (.sc 4 6 4) 6 = some 0 ∧
    after (.sc 4 6 4) (fun t => (wordAt t 0x18000004, t.readGpr 6, t.llbit)) { small with llbit := true } =
      some (0x00FF00F0, 1, false) := by
  decide

theorem test_hints : flowAfter (.pref 4 1 0) = some (0x80001004, .none) ∧ flowAfter (.sync 0) = some (0x80001004, .none) := by
  decide

theorem test_calls_and_traps :
    trapAfter (.syscall 0) = some (0x80000180, 8) ∧ trapAfter (.brk 0) = some (0x80000180, 9) ∧
    trapAfter (.teq 1 1 0) = some (0x80000180, 13) ∧ trapAfter (.tne 1 2 0) = some (0x80000180, 13) ∧
    trapAfter (.tge 1 2 0) = some (0x80000180, 13) ∧ trapAfter (.tgeu 2 1 0) = some (0x80000180, 13) ∧
    trapAfter (.tlt 2 1 0) = some (0x80000180, 13) ∧ trapAfter (.tltu 1 2 0) = some (0x80000180, 13) ∧
    trapAfter (.teqi 2 0xFFFD) = some (0x80000180, 13) ∧ trapAfter (.tnei 1 8) = some (0x80000180, 13) ∧
    trapAfter (.tgei 1 0xFFFF) = some (0x80000180, 13) ∧ trapAfter (.tgeiu 2 0xFFFD) = some (0x80000180, 13) ∧
    trapAfter (.tlti 2 0) = some (0x80000180, 13) ∧ trapAfter (.tltiu 1 0xFFFF) = some (0x80000180, 13) := by
  decide

theorem test_traps_pass :
    flowAfter (.teq 1 2 0) = some (0x80001004, .none) ∧ flowAfter (.tgeu 1 2 0) = some (0x80001004, .none) ∧
    flowAfter (.tlti 1 0xFFFF) = some (0x80001004, .none) ∧ flowAfter (.tgeiu 1 0xFFFF) = some (0x80001004, .none) := by
  decide

theorem test_cp0 :
    gprAfter (.mfc0 8 12 0) 8 = some 0x20000000 ∧ gprAfter (.mfc0 8 15 0) 8 = some 0x000A2001 ∧
    (after (.mtc0 2 10 0) fun t => t.cp0.entryHi) = some 0xFFFFE0FD ∧
    (after (.mtc0 1 6 0) fun t => (t.cp0.wired, t.cp0.random)) = some (7, 15) := by
  decide

theorem test_eret :
    after .eret (fun t => (t.pc, t.cp0.status, t.llbit))
      { small with llbit := true, cp0 := { small.cp0 with status := 0x20000002, epc := 0x80002000 } } =
      some (0x80002000, 0x20000000, false) ∧
    after .eret (fun t => (t.pc, t.cp0.status)) { small with cp0 := { small.cp0 with status := 6, errorEpc := 0x80003000 } } =
      some (0x80003000, 2) := by
  decide

/-- The small state with TLB translation on and one entry: VPN2 3, mask 0, page frames 5 and 6, ASID 1. -/
def mapped : State :=
  { small with
    sys := { small.sys with csr := 0 }
    cp0 := { small.cp0 with index := 2, entryHi := 0x00006001 }
    tlb := small.tlb.set 2
      { init := true, mask := 0, vpn2 := 3, g := false, asid := 1, page0 := { pfn := 5, c := 2, d := false, v := true },
        page1 := { pfn := 6, c := 3, d := true, v := false } } }

theorem test_tlb :
    after .tlbr (fun t => (t.cp0.entryHi, t.cp0.entryLo0, t.cp0.entryLo1)) mapped = some (0x00006001, 0x152, 0x19C) ∧
    after .tlbp (fun t => t.cp0.index) mapped = some 2 ∧
    after .tlbwi (fun t => (t.tlb[2].init, t.tlb[2].vpn2)) { mapped with cp0 := { mapped.cp0 with entryHi := 0xFFFFE003 } } =
      some (true, 0x7FFFF) ∧
    trapAfter .tlbwi { mapped with cp0 := { mapped.cp0 with index := 3 } } = some (0x80000180, 24) ∧
    flowAfter .tlbwr = some (0x80001004, .none) := by
  decide

theorem test_tlb_exceptions :
    trapAfter (.lw 8 9 0) { mapped with gpr := mapped.gpr.set 8 0x7000 } = some (0x80000180, 2) ∧
    trapAfter (.sw 8 9 0) { mapped with gpr := mapped.gpr.set 8 0x6000 } = some (0x80000180, 1) ∧
    trapAfter (.lw 8 9 0) { mapped with gpr := mapped.gpr.set 8 0xA000 } = some (0x80000000, 2) := by
  decide

theorem test_wait :
    (after (.wait 0) fun t => (t.waiting, t.pc)) = some (true, 0x80001004) := by
  decide

/-- A cache line with a tag. -/
def taggedLine : CacheLine :=
  { line := 0, valid := true, tag := 0x6000, d0 := 1, d1 := 2, d2 := 3, d3 := 4, h0 := 0, h1 := 0, h2 := 0, h3 := 0 }

theorem test_cache_invalidate :
    after (.cache 4 0 0) (fun t => (t.cacheLine 0).valid)
      { small with icache := [taggedLine] } = some false := by
  decide

theorem test_cache_fill : (after (.cache 4 0x14 0) fun t => (t.cacheLine 0).d0) = some 0xF5667788 := by
  decide

theorem test_fpu_single :
    fgrAfter (.addS 2 0 14) 14 = some (0x40700000, 0) ∧ fgrAfter (.subS 0 2 14) 14 = some (0x3F400000, 0) ∧
    fgrAfter (.mulS 2 0 14) 14 = some (0x40580000, 0) ∧ fgrAfter (.divS 0 2 14) 14 = some (0x3FC00000, 0) ∧
    fgrAfter (.sqrtS 2 14) 14 = some (0x3FC00000, 0) ∧ fgrAfter (.absS 8 14) 14 = some (0x3FC00000, 0) ∧
    fgrAfter (.negS 0 14) 14 = some (0xBFC00000, 0) ∧ fgrAfter (.movS 8 14) 14 = some (0xBFC00000, 0) := by
  decide +kernel

theorem test_fpu_double :
    fprAfter (.addD 6 4 14) 14 = some (0x4010000000000000, 0) ∧ fprAfter (.subD 4 6 14) 14 = some (0x3FF0000000000000, 0) ∧
    fprAfter (.mulD 6 4 14) 14 = some (0x400E000000000000, 0) ∧ fprAfter (.divD 4 6 14) 14 = some (0x3FFAAAAAAAAAAAAB, 0x1004) ∧
    fprAfter (.sqrtD 10 14) 14 = some (0x3FF8000000000000, 0) ∧ fprAfter (.absD 4 14) 14 = some (0x3FF8000000000000, 0) ∧
    fprAfter (.negD 6 14) 14 = some (0xC004000000000000, 0) ∧ fprAfter (.movD 6 14) 14 = some (0x4004000000000000, 0) := by
  decide +kernel

theorem test_fpu_conversions :
    fgrAfter (.cvtSD 6 14) 14 = some (0x40200000, 0) ∧ fgrAfter (.cvtSW 12 14) 14 = some (0x40E00000, 0) ∧
    fprAfter (.cvtDS 2 14) 14 = some (0x4002000000000000, 0) ∧ fprAfter (.cvtDW 12 14) 14 = some (0x401C000000000000, 0) ∧
    fgrAfter (.cvtWS 2 14) 14 = some (2, 0x1004) ∧ fgrAfter (.cvtWD 6 14) 14 = some (2, 0x1004) := by
  decide

theorem test_fpu_rounding :
    fgrAfter (.roundWS 0 14) 14 = some (2, 0x1004) ∧ fgrAfter (.roundWD 6 14) 14 = some (2, 0x1004) ∧
    fgrAfter (.truncWS 8 14) 14 = some (0xFFFFFFFF, 0x1004) ∧ fgrAfter (.truncWD 6 14) 14 = some (2, 0x1004) ∧
    fgrAfter (.ceilWS 8 14) 14 = some (0xFFFFFFFF, 0x1004) ∧ fgrAfter (.ceilWD 6 14) 14 = some (3, 0x1004) ∧
    fgrAfter (.floorWS 8 14) 14 = some (0xFFFFFFFE, 0x1004) ∧ fgrAfter (.floorWD 6 14) 14 = some (2, 0x1004) := by
  decide

theorem test_fpu_transfers :
    gprAfter (.mfc1 8 2) 8 = some 0x40100000 ∧ fgrAfter (.mtc1 2 14) 14 = some (0xFFFFFFFD, 0) ∧
    gprAfter (.cfc1 8 0) 8 = some 0x00030000 ∧ (after (.ctc1 1 31) fun t => t.fcsr) = some 7 ∧
    fgrAfter (.lwc1 4 13 4) 13 = some (0x11223344, 0) ∧ memAfter (.swc1 4 2 4) = some (0xF5667788, 0x40100000) ∧
    fprAfter (.ldc1 4 14 0) 14 = some (0x11223344F5667788, 0) ∧ memAfter (.sdc1 4 6 0) = some (0, 0x40040000) := by
  decide

theorem test_fpu_moves :
    fgrAfter (.movfS 0 2 0) 0 = some (0x40100000, 0) ∧ fprAfter (.movfD 0 6 4) 4 = some (0x4004000000000000, 0) ∧
    fgrAfter (.movtS 0 2 0) 0 = some (0x3FC00000, 0) ∧ fprAfter (.movtD 0 6 4) 4 = some (0x3FF8000000000000, 0) ∧
    fgrAfter (.movnS 1 2 0) 0 = some (0x40100000, 0) ∧ fprAfter (.movnD 0 6 4) 4 = some (0x3FF8000000000000, 0) ∧
    fgrAfter (.movzS 1 2 0) 0 = some (0x3FC00000, 0) ∧ fprAfter (.movzD 0 6 4) 4 = some (0x4004000000000000, 0) := by
  decide

/-- FCSR after each compare of 1.5 with 2.25, in the order of the conditions: FCC[0] is bit 23 (R825). -/
theorem test_fpu_compares_single :
    ([.cFS 2 0 0, .cUnS 2 0 0, .cEqS 2 0 0, .cUeqS 2 0 0, .cOltS 2 0 0, .cUltS 2 0 0, .cOleS 2 0 0, .cUleS 2 0 0, .cSfS 2 0 0,
      .cNgleS 2 0 0, .cSeqS 2 0 0, .cNglS 2 0 0, .cLtS 2 0 0, .cNgeS 2 0 0, .cLeS 2 0 0, .cNgtS 2 0 0] : List Instr).map
      (fun i => after i fun t => t.fcsr.getLsbD 23) =
    ([false, false, false, false, true, true, true, true, false, false, false, false, true, true, true, true] : List Bool).map some :=
  by decide

/-- The same of 1.5 with itself, into FCC[1], bit 25. -/
theorem test_fpu_compares_double :
    ([.cFD 4 4 1, .cUnD 4 4 1, .cEqD 4 4 1, .cUeqD 4 4 1, .cOltD 4 4 1, .cUltD 4 4 1, .cOleD 4 4 1, .cUleD 4 4 1, .cSfD 4 4 1,
      .cNgleD 4 4 1, .cSeqD 4 4 1, .cNglD 4 4 1, .cLtD 4 4 1, .cNgeD 4 4 1, .cLeD 4 4 1, .cNgtD 4 4 1] : List Instr).map
      (fun i => after i fun t => t.fcsr.getLsbD 25) =
    ([false, false, true, true, false, false, true, true, false, false, true, true, false, false, true, true] : List Bool).map some :=
  by decide

/-- Nothing of the FPU runs with CU1 = 0; 1/0 traps when Z is enabled (R750, R760). -/
theorem test_fpu_exceptions :
    trapAfter (.addS 2 0 14) { small with cp0 := Cp0.reset } = some (0xBFC00380, 11) ∧
    trapAfter (.divS 14 0 16) { small with fcsr := 0x400 } = some (0x80000180, 15) ∧
    fgrAfter (.divS 14 0 16) 16 = some (0x7F800000, 0x8020) ∧
    trapAfter (.ctc1 5 31) { small with gpr := small.gpr.set 5 0x00020000 } = some (0x80000180, 15) := by
  decide

/-! ## Steps of the chip -/

/-- The first instruction after reset, placed by the host's entry: ADDIU r4, r0, -1. -/
theorem test_step_first :
    (match step (State.reset.withFetchWord 32 0x2404FFFF) with
      | .next t => some (t.readGpr 4, t.pc, t.clk)
      | _ => none) = some (0xFFFFFFFF, 0xBFC00004, 1) := by
  decide

/-- A word that is no instruction raises Reserved Instruction through the reset vectors (R495, R961). -/
theorem test_step_reserved :
    (match step (State.reset.withFetchWord 32 0xFC000000) with
      | .next t => some (t.pc, t.cp0.cause)
      | _ => none) = some (0xBFC00380, 0x28) := by
  decide

/-- Under the profile strict the instruction after a load may not read the loaded register, and a delay slot holds NOP (R1231,
R1232). -/
theorem test_step_hazards :
    (match step { (State.reset.withFetchWord 32 0x24840001) with hazard := { HazardTrack.clear with loadedGpr := some 4 } } with
      | .refused r => some r
      | _ => none) = some .hazardLoadUse ∧
    (match step { (State.reset.withFetchWord 32 0x24840001) with slot := .taken 0x80000000 } with
      | .refused r => some r
      | _ => none) = some .hazardDelaySlot := by
  decide

/-! ## Moves of the other agents -/

/-- The core clock comes on again behind the NOP that follows the store which stopped it; another word there is refused (R1186,
R1238). -/
theorem test_wake :
    let off (w : Nat) : State :=
      { (State.reset.withFetchWord 32 w) with sys := { Sys.reset with coreClockOn := false, clkEn := 0x03000000, nIrq := 0xE } }
    (match step (off 0) with
      | .next t => some (t.pc, t.sys.clkEn, t.sys.coreClockOn)
      | _ => none) = some (0xBFC00004, 0x03000001, true) ∧
    (match step (off 0x2404FFFF) with
      | .refused r => some r
      | _ => none) = some .clockOffNoNop := by
  decide

/-- A write that makes Count and Compare equal leaves IP7 at 1, and another one to Compare clears it (R38). -/
theorem test_timer_match :
    let c := { Cp0.reset with count := 5, compare := 9, timerLatch := false }
    (c.write true 9 0 9).timerLatch = true ∧ (c.write true 9 0 8).timerLatch = false ∧ (c.write true 11 0 5).timerLatch = true ∧
    ({ c with timerLatch := true }.write true 11 0 6).timerLatch = false := by
  decide

/-- An address where nothing is never gives the ACK that a block with T = 10 waits for: OVER is set (R243, R1215). -/
theorem test_absent_over :
    let s (t : Word) : State :=
      { State.reset with
        params := { Params.default with extMap := [{ first := 0x2000, last := 0x2FFF, kind := .absent }] }
        mport := { Mport.reset with cscon := Mport.reset.cscon.set 4 t } }
    let isOver (r : Res Unit) : Option Bool := match r with
      | .ok _ u => some (isSet (u.mportRead 0x100C) 31)
      | _ => none
    isOver (extWrite 0x2000 (.word 1) (s 0x004F0000)) = some true ∧ isOver (extWrite 0x2000 (.word 1) (s 0x000F0000)) = some false ∧
    isOver (extWrite 0x3000 (.word 1) (s 0x004F0000)) = some false := by
  decide

/-- RTCXTI ticks at the seventh part of CLK: one is due after seven CLK ticks, and none is lost (R1051). A store to CR_PLL keeps the
part of the period that has passed (R1187): 93 of 217 CLK ticks at code 31 are three of seven at code 1. -/
theorem test_rtt_ratio :
    let s : State := { small with rtimer := { RtTimer.reset with en := true, count := 9 } }
    let slow : State := (clkTick^[93] (s.sysWrite 0x4000 0x11F)).sysWrite 0x4000 0x101
    (clkTick^[6] s).rttDue = false ∧ (clkTick^[7] s).rttDue = true ∧ (clkTick^[22] s).rtimer.count = 6 ∧
    (clkTick^[3] slow).rttDue = false ∧ (clkTick^[4] slow).rttDue = true := by
  decide +kernel

/-- In character mode a load of RBR clears RDR, also with a character of FIFO mode behind it (R309, R312); PE stays until LSR is read
(R309). -/
theorem test_uart_rbr :
    let c (b : Byte) : UartChar := { data := b, pe := true, fe := false, bi := false }
    let u := { Uart.reset with rxFifo := [c 1, c 2], fewo := true }.storeFcr 0
    let v := u.readEffect 0
    u.dataReady = true ∧ u.read 0 = 1 ∧ v.dataReady = false ∧ v.lsr.getLsbD 2 = true ∧ (v.readEffect 0x14).lsr.getLsbD 2 = false := by
  decide

/-- A character that finds RBR unread sets OE and overwrites it (R1171), or waits in the shift register, where the start of a further
one sets OE and loses it, RBR being kept (R309). SIN is disconnected in loop mode (R308). -/
theorem test_uart_overrun :
    let c (b : Byte) : UartChar := { data := b, pe := false, fe := false, bi := false }
    let one := { Uart.reset with dll := 1, lcr := 3 }.lineReceive (c 1) false
    let u := one.lineReceive (c 2) true
    (one.lineReceive (c 2) false).oe = true ∧ (one.lineReceive (c 2) false).read 0 = 2 ∧
    u.oe = false ∧ u.read 0 = 1 ∧ u.lineStart.oe = true ∧ u.lineStart.read 0 = 1 ∧ u.lineStart.rxSr.full = false ∧ ({ u with loop := true }.lineStart).oe = false := by
  decide

/-- A reset of the receive FIFO clears the RLSI of an overrun (R306), and OE stays until LSR is read (R309). -/
theorem test_uart_fifo_reset :
    let u := { Uart.reset with ier := 4, fewo := true }.overrun
    let v := u.storeFcr 3
    u.source = some 3 ∧ v.source = none ∧ v.lsr.getLsbD 1 = true ∧ (v.readEffect 0x14).lsr.getLsbD 1 = false := by
  decide

/-- Over the 8-bit path of block 3 a store writes one byte, the one CSCON3.ADDR names (R1156); in mode 10 of the controller it writes
check bits and no data, and mode 11 stops (R282, U44). -/
theorem test_byte_path :
    let s (mode : Word) : State :=
      { State.reset with
        params := { Params.default with bytePin := true }
        mport := { Mport.reset with cscon := Mport.reset.cscon.set 3 0x001F0000 }
        ecc := { Ecc.reset with ext := { Ecc.reset.ext with csr := mode } } }
    let seen (r : Res Unit) : Option (Word × Byte) := match r with
      | .ok _ u => some (Memory.readWord u.mem 0x1C000000, Memory.read u.checkBits 0x1C000000)
      | _ => none
    seen (extWrite 0x1C000000 (.word 0x1234) (s 0)) = some (0x3400, 0) ∧
    seen (extWrite 0x1C000000 (.word 0x1234) (s 2)) = some (0, 0x34) ∧
    seen (extWrite 0x1C000000 (.word 0x1234) (s 3)) = none := by
  decide

/-- Where both moves of a DSP instruction write PC, the second one counts (R120). -/
theorem test_dsp_two_pc_moves :
    let i : DspInstr :=
      { op1 := none, op2 := none, move1 := some (.gdb (.imm .pc 5)), move2 := some (.gdb (.imm .pc 9)), flow := none, wide := false,
        cond := none }
    i.pcMove Dsp.reset = some 9 := by
  decide

/-- A packet of 2^25 bytes counts as one with data, and its length field shows 0 (R329, R333). -/
theorem test_swic_long_packet :
    let w := { Swic.reset with nChar := 2 ^ 25 }.endPacket 1
    w.cntRx = 1 ∧ w.cntRx0 = 0 ∧ w.rxDesc = [0xA0000000] ∧ w.nChar = 0 := by
  decide

/-- A result of ASH that saturates sets V and Ev whatever flags the operation fills (R867); 0x7FFF stands for the free value, with its
lowest stage bit 1. -/
theorem test_dsp_saturation_flags :
    let x := { DspSection.reset with ccr := 0x100 }
    let free (v w : Word) (k : Nat) : Word := if k = 3 then w else v
    let ccr (v w : Word) : Option Half := match x.compute (free v w) (some (.auOther .short 2 none 0 false)) none with
      | .ok y => some (y.ccr &&& 0x22)
      | _ => none
    ccr 0x7FFF 1 = some 0x22 ∧ ccr 0x0001 1 = some 0 := by
  decide

/-- The transmit rate of a SWIC: 5 n Mbit/s from 2.5 MHz, and the rate of the connection before Run (R326). -/
theorem test_swic_rate :
    let w := { Swic.reset with txSpeed := 0x000C0B03 }
    w.txRate 25 = 150 ∧ { w with modeCr := 0x8000 }.txRate 25 = 100 ∧ { w with txSpeed := 0x300 }.txRate 25 = 25 ∧
    Swic.reset.txRate 25 = 0 := by
  decide

/-- A port channel started before its port is on takes the direction and the burst of the port as it finds it on (R367, R1111). -/
theorem test_port_grant :
    let ch : DmaChannel := { DmaChannel.reset with csr := 0x0007000D, burstLeft := 1, burstPending := true }
    let s := { small with sys := { small.sys with clkEn := 0x03000101 } }.putChannel 8 ch
    let t := s.putMfbsp 0 { Mfbsp.reset with csr := 3 }
    s.portMayMove 8 = false ∧ t.portMayMove 8 = true ∧ (t.portGrant 8).outward = true ∧ (t.portGrant 8).burstLeft = 4 := by
  decide

/-- The row length of a 2D block is that of its start, also when the channel is stopped in the middle of a row and CSR is stored
(R1123, R1111). -/
theorem test_rows :
    let ch : DmaChannel := { DmaChannel.reset with csr := 0x00020201, y := 0x00010000 }
    let mid := ch.advance.1
    mid.wcx = 1 ∧ mid.advance.1.advance.1.wcx = 2 ∧ { mid with csr := 0x00010200 }.program.midBlock = false := by
  decide

/-- The link transmitter sends while LACK is high (R1181); an external transmit clock that finds no word sets TERR as the word
starts, and a word stored meanwhile is not lost (R363). -/
theorem test_mfbsp_start :
    let link := { Mfbsp.reset with csr := 3, lBuf := [5] }
    let serial := { Mfbsp.reset with csr := 0x200, tctr := 1 }
    (link.transmit 0 9).sent = [] ∧ ({ link with pins := 1 }.transmit 0 9).sent = [(0, 5)] ∧
    (serial.startTransmit 9).readTsr.getLsbD 9 = true ∧ (((serial.startTransmit 9).pushTx 7).transmit 0 9).txBuf = [7] ∧
    ((serial.startTransmit 9).write 0x10 0).readTsr.getLsbD 10 = false := by
  decide

/-- A receiver in step with the transmitter receives while that sends (R359, R361). -/
theorem test_mfbsp_in_step :
    let m := { Mfbsp.reset with csr := 0x200, tctr := 1, rctr := 13, dir := 0x2A, txBuf := [7] }
    m.startReceive.rxRun = false ∧ (m.startTransmit 9).startReceive.rxRun = true := by
  decide

/-- A DSP that stores to page X1 while the CPU reads there: both are marked (R148). -/
theorem test_dsp_race :
    let i : DspInstr := { op1 := none, op2 := none, move1 := some (.store 0 0 1 0 false), move2 := none, flow := none, wide := false,
                          cond := none }
    let s := dspBegin i { small with dsp := { Dsp.reset with dcsr := 0x4000 }, sys := { small.sys with clkEn := 0x03000011 } }
    s.dsp.inFlight = some i ∧ s.readRace 0x18400010 = true ∧ s.readRace 0x18410000 = false ∧ s.writeRace 0x18400010 = true ∧
    (s.noteExtRead 0x18400010).dsp.extReads = 1 := by
  decide

/-- The parameter of a complex word is at most that of a half that has one (R868); REPEAT stays in the program memory. -/
theorem test_dsp_pdn (free : Word) : pdnWord 0x00004000 true free = 0 ∧ pdnWord 0x40000000 false free = 0 := by
  refine ⟨?_, rfl⟩
  have : (pdnOf (fieldOf (0x00004000 : Word) 0 16 : Half)).getD (fieldOf free 0 16 : Half).toNat = 0 := rfl
  simp only [pdnWord, this, if_true, Nat.zero_min]

/-- The controller of CRAM is that of the port (R280), or with `cramHalves` that of the half (R412). -/
theorem test_cram_units :
    let s := { small with params := { Params.default with cramHalves := true } }
    small.cramUnit false 0x18007FFC = .cramA ∧ small.cramUnit true 0x18000000 = .cramB ∧
    s.cramUnit false 0x18007FFC = .cramB ∧ s.cramUnit true 0x18003FFC = .cramA := by
  decide

/-- The first instruction of a handler entered behind a load or a store, without an instruction between them, may neither read what was
loaded nor load (R1232, R1233); behind an instruction that raised the exception it may. -/
theorem test_handler_hazards :
    let s := { small with hazard := { HazardTrack.clear with loadedGpr := some 26, stored := true } }
    let stops (t : State) : Option Refusal × Option Refusal :=
      (hazardOf 0x275B0001 (.addiu 26 27 1) t, hazardOf 0x8C1B0000 (.lw 0 27 0) { t with hazard := { t.hazard with flush := .none } })
    stops s.enterHandler = (some .hazardLoadUse, some .hazardStoreLoad) ∧
    stops (s.trackNmi s) = (some .hazardLoadUse, some .hazardStoreLoad) ∧
    stops (s.trackFetchExc s) = (some .hazardLoadUse, some .hazardStoreLoad) ∧ stops (s.trackExc s) = (none, none) := by
  decide

/-- ROM, RAM and nothing are told apart byte by byte (R416): a store to a word whose upper half is ROM changes its lower half. The
controller sees ROM as it sees RAM: in mode 01 a store to part of a word reads it and counts its error, and mode 11 stops (R282, U44). -/
theorem test_ext_bytes :
    let s (mode : Word) : State :=
      { State.reset with
        params := { Params.default with extMap := [{ first := 0x2002, last := 0x2007, kind := .rom }] }
        ecc := { Ecc.reset with ext := { Ecc.reset.ext with csr := mode }, faults := [{ addr := 0x2004, code := 1, flips := 1 }] } }
    let byteAt5 : StoreReq := { lanes := 2, data := 0xAAAA, sb := true, low := 0xAA }
    let seen (r : Res Unit) : Option (Word × Word × Word) := match r with
      | .ok _ u => some (Memory.readWord u.mem 0x2000, Memory.readWord u.mem 0x2004, u.ecc.ext.csr)
      | _ => none
    seen (extWrite 0x2000 (.word 0x12345678) (s 0)) = some (0x5678, 0, 0) ∧
    seen (extWrite 0x2004 byteAt5 (s 1)) = some (0, 0, 0x01000001) ∧ seen (extWrite 0x2004 byteAt5 (s 3)) = none := by
  decide

/-- The flush that an interrupt handler owes waits while an NMI routine runs, and comes back with ERET into the handler (R1237). -/
theorem test_duty_waits :
    let s := { small with pc := 0x80000200, hazard := { HazardTrack.clear with flush := .store } }
    let h := (s.trackNmi s).hazard
    h.flush = .none ∧ (h.resume 0x80000200).flush = .store ∧ (h.resume 0x80001000).flush = .none := by
  decide

/-- Under the strict profile an interrupt is recognised late only where the request rests on the recent write (R1236). -/
theorem test_late_interrupt :
    let s (w : Cp0Write) : State :=
      { small with
        cp0 := { small.cp0 with status := 0x20008001, timerLatch := true }
        hazard := { HazardTrack.clear with cp0Writes := [(w, 3)] } }
    (s (.status 0x20008000)).mayDelayInterrupt = true ∧ (s (.status 0x20008001)).mayDelayInterrupt = false ∧
    (s (.cause 0)).mayDelayInterrupt = false ∧ (s .compare).mayDelayInterrupt = true := by
  decide

/-- A burst of MEM channel 0 moves two words from IR0 to IR1, one in a move, and ends its block (R1120, R1124, R1051). -/
theorem test_dma_burst :
    (match agentMove (.dma 12) { small with
        sys := { small.sys with clkEn := 0x03001111 }
        dma := { small.dma with
          channels := small.dma.channels.set 12
            { DmaChannel.reset with csr := 0x00010005, ir0 := 0x18000000, ir1 := 0x18000010, offsets := 0x00010001 } } } with
      | .ok _ t => match agentMove (.dma 12) t with
        | .ok _ u => some (wordAt t 0x18000010, (t.channel 12).burstLeft, wordAt u 0x18000014, (u.channel 12).csr,
            (u.channel 12).ir1, (u.channel 12).burstLeft)
        | _ => none
      | _ => none) = some (0xF5667788, 1, 0x11223344, 0x8004, 0x18000018, 0) := by
  decide

/-- A store to IR1 that turns a burst from DSP memory to external memory, which another burst holds: the turned burst waits, and the
other one and the CPU's turn go on (R1055). -/
theorem test_dma_turned :
    let ch (ir0 ir1 : Word) : DmaChannel := { DmaChannel.reset with csr := 0x00030005, ir0 := ir0, ir1 := ir1, burstLeft := 2 }
    let after (r : Res Unit) (s : State) : State := match r with
      | .ok _ t => t
      | _ => s
    let s := (small.putChannel 12 (ch 0x18000000 0x18400000)).putChannel 13 (ch 0x00003000 0x00002000)
    let t := after (dmaStore 12 .ir1 0x00004000 s) s
    (s.channel 12).turned = false ∧ t.burstWaits 12 = true ∧ t.burstWaits 13 = false ∧ t.burstAhead [.ext] = some 13 ∧
    ((after (dmaMove 12 t) t).channel 12).burstLeft = 2 ∧ ((after (dmaMove 13 t) t).channel 13).burstLeft = 1 := by
  decide +kernel

/-- The CPU waits for external memory while a burst of MEM channel 0 holds it: the burst moves its word instead (R1055). -/
theorem test_dma_holds_cpu :
    (match step { small with
        sys := { small.sys with clkEn := 0x03001111 }
        dma := { small.dma with
          channels := small.dma.channels.set 12
            { DmaChannel.reset with csr := 0x00010005, ir0 := 0x18000000, ir1 := 0x00002000, burstLeft := 1 } } } with
      | .next t => some (t.pc, wordAt t 0x2000, (t.channel 12).burstLeft)
      | _ => none) = some (0x80001000, 0xF5667788, 0) := by
  decide

/-- The interval timer with period 1 and scale 1 interrupts after four ticks (R1060). -/
theorem test_timer :
    (ItTimer.tick^[3] { ItTimer.reset with en := true, period := 1, count := 1, scale := 1, scount := 1 }).int = false ∧
    (ItTimer.tick^[4] { ItTimer.reset with en := true, period := 1, count := 1, scale := 1, scount := 1 }).int = true := by
  decide

/-- A character arrives at the UART in character mode and is read from RBR (R1171, R301). -/
theorem test_uart :
    (match agentMove (.uartRx { data := 0x5A, pe := false, fe := false, bi := false } false)
        { small with uart := { small.uart with dll := 1, lcr := 3 } } with
      | .ok _ t => some (t.uart.read 0, t.uart.dataReady, t.uart.rxSr.last.data)
      | _ => none) = some (0x5A, true, 0x5A) := by
  decide

/-- A DSP instruction that does nothing. -/
def noInstr : DspInstr :=
  { op1 := none, op2 := none, move1 := none, move2 := none, flow := none, wide := false, cond := none }

/-- A DSP instruction that adds in section 0: the sum, the flag N of a negative one, and PC (R861, R851). -/
theorem test_dsp_add :
    (match agentMove (.dsp { noInstr with op1 := some (.au .add .long 2 4 6 false) })
        { small with
          sys := { small.sys with clkEn := 0x03000011 }
          dsp := { small.dsp with
            dcsr := 0x4000
            sec0 := { small.dsp.sec0 with rf := (small.dsp.sec0.rf.set 4 0x7FFFFFF0).set 6 0x80000001 } } } with
      | .ok _ t => some (t.dsp.sec0.rf[2], isSet t.dsp.sec0.ccr 3, t.dsp.pc)
      | _ => none) = some (0xFFFFFFF1, true, 1) := by
  decide

/-- The flags of a DSP sum are those of the adder's stages, before scaling and saturation: 0x7FFF + 1 overflows in the adder, where
D[15:0] = 0x8000 is scaled to 0xC000 or replaced by 0x7FFF, and 0x8000 + 0x8000 saturates with Z = 1 and N = 0 (R861, R866, R867). -/
theorem test_dsp_stages :
    DspAu.add.apply 0x7FFF#16 1#16 false (some 1) false = (0xC000#16, 0b01010#5) ∧
    DspAu.add.apply 0x7FFF#16 1#16 false (some 1) true = (0x7FFF#16, 0b01010#5) ∧
    DspAu.add.apply 0x8000#16 0x8000#16 false none true = (0x8000#16, 0b10111#5) := by
  decide

/-- The last address of a DSP loop: the counter goes down and PC comes from the stack, also when it jumps (R893); the last
repetition leaves the loop (R894). -/
theorem test_dsp_loop :
    let d := { Dsp.reset with lc := 0x4002, sp := 1, ss := Dsp.reset.ss.set 0 0x0030 }
    (d.nextPc 0x41 true (some 0x99)).pc = 0x30 ∧ (d.nextPc 0x41 true none).lc = 0x4001 ∧
    ({ d with lc := 0x4001 }.nextPc 0x41 true none).pc = 0x41 := by
  decide

/-- The error flag of the system stack stays after a later pop (R134). -/
theorem test_dsp_stack_error :
    isSet (({ Dsp.reset with sp := 0x000F }.pushSs 5).popSs).sp 4 = true ∧
    isSet ({ Dsp.reset with sp := 0x000F }.pushSs 5).dcsr 1 = true := by
  decide

/-! ## Hypotheses that hold: a state and operands for each statement that has hypotheses -/

/-- Plain memory: an aligned access of the small state to CRAM through kseg1. -/
theorem small_reaches (k : Access) (size : Nat) (va pa : Word) (ha : va.toNat % size = 0)
    (ht : Machine.translate va k small = .ok (pa, false) small) (hp : inCram (wordAddr pa) = true) : Reaches small va k size pa :=
  ⟨ha, ⟨false, ht⟩, by
    have h1 : small.ecc.faultAt (wordAddr pa) = none := rfl
    have h2 : small.cramUnit false (wordAddr pa) = .cramA := by
      simp [State.cramUnit, show small.params.cramHalves = false from rfl]
    exact ⟨h1, .inl ⟨hp, by rw [h2]; decide, by decide⟩⟩⟩

/-- AddOverflow: the clauses meet at the largest and the smallest number of 32 signed bits. -/
theorem test_wit_AddOverflow :
    (small.readGpr 3).toInt + (small.readGpr 0).toInt = 2 ^ 31 - 1 ∧ (small.readGpr 3).toInt + (1#16).toInt = 2 ^ 31 ∧
    (small.readGpr 5).toInt - (small.readGpr 0).toInt = -2 ^ 31 ∧ (small.readGpr 5).toInt - (small.readGpr 1).toInt < -2 ^ 31 := by
  decide

theorem test_wit_Divide : small.readGpr 2 ≠ 0 ∧ small.readGpr 8 = 0 := by decide

theorem test_wit_HiLoMoves : small.mduUnread = false := by decide

theorem test_wit_ConditionalMoves : FpuOn small ∧ small.readGpr 1 ≠ 0 ∧ small.readGpr 0 = 0 := by
  unfold FpuOn; decide

theorem test_wit_JumpTargets : small.slot = .none ∧ (8 : GprNum) ≠ 5 := by decide

theorem test_wit_ConditionalBranches : small.slot = .none := by decide

theorem test_wit_LinkBranches : small.slot = .none ∧ (30 : GprNum) ≠ 31 := by decide

theorem test_wit_FpuBranches : small.slot = .none ∧ FpuOn small := by unfold FpuOn; decide

/-- RestrictedTransfers: each of the five disjuncts, in a delay slot; and a link register that is the source. -/
theorem test_wit_RestrictedTransfers :
    let s := { small with slot := .fall }
    s.slot ≠ .none ∧ FpuOn s ∧ Privileged s ∧ (8 : GprNum) ≠ 5 ∧ (30 : GprNum) ≠ 31 ∧
    exec (.j 0) s = .refused .controlInDelaySlot ∧ exec (.jalr 5 8 0) s = .refused .controlInDelaySlot ∧
    exec (.bltzal 30 0) s = .refused .controlInDelaySlot ∧ exec (.bc1f 0 0) s = .refused .controlInDelaySlot ∧
    exec .eret s = .refused .controlInDelaySlot ∧ exec (.jalr 5 5 0) s = .refused .linkIsSource :=
  ⟨by decide, by unfold FpuOn; decide, by unfold Privileged; decide, by decide, by decide, rfl, rfl, rfl, rfl, rfl, rfl⟩

/-- LoadValues: each width at the last place of a word that it reaches. -/
theorem test_wit_LoadValues :
    Reaches small (small.readGpr 4 + (3 : BitVec 16).signExtend 32) .load 1 0x18000003 ∧
    Reaches small (small.readGpr 4 + (2 : BitVec 16).signExtend 32) .load 2 0x18000002 ∧
    Reaches small (small.readGpr 4 + (4 : BitVec 16).signExtend 32) .load 4 0x18000004 :=
  ⟨small_reaches _ _ _ _ (by decide) rfl (by decide), small_reaches _ _ _ _ (by decide) rfl (by decide),
    small_reaches _ _ _ _ (by decide) rfl (by decide)⟩

/-- UnalignedLoads: at the first and the last byte of a word. -/
theorem test_wit_UnalignedLoads :
    Reaches small (small.readGpr 4 + (0 : BitVec 16).signExtend 32) .load 1 0x18000000 ∧
    Reaches small (small.readGpr 4 + (3 : BitVec 16).signExtend 32) .load 1 0x18000003 :=
  ⟨small_reaches _ _ _ _ (by decide) rfl (by decide), small_reaches _ _ _ _ (by decide) rfl (by decide)⟩

theorem small_memoryLegal : MemoryLegal small := ⟨by decide, by decide⟩

theorem test_wit_StoreValues :
    MemoryLegal small ∧ Reaches small (small.readGpr 4 + (3 : BitVec 16).signExtend 32) .store 1 0x18000003 ∧
    Reaches small (small.readGpr 4 + (2 : BitVec 16).signExtend 32) .store 2 0x18000002 ∧
    Reaches small (small.readGpr 4 + (0 : BitVec 16).signExtend 32) .store 4 0x18000000 :=
  ⟨small_memoryLegal, small_reaches _ _ _ _ (by decide) rfl (by decide), small_reaches _ _ _ _ (by decide) rfl (by decide),
    small_reaches _ _ _ _ (by decide) rfl (by decide)⟩

theorem test_wit_UnalignedStores :
    MemoryLegal small ∧ Reaches small (small.readGpr 4 + (0 : BitVec 16).signExtend 32) .store 1 0x18000000 ∧
    Reaches small (small.readGpr 4 + (3 : BitVec 16).signExtend 32) .store 1 0x18000003 :=
  ⟨small_memoryLegal, small_reaches _ _ _ _ (by decide) rfl (by decide), small_reaches _ _ _ _ (by decide) rfl (by decide)⟩

/-- LoadFrame: a load that completes and a load that takes an exception. -/
theorem test_wit_LoadFrame : (∃ t, exec (.lw 4 8 0) small = .next t) ∧ ∃ t, exec (.lw 4 8 2) small = .next t :=
  ⟨⟨_, rfl⟩, ⟨_, rfl⟩⟩

/-- StoreFrame: a store that completes at an address that is translated, and a byte outside its word. -/
theorem test_wit_StoreFrame :
    MemoryLegal small ∧ (∃ t, exec (.swl 4 6 1) small = .next t) ∧
    (∃ pa c, Machine.translate (small.readGpr 4 + (1 : BitVec 16).signExtend 32) .store small = .ok (pa, c) small ∧
      0x18000004 / 4 ≠ pa.toNat / 4 ∧ inDspData (wordAddr pa) = false) :=
  ⟨small_memoryLegal, ⟨_, rfl⟩, ⟨0x18000001, false, rfl, by decide, by decide⟩⟩

/-- AccessExceptions: the smallest misalignment of each width, and the largest a doubleword can have; addresses whose translation
answers an exception. -/
theorem test_wit_AccessExceptions :
    FpuOn small ∧ EvenReg 30 ∧ (small.readGpr 4 + (1 : BitVec 16).signExtend 32).toNat % 2 ≠ 0 ∧
    (small.readGpr 4 + (2 : BitVec 16).signExtend 32).toNat % 4 ≠ 0 ∧
    (small.readGpr 4 + (4 : BitVec 16).signExtend 32).toNat % 8 ≠ 0 ∧
    (small.readGpr 4 + (7 : BitVec 16).signExtend 32).toNat % 8 ≠ 0 ∧
    (mapped.readGpr 7 + (0 : BitVec 16).signExtend 32).toNat % 4 = 0 ∧
    Machine.translate (mapped.readGpr 7 + (0 : BitVec 16).signExtend 32) .load mapped = .exc (.tlbRefill 4 false) mapped ∧
    (mapped.readGpr 0 + (0x6000 : BitVec 16).signExtend 32).toNat % 8 = 0 ∧
    Machine.translate (mapped.readGpr 0 + (0x6000 : BitVec 16).signExtend 32) .store mapped = .exc (.mod 0x6000) mapped ∧
    FpuOn mapped :=
  ⟨by unfold FpuOn; decide, by unfold EvenReg; decide, by decide, by decide, by decide, by decide, by decide, rfl, by decide, rfl,
    by unfold FpuOn; decide⟩

theorem test_wit_LinkedAccess :
    Reaches small (small.readGpr 4 + (4 : BitVec 16).signExtend 32) .load 4 0x18000004 ∧
    (let s := { small with llbit := true }
     s.llbit = true ∧ MemoryLegal s ∧ Reaches s (s.readGpr 4 + (4 : BitVec 16).signExtend 32) .store 4 0x18000004) ∧
    small.llbit = false ∧ (small.readGpr 4 + (4 : BitVec 16).signExtend 32).toNat % 4 = 0 ∧
    ∃ c, Machine.translate (small.readGpr 4 + (4 : BitVec 16).signExtend 32) .store small = .ok (0x18000004, c) small :=
  ⟨small_reaches _ _ _ _ (by decide) rfl (by decide),
    ⟨rfl, ⟨by decide, by decide⟩, by decide, ⟨false, rfl⟩, rfl, .inl ⟨by decide, by decide, by decide⟩⟩,
    rfl, by decide, ⟨false, rfl⟩⟩

theorem test_wit_FpuLoadsStores :
    FpuOn small ∧ MemoryLegal small ∧ EvenReg 30 ∧
    Reaches small (small.readGpr 4 + (4 : BitVec 16).signExtend 32) .load 4 0x18000004 ∧
    Reaches small (small.readGpr 4 + (4 : BitVec 16).signExtend 32) .store 4 0x18000004 ∧
    Reaches small (small.readGpr 4 + (0 : BitVec 16).signExtend 32) .load 8 0x18000000 ∧
    Reaches small (small.readGpr 4 + (0 : BitVec 16).signExtend 32) .store 8 0x18000000 ∧ PlainRam small (0x18000000 + 4) ∧
    small.between = [] ∧ runBetween (0x18000000 + 4) small = .ok () small ∧
    (∃ u, runBetween (0x18000000 + 4) { small with
      mem := Memory.writeLanes small.mem 0x18000000 0xF ((small.readFpr 30).extractLsb' 0 32) } = .ok () u ∧
      PlainRam u (0x18000000 + 4)) ∧
    (let s := { small with
       between := [12], sys := { small.sys with clkEn := 0x03001111 }
       dma := { small.dma with
         channels := small.dma.channels.set 12
           { DmaChannel.reset with csr := 0x00010005, ir0 := 0x18000000, ir1 := 0x00002000, offsets := 0x00010001 } } }
     ∃ u, runBetween (0x18000000 + 4) s = .ok () u ∧ wordAt u 0x2000 = 0xF5667788 ∧ PlainRam u (0x18000000 + 4)) :=
  ⟨by unfold FpuOn; decide, small_memoryLegal, by unfold EvenReg; decide, small_reaches _ _ _ _ (by decide) rfl (by decide),
    small_reaches _ _ _ _ (by decide) rfl (by decide), small_reaches _ _ _ _ (by decide) rfl (by decide),
    small_reaches _ _ _ _ (by decide) rfl (by decide), ⟨rfl, .inl ⟨by decide, by decide, by decide⟩⟩, rfl, rfl,
    ⟨_, rfl, rfl, .inl ⟨by decide, by decide, by decide⟩⟩, ⟨_, rfl, by decide, rfl, .inl ⟨by decide, by decide, by decide⟩⟩⟩

/-- The small state in User mode with CP0 and the FPU off. -/
def user : State := { small with cp0 := { small.cp0 with status := 0x10 } }

/-- SegmentTranslation: the first and the last address of each clause. -/
theorem test_wit_SegmentTranslation :
    Machine.translate 0x80000000 .load user = .exc (.addressError 0x80000000 false) user ∧
    Machine.translate 0xFFFFFFFF .store user = .exc (.addressError 0xFFFFFFFF true) user ∧
    Machine.translate 0x80000000 .load small = .ok (0, false) small ∧
    Machine.translate 0x9FFFFFFF .load small = .ok (0x1FFFFFFF, false) small ∧
    Machine.translate 0xA0000000 .load small = .ok (0, false) small ∧
    Machine.translate 0xBFFFFFFF .load small = .ok (0x1FFFFFFF, false) small ∧
    Machine.translate 0x7FFFFFFF .load State.reset = .ok (0x7FFFFFFF, false) State.reset ∧
    Machine.translate 0x7FFFFFFF .load small = .ok (0xBFFFFFFF, false) small ∧
    Machine.translate 0xC0000000 .load small = .ok (0xC0000000, false) small :=
  ⟨rfl, rfl, rfl, rfl, rfl, rfl, rfl, rfl, rfl⟩

theorem mapped_masksLegal : TlbMasksLegal mapped := by
  unfold TlbMasksLegal
  intro i hi
  exact ⟨0, by decide, by revert i; decide⟩

/-- TlbTranslation: no match; a match whose even page is valid and not dirty; one whose odd page is not valid. -/
theorem test_wit_TlbTranslation :
    isSet mapped.sys.csr 0 = false ∧ TlbMasksLegal mapped ∧ (0x7000 : Word).toNat < 0x80000000 ∧
    isSet mapped.cp0.status 2 = false ∧ isSet mapped.cp0.status 4 = false ∧
    (∀ i, ¬TlbMatches mapped i ((0xC0000000 : Word).extractLsb' 13 19)) ∧
    TlbFirst mapped 2 ((0x6000 : Word).extractLsb' 13 19) ∧ TlbFirst mapped 2 ((0x7000 : Word).extractLsb' 13 19) ∧
    mapped.tlb[2].mask.toNat = 4 ^ 0 - 1 ∧ mapped.tlb[2].page0.v = true ∧ mapped.tlb[2].page0.d = false ∧
    mapped.tlb[2].page1.v = false ∧
    (let s := { mapped with tlb := mapped.tlb.set 2 { mapped.tlb[2] with mask := 0xFFF } }
     TlbFirst s 2 ((0x01FFFFFF : Word).extractLsb' 13 19) ∧ s.tlb[2].mask.toNat = 4 ^ 6 - 1) := by
  refine ⟨by decide, mapped_masksLegal, ?_⟩
  unfold TlbFirst TlbMatches
  decide

theorem small_privileged : Privileged small := by unfold Privileged; decide

theorem test_wit_Cp0Reads :
    Privileged small ∧ small.cp0.k0 = 2 ∧ isSet small.sys.csr 0 = true ∧ small.cp0.k23 = 2 ∧ small.cp0.ku = 2 ∧
    ((7 : BitVec 5) ≠ 1 ∨ (0 : BitVec 3) ≠ 0) :=
  ⟨small_privileged, rfl, by decide, rfl, rfl, by decide⟩

/-- Cp0Writes: a read-only register, a reserved one and another sel. -/
theorem test_wit_Cp0Writes :
    Privileged small ∧ ((0 : BitVec 3) ≠ 0 ∨ (15 : BitVec 5) ∈ [1, 7, 8, 15, 17, 18, 19, 20, 21, 22, 23, 24, 25, 26, 27, 28, 29, 31]) ∧
    (7 : BitVec 3) ≠ 0 :=
  ⟨small_privileged, by decide, by decide⟩

theorem test_wit_Cp0Unusable : ¬Privileged user ∧ Instr.eret ∈ ([.mfc0 8 12 0, .eret] : List Instr) :=
  ⟨by unfold Privileged; decide, by decide⟩

/-- ExceptionReturn: ERL set and clear, and the end of a handler that changed neither EPC nor Status. -/
theorem test_wit_ExceptionReturn :
    let u := takeException .sys small
    Privileged State.reset ∧ State.reset.slot = .none ∧ isSet State.reset.cp0.status 2 = true ∧
    Privileged small ∧ small.slot = .none ∧ isSet small.cp0.status 2 = false ∧ isSet small.cp0.status 1 = false ∧
    u.cp0.epc = (takeException .sys small).cp0.epc ∧ u.cp0.status = (takeException .sys small).cp0.status ∧ u.slot = .none :=
  ⟨by unfold Privileged; decide, rfl, by decide, small_privileged, rfl, by decide, by decide, rfl, rfl, rfl⟩

theorem test_wit_TlbReadAndProbe :
    Privileged mapped ∧ isSet mapped.sys.csr 0 = false ∧ isSet small.sys.csr 0 = true ∧ TlbMasksLegal mapped ∧
    TlbFirst mapped 2 (mapped.cp0.entryHi.extractLsb' 13 19) ∧
    (∀ j, ¬TlbMatches { mapped with cp0 := { mapped.cp0 with entryHi := 0 } } j ((0 : Word).extractLsb' 13 19)) :=
  ⟨by unfold Privileged; decide, by decide, by decide, mapped_masksLegal, by unfold TlbFirst TlbMatches; decide,
    by unfold TlbMatches; decide⟩

/-- TlbWrites: an entry that conflicts with no other, one that conflicts with another, one that conflicts wherever it is written,
and one that conflicts everywhere but where it replaces the other. -/
theorem test_wit_TlbWrites :
    let new (s : State) : TlbEntry := { mapped.tlb[2] with vpn2 := s.cp0.entryHi.extractLsb' 13 19 }
    let twice := { mapped with tlb := mapped.tlb.set 4 mapped.tlb[2] }
    Privileged mapped ∧ isSet mapped.sys.csr 0 = false ∧ isSet small.sys.csr 0 = true ∧
    (∀ i : Fin 16, (∃ j, j ≠ i ∧ TlbConflict (new mapped) mapped.tlb[j]) ↔ i ≠ 2) ∧
    (∀ i : Fin 16, ∃ j, j ≠ i ∧ TlbConflict (new mapped) twice.tlb[j]) ∧
    (∀ i : Fin 16, ¬∃ j, j ≠ i ∧ TlbConflict { new mapped with vpn2 := 9 } mapped.tlb[j]) := by
  unfold Privileged TlbConflict
  decide

/-- The small state with the cache's controller in a mode. -/
def cacheMode (m : Word) : State := { small with ecc := { small.ecc with icache := { EccCtl.reset with csr := m } } }

/-- CacheOperations: a hit, a line that is not valid, plain memory behind the line in each mode of the controller, and a page the
TLB does not hold. -/
theorem test_wit_CacheOperations :
    let hit := { small with icache := [taggedLine] }
    Privileged small ∧ Machine.translate 0xB8000000 .load hit = .ok (0x18000000, false) hit ∧ (hit.cacheLine 0).valid = true ∧
    (hit.cacheLine 0).tag = (0x18000000 : Word).extractLsb' 14 18 ∧ (small.cacheLine 0).valid = false ∧
    (∀ m ∈ ([0, 1, 2, 3] : List Word),
      Machine.translate 0xB8000000 .load (cacheMode m) = .ok (0x18000000, false) (cacheMode m) ∧
      (cacheMode m).ecc.icache.mode.toNat = m.toNat ∧
      ∀ k, k < 4 → PlainRam (cacheMode m) ((0x18000000 : Word).toNat / 16 * 16 + 4 * k)) ∧
    Privileged mapped ∧ Machine.translate 4 .load mapped = .exc (.tlbRefill 4 false) mapped ∧
    ((0x15 : BitVec 5) ≠ 0 ∧ (0x15 : BitVec 5) ≠ 0x10 ∧ (0x15 : BitVec 5) ≠ 0x14) := by
  refine ⟨small_privileged, rfl, by decide, by decide, by decide, ?_, by unfold Privileged; decide, rfl, by decide⟩
  intro m hm
  simp only [List.mem_cons, List.not_mem_nil, or_false] at hm
  rcases hm with rfl | rfl | rfl | rfl <;>
    exact ⟨rfl, by decide, fun k hk => by
      have : k = 0 ∨ k = 1 ∨ k = 2 ∨ k = 3 := by omega
      rcases this with rfl | rfl | rfl | rfl <;> exact ⟨rfl, .inl ⟨by decide, by decide, by decide⟩⟩⟩

/-- Nothing but the CPU moves in the state after reset and in what the tests make of it. -/
theorem reset_noBurst : NoBurst State.reset := by unfold NoBurst; decide

theorem test_wit_WaitForInterrupt :
    Privileged small ∧ small.slot = .none ∧
    (let s := { small with waiting := true }
     CpuNext s ∧ s.waiting = true ∧ s.nmiPending = false ∧ s.ip &&& s.cp0.status.extractLsb' 8 8 = 0) :=
  ⟨small_privileged, rfl, ⟨rfl, rfl, reset_noBurst⟩, rfl, rfl, by decide⟩

/-- FpuAccess: an FPU that is off, and odd registers of one that is on. -/
theorem test_wit_FpuAccess :
    NeedsFpu (.addS 2 0 4) ∧ NeedsFpu (.movt 1 0 2) ∧ NeedsFpu (.sdc1 4 2 0) ∧ ¬FpuOn user ∧ NeedsFpu (.addS 1 0 4) ∧
    NeedsFpu (.ldc1 4 31 0) ∧ FpuOn small ∧ (Instr.addS 1 0 4).wellFormed = false ∧ (Instr.ldc1 4 31 0).wellFormed = false := by
  unfold NeedsFpu FpuOn; decide

theorem test_wit_FpuMoves : FpuOn small ∧ EvenReg 0 ∧ EvenReg 30 ∧ small.readGpr 0 = 0 ∧ small.readGpr 1 ≠ 0 := by
  unfold FpuOn EvenReg; decide

/-- FpuTransfers: a value without a trapping Cause bit, one with E, and one with Z that is enabled. -/
theorem test_wit_FpuTransfers :
    FpuOn small ∧ isSet (0x00000007 : Word) 17 = false ∧
    (∀ k, k < 5 → isSet (0x00000007 : Word) (12 + k) = true → isSet (0x00000007 : Word) (7 + k) = false) ∧
    isSet (0x00020000 : Word) 17 = true ∧ isSet (0x00008400 : Word) (12 + 3) = true ∧ isSet (0x00008400 : Word) (7 + 3) = true ∧
    ((24 : FprNum) ≠ 25 ∧ (24 : FprNum) ≠ 26 ∧ (24 : FprNum) ≠ 28 ∧ (24 : FprNum) ≠ 31) := by
  unfold FpuOn; decide

theorem test_wit_FpuArithmetic : FpuOn small ∧ EvenReg 2 ∧ EvenReg 0 ∧ EvenReg 30 := by
  unfold FpuOn EvenReg; decide

/-- A pattern of an unbounded format whose value is r is r rounded to the nearest. -/
theorem rounds_value (f : FpFmt) (x : Nat) (hx : (f.unpack .legacy x).IsFinite) : f.Rounds 0 (f.value x) x := by
  refine ⟨hx, ?_⟩
  show ∀ q, f.Has q → _
  intro q _
  simp only [sub_self, abs_zero]
  exact ⟨abs_nonneg _, fun h n => absurd (sub_eq_zero.mp (abs_eq_zero.mp h.symm)) n⟩

/-- The smallest normal and the largest number of the single format bound r (FpuRounding). -/
def Normal (r : ℝ) : Prop := (2 : ℝ) ^ FpFmt.single.eMin ≤ |r| ∧ |r| ≤ FpFmt.single.value (FpFmt.single.largest false)

theorem normal_of (r : ℝ) (h : 1 ≤ r) (h' : r ≤ 8) : Normal r := by
  have hl : FpFmt.single.unpack .legacy (FpFmt.single.largest false) = .fin false 16777215 104 := by decide
  have he : FpFmt.single.eMin = -126 := by decide
  unfold Normal FpFmt.value
  rw [hl, he, abs_of_nonneg (by linarith)]
  constructor
  · exact le_trans (by norm_num) h
  · refine le_trans h' ?_
    simp only [FpVal.rat]
    norm_num

/-- The environment of the small state, with the values of its operands: 1.5, 2.25, and in the double format 1.5. -/
theorem small_takes :
    FpFmt.single.Takes small.fpEnv 0x3FC00000 ∧ FpFmt.single.Takes small.fpEnv 0x40100000 ∧
    FpFmt.double.Takes small.fpEnv 0x3FF8000000000000 ∧
    (FpFmt.single.operand small.fpEnv 0x3FC00000).rat = 3 / 2 ∧ (FpFmt.single.operand small.fpEnv 0x40100000).rat = 9 / 4 ∧
    (FpFmt.double.operand small.fpEnv 0x3FF8000000000000).rat = 3 / 2 := by
  have ha : FpFmt.single.operand small.fpEnv 0x3FC00000 = .fin false 12582912 (-23) := by decide
  have hb : FpFmt.single.operand small.fpEnv 0x40100000 = .fin false 9437184 (-22) := by decide
  have hc : FpFmt.double.operand small.fpEnv 0x3FF8000000000000 = .fin false 6755399441055744 (-52) := by decide
  refine ⟨⟨by decide, _, _, _, ha⟩, ⟨by decide, _, _, _, hb⟩, ⟨by decide, _, _, _, hc⟩, ?_, ?_, ?_⟩ <;>
    simp only [ha, hb, hc, FpVal.rat] <;> norm_num

/-- FpuRounding: each operation on 1.5 and 2.25, with the exact value in the normal range. -/
theorem test_wit_FpuRounding :
    let f := FpFmt.single
    let v := small.fpEnv
    f ∈ fpFormats ∧
    (f.Gives v (15 / 4) (f.add v false 0x3FC00000 0x40100000) ∧ Normal (15 / 4)) ∧
    (f.Gives v (3 / 4 + 3 / 4) (f.add v true 0x40400000 0x3FC00000) ∧ Normal (3 / 4 + 3 / 4)) ∧
    (f.Gives v (27 / 8) (f.mul v 0x3FC00000 0x40100000) ∧ Normal (27 / 8)) ∧
    (f.Gives v (3 / 2) (f.div v 0x40100000 0x3FC00000) ∧ Normal (3 / 2)) ∧
    (f.Gives v (Real.sqrt (9 / 4)) (f.sqrt v 0x40100000) ∧ Normal (Real.sqrt (9 / 4))) ∧
    (f.Gives v (3 / 2) (FpFmt.double.convert f v 0x3FF8000000000000) ∧ Normal (3 / 2)) ∧
    (f.Gives v 7 (f.ofWord v 7) ∧ Normal 7) := by
  obtain ⟨ta, tb, tc, ra, rb, rc⟩ := small_takes
  have hd : FpFmt.single.operand small.fpEnv 0x40400000 = .fin false 12582912 (-22) := by decide
  have td : FpFmt.single.Takes small.fpEnv 0x40400000 := ⟨by decide, _, _, _, hd⟩
  have rd : (FpFmt.single.operand small.fpEnv 0x40400000).rat = 3 := by simp only [hd, FpVal.rat]; norm_num
  have nz : (FpFmt.single.operand small.fpEnv 0x3FC00000).rat ≠ 0 := by rw [ra]; norm_num
  have pos : 0 < (FpFmt.single.operand small.fpEnv 0x40100000).rat := by rw [rb]; norm_num
  have hs : Real.sqrt (9 / 4) = 3 / 2 := by
    rw [show (9 / 4 : ℝ) = (3 / 2) ^ 2 by norm_num]; exact Real.sqrt_sq (by norm_num)
  have h1 := FpFmt.Gives.sum _ _ ta tb
  have h2 := FpFmt.Gives.difference _ _ td ta
  have h3 := FpFmt.Gives.product _ _ ta tb
  have h4 := FpFmt.Gives.quotient _ _ tb ta nz
  have h5 := FpFmt.Gives.root _ tb pos
  have h6 := FpFmt.Gives.conversion (f := FpFmt.single) .double _ (by decide) tc
  have h7 := FpFmt.Gives.word (f := FpFmt.single) (v := small.fpEnv) 7
  rw [ra, rb] at h1 h3
  rw [rd, ra] at h2
  rw [rb, ra] at h4
  rw [rb] at h5
  rw [rc] at h6
  refine ⟨by decide, ⟨?_, normal_of _ (by norm_num) (by norm_num)⟩, ⟨?_, normal_of _ (by norm_num) (by norm_num)⟩,
    ⟨?_, normal_of _ (by norm_num) (by norm_num)⟩, ⟨?_, normal_of _ (by norm_num) (by norm_num)⟩,
    ⟨?_, normal_of _ (by rw [hs]; norm_num) (by rw [hs]; norm_num)⟩, ⟨?_, normal_of _ (by norm_num) (by norm_num)⟩,
    ⟨?_, normal_of _ (by norm_num) (by norm_num)⟩⟩
  · convert h1 using 1; norm_num
  · convert h2 using 1; norm_num
  · convert h3 using 1; norm_num
  · convert h4 using 1; norm_num
  · convert h5 using 1; norm_num
  · convert h6 using 1; norm_num
  · convert h7 using 1; norm_num [show (7 : Word).toInt = 7 by decide]

/-- The environment of the small state, with O enabled, with FS = 1, and with denormal results delivered, U enabled or not. -/
def limitEnvs : List FpEnv :=
  [small.fpEnv, { small.fpEnv with enableO := true }, { small.fpEnv with fs := true },
    { small.fpEnv with denormalResult := .ieee }, { small.fpEnv with denormalResult := .ieee, enableU := true }]

/-- FpuRangeLimits: the products 2^64 * 2^64 = 2^128 above the largest single number, and 2^-64 * 2^-64 = 2^-128 below the smallest
normal one, each with its pattern without limits of range, in each environment; and a denormal operand beside 1.5. -/
theorem test_wit_FpuRangeLimits :
    let f := FpFmt.single
    f ∈ fpFormats ∧ ((2 : ℝ) ^ 128 ≠ 0) ∧ (false = true ↔ (2 : ℝ) ^ 128 < 0) ∧ (false = true ↔ (2 : ℝ) ^ (-128 : ℤ) < 0) ∧
    (∀ v ∈ limitEnvs,
      (f.Gives v (2 ^ 128) (f.mul v 0x5F800000 0x5F800000) ∧
        ∃ y, f.unbounded.Rounds v.rm (2 ^ 128) y ∧ f.value (f.largest false) < |f.unbounded.value y|) ∧
      (f.Gives v (2 ^ (-128 : ℤ)) (f.mul v 0x1F800000 0x1F800000) ∧
        ∃ y, f.unbounded.Rounds v.rm (2 ^ (-128 : ℤ)) y ∧ |f.unbounded.value y| < (2 : ℚ) ^ f.eMin)) ∧
    limitEnvs.map (fun v => (v.enableO, v.fs, v.denormalResult)) =
      [(false, false, .unimplemented), (true, false, .unimplemented), (false, true, .unimplemented), (false, false, .ieee),
        (false, false, .ieee)] ∧
    small.fpEnv.denormalOperand = .unimplemented ∧ (1 / 2 ^ f.fracBits % 2 ^ f.expBits = 0 ∧ 1 % 2 ^ f.fracBits ≠ 0) ∧
    (f.unpack small.fpEnv.nanEncoding 0x3FC00000).IsFinite := by
  have hl : FpFmt.single.unpack .legacy (FpFmt.single.largest false) = .fin false 16777215 104 := by decide
  have he : FpFmt.single.eMin = -126 := by decide
  -- exponent fields of the unbounded format, whose bias is 32767
  have hy : FpFmt.single.unbounded.unpack .legacy (32895 * 2 ^ 23) = .fin false 8388608 105 := by decide
  have hz : FpFmt.single.unbounded.unpack .legacy (32639 * 2 ^ 23) = .fin false 8388608 (-151) := by decide
  have vy : FpFmt.single.unbounded.value (32895 * 2 ^ 23) = 2 ^ 128 := by simp only [FpFmt.value, hy, FpVal.rat]; norm_num
  have vz : FpFmt.single.unbounded.value (32639 * 2 ^ 23) = 2 ^ (-128 : ℤ) := by simp only [FpFmt.value, hz, FpVal.rat]; norm_num
  have ry := rounds_value FpFmt.single.unbounded (32895 * 2 ^ 23) ⟨_, _, _, hy⟩
  have rz := rounds_value FpFmt.single.unbounded (32639 * 2 ^ 23) ⟨_, _, _, hz⟩
  rw [vy, show (((2 : ℚ) ^ 128 : ℚ) : ℝ) = 2 ^ 128 by push_cast; rfl] at ry
  rw [vz, show (((2 : ℚ) ^ (-128 : ℤ) : ℚ) : ℝ) = 2 ^ (-128 : ℤ) by push_cast; rfl] at rz
  refine ⟨by decide, by norm_num, by norm_num, ?_, ?_, by decide, by decide, by decide, ⟨_, _, _, rfl⟩⟩
  · simp
  intro v hv
  obtain ⟨hp, hn, sp, sn, hr⟩ :
      FpFmt.single.operand v 0x5F800000 = .fin false 8388608 41 ∧ FpFmt.single.operand v 0x1F800000 = .fin false 8388608 (-87) ∧
      FpFmt.single.stopsOn v 0x5F800000 = false ∧ FpFmt.single.stopsOn v 0x1F800000 = false ∧ v.rm = 0 := by
    revert v; decide
  have h1 := FpFmt.Gives.product _ _ ⟨sp, _, _, _, hp⟩ ⟨sp, _, _, _, hp⟩
  have h2 := FpFmt.Gives.product _ _ ⟨sn, _, _, _, hn⟩ ⟨sn, _, _, _, hn⟩
  simp only [hp, FpVal.rat] at h1
  simp only [hn, FpVal.rat] at h2
  rw [hr]
  refine ⟨⟨?_, 32895 * 2 ^ 23, ry, ?_⟩, ?_, 32639 * 2 ^ 23, rz, ?_⟩
  · convert h1 using 1; norm_num
  · rw [vy]; simp only [FpFmt.value, hl, FpVal.rat]; norm_num
  · convert h2 using 1; norm_num
  · rw [vz, he]; norm_num

/-- FpuSpecialOperands: patterns of each kind in the double format: NaNs, infinities, zeros, numbers. -/
theorem test_wit_FpuSpecialOperands :
    let f := FpFmt.double
    let v := small.fpEnv
    f ∈ fpFormats ∧ f.operand v 0x7FFFFFFFFFFFFFFF = .nan true ∧ f.operand v 0x7FF7FFFFFFFFFFFF = .nan false ∧
    f.operand v 0x7FF0000000000000 = .inf false ∧ f.operand v 0xFFF0000000000000 = .inf true ∧
    (∃ e, f.operand v 0 = .fin false 0 e) ∧ (∃ e, f.operand v 0x8000000000000000 = .fin true 0 e) ∧
    (∃ e, f.operand v 0xBFF0000000000000 = .fin true 4503599627370496 e) ∧ f.stopsOn v 0 = false ∧
    f.stopsOn v 0xBFF0000000000000 = false ∧ f.stopsOn v 0x7FFFFFFFFFFFFFFF = false ∧
    (FpVal.fin false 0 0).rat + (FpVal.fin true 0 0).rat = 0 ∧ (FpVal.fin true 3 2).rat - (FpVal.fin true 3 2).rat = 0 :=
  ⟨by decide, by decide, by decide, by decide, by decide, ⟨_, rfl⟩, ⟨_, rfl⟩, ⟨_, rfl⟩, by decide, by decide, by decide,
    by simp [FpVal.rat], by simp⟩

/-- FpuToInteger: a finite pattern and an infinity. -/
theorem test_wit_FpuToInteger :
    FpFmt.single.stopsOn small.fpEnv 0x3FC00000 = false ∧ (FpFmt.single.operand small.fpEnv 0x3FC00000).IsFinite ∧
    FpFmt.single.stopsOn small.fpEnv 0x7F800000 = false ∧ FpFmt.single.operand small.fpEnv 0x7F800000 = .inf false :=
  ⟨by decide, ⟨_, _, _, rfl⟩, by decide, by decide⟩

theorem test_wit_FpuConversions : FpuOn small ∧ EvenReg 2 ∧ EvenReg 30 := by unfold FpuOn EvenReg; decide

theorem test_wit_FpuCompares : FpuOn small ∧ EvenReg 2 ∧ EvenReg 0 := by unfold FpuOn EvenReg; decide

/-- ExceptionEntry: a refill and an interrupt with IV below EXL, another exception, and EXL set. -/
theorem test_wit_ExceptionEntry :
    (let s := { small with cp0 := { small.cp0 with cause := 0x00800000 } }
     isSet s.cp0.status 1 = false ∧ isSet s.cp0.cause 23 = true ∧ (takeException .int s).pc = 0x80000200 ∧
     (takeException (.tlbRefill 5 false) s).pc = 0x80000000 ∧ (takeException .sys s).pc = 0x80000180) ∧
    (let s := { small with cp0 := { small.cp0 with status := 2 } }
     isSet s.cp0.status 1 = true ∧ (takeException (.tlbRefill 5 false) s).pc = 0x80000180) ∧
    (∀ e : Exc, e = .sys → ¬∃ va st, e = .mod va ∨ e = .tlbRefill va st ∨ e = .tlbInvalid va st ∨ e = .addressError va st) := by
  refine ⟨by decide, by decide, ?_⟩
  rintro _ rfl ⟨_, _, h | h | h | h⟩ <;> cases h


theorem test_wit_NonMaskableInterrupt : let s := { small with nmiPending := true }
    CpuNext s ∧ s.nmiPending = true := ⟨⟨rfl, rfl, reset_noBurst⟩, rfl⟩

/-- The state after reset with a word placed, and software interrupt 0 requested and enabled. -/
def requested (w : Nat) : State :=
  { (State.reset.withFetchWord 32 w) with cp0 := { Cp0.reset with status := 0x20000101, cause := 0x100 } }

/-- InterruptTaken: software interrupt 0 before an instruction that completes (ADDIU), one that raises an exception (SYSCALL), and
one that stops (an FPU addition that names an odd register). -/
theorem test_wit_InterruptTaken :
    let u (w : Nat) : State := { requested w with waiting := false, excTaken := false }
    (∀ w ∈ [0x2404FFFF, 0x0000000C, 0x46051000],
      CpuNext (requested w) ∧ (requested w).nmiPending = false ∧ (requested w).mayDelayInterrupt = false ∧
      (requested w).ip &&& (requested w).cp0.status.extractLsb' 8 8 ≠ 0 ∧ isSet (requested w).cp0.status 0 = true ∧
      isSet (requested w).cp0.status 1 = false ∧ isSet (requested w).cp0.status 2 = false) ∧
    (∃ t, runInstr (u 0x2404FFFF) = .next t ∧ t.excTaken = false) ∧
    (∃ t, runInstr (u 0x0000000C) = .next t ∧ t.excTaken = true) ∧ runInstr (u 0x46051000) = .refused .oddFpr := by
  refine ⟨?_, ⟨_, rfl, rfl⟩, ⟨_, rfl, rfl⟩, rfl⟩
  intro w hw
  refine ⟨⟨rfl, rfl, reset_noBurst⟩, rfl, rfl, ?_⟩
  revert w
  decide

/-- FetchExceptions: PC misaligned, PC in a page the TLB does not hold, and words that are no instruction of CP2, which is not
usable, and of no coprocessor. -/
theorem test_wit_FetchExceptions :
    let at' (a : Word) : State := { mapped with pc := a, excTaken := false }
    let word (w : Nat) : State := State.reset.withFetchWord 32 w
    InstructionNext (at' 0x80001002) ∧ fetchHazard (at' 0x80001002) = none ∧
    Machine.translate 0x80001002 .fetch (at' 0x80001002) = .ok (0x1002, false) (at' 0x80001002) ∧
    InstructionNext (at' 4) ∧ fetchHazard (at' 4) = none ∧
    Machine.translate 4 .fetch (at' 4) = .exc (.tlbRefill 4 false) (at' 4) ∧
    (∀ w ∈ [0x48000000, 0xFC000000], InstructionNext (word w) ∧ fetchHazard (word w) = none) ∧
    (∃ t, Machine.fetch (word 0x48000000) = .ok 0x48000000 t ∧ wordHazard 0x48000000 t = none ∧ isSet t.cp0.status 30 = false) ∧
    (∃ e, decode 0x48000000 = .error e) ∧ (∃ t, Machine.fetch (word 0xFC000000) = .ok 0xFC000000 t ∧ wordHazard 0xFC000000 t = none) ∧
    (∃ e, decode 0xFC000000 = .error e) := by
  refine ⟨⟨⟨rfl, rfl, reset_noBurst⟩, rfl, rfl, by decide⟩, rfl, rfl, ⟨⟨rfl, rfl, reset_noBurst⟩, rfl, rfl, by decide⟩, rfl, rfl,
    fun w hw => ⟨⟨⟨rfl, rfl, reset_noBurst⟩, rfl, rfl, ?_⟩, rfl⟩, ⟨_, rfl, rfl, by decide⟩, ⟨_, rfl⟩, ⟨_, rfl, rfl⟩, ⟨_, rfl⟩⟩
  revert w
  decide

theorem test_wit_TimerPeriods :
    let t := { ItTimer.reset with en := true, period := 3, count := 3, scale := 0xFF, scount := 0xFF }
    t.en = true ∧ t.int = false ∧ t.count = t.period ∧ t.scount = t.scale ∧ small.sys.coreClockOn = true := by
  decide

/-- SystemRegisters: Kernel mode, the first, a middle and the last address, with an offset of either sign; values with FLUSH and
without. -/
theorem test_wit_SystemRegisters :
    isSet small.cp0.status 4 = false ∧
    (let s := { small with gpr := small.gpr.set 4 0xB82F4010 }
     (s.readGpr 4 + (0xFFF0 : BitVec 16).signExtend 32).toNat = 0xB82F0000 + 0x4000 ∧
     (s.readGpr 4 + (0xC : BitVec 16).signExtend 32).toNat = 0xB82F0000 + 0x401C ∧
     (s.readGpr 4 + (0x20 : BitVec 16).signExtend 32).toNat = 0xB82F0000 + 0x4030) ∧
    (0x1800 : Word).getLsbD 12 = true ∧ (small.readGpr 1).getLsbD 12 = false := by
  decide

/-- InterruptRouting: the reserved bits of Cause are zero, as in every state a run reaches. -/
theorem test_wit_InterruptRouting : small.cp0.cause &&& 0x7F7FFC03 = 0 := by decide

/-- MemoryStaysLegal and RegistersStayLegal: a legal state that steps. -/
theorem test_wit_StaysLegal :
    let s := State.reset.withFetchWord 32 0x2404FFFF
    MemoryLegal s ∧ RegistersLegal s ∧ ∃ t, step s = .next t := by
  refine ⟨⟨by decide, by decide⟩, ?_, ⟨_, rfl⟩⟩
  unfold RegistersLegal
  decide

/-- StepRunsDecoded: ADDIU r4, r0, -1 in CRAM, with nothing to refuse; and ADDIU r4, r4, 1 after a load of r4, which the profile
strict refuses. -/
theorem test_wit_StepRunsDecoded :
    let s := { small with pc := 0xB8000000, mem := [(0x18000000, 0xFF), (0x18000001, 0xFF), (0x18000002, 4), (0x18000003, 0x24)] }
    InstructionNext s ∧ fetchHazard s = none ∧ s.pc.toNat % 4 = 0 ∧
    Machine.translate s.pc .fetch s = .ok (0x18000000, false) s ∧
    (isSet s.cp0.status 2 = false ∨ 0x80000000 ≤ s.pc.toNat) ∧ PlainRam s 0x18000000 ∧ wordAt s 0x18000000 = 0x2404FFFF ∧
    decodeBytes [Memory.read s.mem 0x18000000, Memory.read s.mem (0x18000000 + 1), Memory.read s.mem (0x18000000 + 2),
      Memory.read s.mem (0x18000000 + 3)] = .ok (.addiu 0 4 0xFFFF, []) ∧
    hazardOf 0x2404FFFF (.addiu 0 4 0xFFFF) s = none ∧
    hazardOf 0x24840001 (.addiu 4 4 1) { s with hazard := { HazardTrack.clear with loadedGpr := some 4 } } =
      some .hazardLoadUse :=
  ⟨⟨⟨rfl, rfl, reset_noBurst⟩, rfl, rfl, by decide⟩, rfl, by decide, rfl, by decide, ⟨rfl, .inl ⟨by decide, by decide, by decide⟩⟩,
    by decide, rfl, by decide, by decide⟩

theorem test_wit_DecodeEncode : (Instr.addS 30 2 0).wellFormed = true ∧ (Instr.jalr 31 0 31).wellFormed = true := by decide

theorem test_wit_EncodeDecode : decode 0x00221820 = .ok (.add 1 2 3) := by rfl

end Sys2Proof.Tests
end

section
/-! SUPPORT. Every instruction and every step keeps the well-formed states (`KeepsLegal`), and the state after reset is one. -/

namespace Sys2Proof.Machine

open Sys2Proof

/-! ## Conditions and outcomes -/

theorem KeepsLegal.ite {s t u : State} {c : Prop} [Decidable c] (ht : KeepsLegal s t) (hu : KeepsLegal s u) :
    KeepsLegal s (if c then t else u) := by
  split
  · exact ht
  · exact hu

theorem Res.legal_ite {α : Type} {s : State} {q r : Res α} {c : Prop} [Decidable c] (hq : Res.Legal s q) (hr : Res.Legal s r) :
    Res.Legal s (if c then q else r) := by
  split
  · exact hq
  · exact hr

theorem outcomeLegal_next {s t : State} (h : KeepsLegal s t) : OutcomeLegal s (.next t) := by
  rintro u ⟨⟩
  exact h

theorem outcomeLegal_fault {s : State} {f : Fault} : OutcomeLegal s (.fault f) := fun _ h => by simp at h

theorem outcomeLegal_refused {s : State} {r : Refusal} : OutcomeLegal s (.refused r) := fun _ h => by simp at h

/-- A first change that keeps the state well formed, before an outcome. -/
theorem OutcomeLegal.after {s t : State} {o : Outcome State Fault Refusal} (h : KeepsLegal s t) (ho : OutcomeLegal t o) :
    OutcomeLegal s o := fun u e => h.trans (ho u e)

/-- A change of the state that keeps it well formed, as a whole instruction. -/
theorem finish_done_legal {s t : State} (h : KeepsLegal s t) : OutcomeLegal s (finish (.done t)) :=
  finish_legal (Res.legal_ok h)

/-- An exception, as a whole instruction. -/
theorem finish_exc_legal (e : Exc) (s : State) : OutcomeLegal s (finish (.exc e s)) := finish_legal (Res.legal_exc (.refl s))

/-! ## Instructions with an operation of their own -/

theorem loadLinked_legal (rt : GprNum) (va : Word) (s : State) : Res.Legal s (loadLinked rt va s) := by
  unfold loadLinked
  split
  · exact Res.legal_exc (.refl s)
  · refine Res.legal_andThen (translate_legal ..) fun _ _ => Res.legal_andThen (busRead_legal ..) fun _ u => Res.legal_ok ?_
    have hll (a : BitVec 28) : KeepsLegal u { u with cp0 := { u.cp0 with llAddr := a }, llbit := true } := ⟨id, id⟩
    exact (hll _).trans (putGpr_legal ..)

theorem storeConditional_legal (rt : GprNum) (va : Word) (s : State) : Res.Legal s (storeConditional rt va s) := by
  unfold storeConditional
  split
  · exact Res.legal_exc (.refl s)
  · refine Res.legal_andThen (translate_legal ..) fun _ t => ?_
    split
    · refine Res.legal_andThen (busWrite_legal ..) fun _ u => Res.legal_ok ?_
      have hll : KeepsLegal u { u with llbit := false } := .same rfl
      exact hll.trans (putGpr_legal ..)
    · exact Res.legal_ok (putGpr_legal ..)

theorem execJalr_legal (rs rd : GprNum) (hint : BitVec 5) (s : State) : OutcomeLegal s (execJalr rs rd hint s) := by
  unfold execJalr
  split
  · exact outcomeLegal_refused
  · exact jumpTo_legal _ _ _ (putGpr_legal ..)

theorem execEret_legal (s : State) : OutcomeLegal s (execEret s) := by
  unfold execEret
  split
  · exact finish_exc_legal _ _
  · split
    · exact outcomeLegal_refused
    · exact outcomeLegal_next (returnFromException_legal s)

theorem execTlbp_legal (s : State) : OutcomeLegal s (execTlbp s) := by
  refine finish_legal (needCp0_legal (Res.legal_ite ?_ (tlbProbe_legal s)))
  exact Res.legal_ok ⟨id, fun ⟨h1, h2, h3, h4, h5, h6, h7, h8, h9, h10⟩ =>
    ⟨(putBit_and (by decide) _).trans h1, h2, h3, h4, h5, h6, h7, h8, h9, h10⟩⟩

theorem execTlbwi_legal (s : State) : OutcomeLegal s (execTlbwi s) :=
  finish_legal (needCp0_legal (Res.legal_ite (Res.legal_ok (.refl s)) (tlbWrite_legal ..)))

theorem execTlbwr_legal (s : State) : OutcomeLegal s (execTlbwr s) :=
  finish_legal (needCp0_legal (Res.legal_ite (Res.legal_ok (.refl s))
    (Res.legal_after (randomUse_legal s) (tlbWrite_legal ..))))

/-! ## Every instruction -/

/-- Every instruction keeps the state well formed, because the operation it calls does. -/
theorem exec_legal (i : Instr) (s : State) : OutcomeLegal s (exec i s) := by
  cases i with
  | add | addi | sub => exact setRegChecked_legal _ _ _
  | addiu | addu | subu | slt | slti | sltiu | sltu | andr | andi | orr | ori | xorr | xori | norr | lui | sll | srl | sra
  | sllv | srlv | srav | clz | clo => exact setReg_legal _ _ _ _ (.refl s)
  | mult | multu | madd | maddu | msub | msubu => exact finish_done_legal (putHiLo_legal ..)
  | mul => exact finish_done_legal ((freeHiLo_legal ..).trans (putGpr_legal ..))
  | div | divu => exact finish_done_legal (.ite (freeHiLo_legal ..) (putHiLo_legal ..))
  | mfhi | mflo => exact setReg_legal _ _ _ _ (.same rfl)
  | mthi | mtlo => exact finish_done_legal (.ite (.same rfl) (.same rfl))
  | movn | movz => exact finish_legal (moveIf_legal ..)
  | movf | movt => exact finish_legal (needFpu_legal (moveIf_legal ..))
  | j | jr => exact jumpTo_legal _ _ _ (.refl s)
  | jal => exact jumpTo_legal _ _ _ (putGpr_legal ..)
  | jalr rs rd hint => exact execJalr_legal _ _ hint s
  | beq | bne | blez | bgtz | bltz | bgez | beql | bnel | blezl | bgtzl | bltzl | bgezl =>
    exact branchIf_legal _ _ _ _ _ (.refl s)
  | bltzal | bgezal | bltzall | bgezall => exact branchAndLink_legal _ _ _ _ _
  | lb | lbu | lh | lhu | lw | lwl | lwr =>
    exact finish_legal (Res.legal_andThen (memRead_legal ..) fun _ _ => Res.legal_ok (putGpr_legal ..))
  | sb | sh | sw | swl | swr => exact finish_legal (memWrite_legal ..)
  | ll => exact finish_legal (loadLinked_legal ..)
  | sc => exact finish_legal (storeConditional_legal ..)
  | pref | sync => exact finish_done_legal (.refl s)
  | syscall | brk => exact finish_exc_legal _ _
  | teq | tne | tge | tgeu | tlt | tltu | teqi | tnei | tgei | tgeiu | tlti | tltiu => exact trapIf_legal _ _
  | mfc0 =>
    exact finish_legal (needCp0_legal (Res.legal_andThen (readCp0_legal ..) fun _ _ => Res.legal_ok (putGpr_legal ..)))
  | mtc0 => exact finish_legal (needCp0_legal (Res.legal_ok (writeCp0_legal ..)))
  | eret => exact execEret_legal s
  | tlbp => exact execTlbp_legal s
  | tlbr => exact finish_legal (needCp0_legal (Res.legal_ok (.ite (.refl s) (tlbRead_legal ..))))
  | tlbwi => exact execTlbwi_legal s
  | tlbwr => exact execTlbwr_legal s
  | cache => exact finish_legal (needCp0_legal (cacheOp_legal ..))
  | wait => exact finishControl_legal (needCp0_legal (Res.legal_ok (.same rfl)))
  | addS | subS | mulS | divS | sqrtS | absS | negS | cvtSD | cvtSW | cvtWS | cvtWD | roundWS | roundWD | truncWS | truncWD
  | ceilWS | ceilWD | floorWS | floorWD => exact fpuOp_legal _ (completeS_legal ..)
  | addD | subD | mulD | divD | sqrtD | absD | negD | cvtDS | cvtDW => exact fpuOp_legal _ (completeD_legal ..)
  | movS | movfS | movtS | movnS | movzS => exact fpuOp_legal _ (copyS_legal ..)
  | movD | movfD | movtD | movnD | movzD => exact fpuOp_legal _ (copyD_legal ..)
  | mfc1 => exact finish_legal (needFpu_legal (Res.legal_ok (putGpr_legal ..)))
  | mtc1 => exact finish_legal (needFpu_legal (Res.legal_ok (putFgr_legal ..)))
  | cfc1 =>
    exact finish_legal (needFpu_legal (Res.legal_andThen (readFcr_legal ..) fun _ _ => Res.legal_ok (putGpr_legal ..)))
  | ctc1 => exact finish_legal (needFpu_legal (moveTrap_legal (writeFcr_legal ..)))
  | lwc1 =>
    exact finish_legal (needFpu_legal (Res.legal_andThen (memRead_legal ..) fun _ _ => Res.legal_ok (putFgr_legal ..)))
  | swc1 => exact finish_legal (needFpu_legal (memWrite_legal ..))
  | ldc1 => exact fpuOp_legal _ (Res.legal_andThen (memRead64_legal ..) fun _ _ => Res.legal_ok (putFpr_legal ..))
  | sdc1 => exact fpuOp_legal _ (memWrite64_legal ..)
  | bc1f | bc1t | bc1fl | bc1tl => exact branchFcc_legal _ _ _ _ _
  | cFS | cUnS | cEqS | cUeqS | cOltS | cUltS | cOleS | cUleS | cSfS | cNgleS | cSeqS | cNglS | cLtS | cNgeS | cLeS | cNgtS =>
    exact compareS_legal _ _ _ _ _
  | cFD | cUnD | cEqD | cUeqD | cOltD | cUltD | cOleD | cUleD | cSfD | cNgleD | cSeqD | cNglD | cLtD | cNgeD | cLeD | cNgtD =>
    exact compareD_legal _ _ _ _ _

/-! ## The step of the CPU -/

/-- An exception entry with what the strict profile tracks of it. -/
theorem takeException_tracked_legal (e : Exc) (s u : State) (last : HazardTrack) (writes : List (Cp0Write × Nat)) :
    OutcomeLegal s (.next ((takeException e s).trackEntry u last writes)) :=
  outcomeLegal_next ((takeException_legal e s).trans (trackEntry_legal ..))

/-- A fetched word, decoded and executed, keeps the state well formed. -/
theorem execWord_legal (w : Word) (s : State) : OutcomeLegal s (execWord w s) := by
  unfold execWord
  split
  · split
    · exact outcomeLegal_refused
    · exact takeException_tracked_legal _ _ _ _ _
  · next i _ =>
    split
    · exact outcomeLegal_refused
    · split
      · next t ht => exact outcomeLegal_next ((exec_legal i s t ht).trans (track_legal ..))
      · exact outcomeLegal_fault
      · exact outcomeLegal_refused

theorem runInstr_legal (s : State) : OutcomeLegal s (runInstr s) := by
  unfold runInstr
  split
  · exact outcomeLegal_refused
  · split
    · next w t ht => exact .after ((fetch_legal s).1 w t ht) (execWord_legal w t)
    · next e t ht => exact .after ((fetch_legal s).2 e t ht) (takeException_tracked_legal _ _ _ _ _)
    · exact outcomeLegal_fault
    · exact outcomeLegal_refused

theorem runInterrupt_legal (s : State) : OutcomeLegal s (runInterrupt s) := by
  have hint : KeepsLegal s (takeException .int s.enterHandler) := (enterHandler_legal s).trans (takeException_legal ..)
  unfold runInterrupt
  split
  · next t ht =>
    refine outcomeLegal_next ?_
    split
    · exact runInstr_legal s t ht
    · exact hint
  · exact outcomeLegal_next hint

theorem runCpu_legal (s : State) : OutcomeLegal s (runCpu s) := by
  unfold runCpu
  split
  · exact outcomeLegal_next ((takeNmi_legal s).trans (trackEntry_legal ..))
  · split
    · exact outcomeLegal_next (.refl s)
    · have hflags : KeepsLegal s { s with waiting := false, excTaken := false } := .same rfl
      refine .after hflags ?_
      generalize ({ s with waiting := false, excTaken := false } : State) = u
      have hdraw : KeepsLegal u (if u.mayDelayInterrupt && u.interruptRequest then u.drawn else u) :=
        .ite (drawn_core u).kept.legalStep (.refl u)
      dsimp only
      split
      · exact .after hdraw (runInterrupt_legal _)
      · exact .after hdraw (runInstr_legal _)

theorem afterCpu_legal {s : State} {o : Outcome State Fault Refusal} (h : OutcomeLegal s o) :
    OutcomeLegal s (afterCpu o) := by
  cases o with
  | next t => exact outcomeLegal_next ((h t rfl).trans ((endStep_legal t).trans (clkTick_legal _)))
  | fault f => exact outcomeLegal_fault
  | refused r => exact outcomeLegal_refused

/-! ## The moves of the agents -/

theorem agentOutcome_legal {s : State} {r : Res Unit} (h : Res.Legal s r) : OutcomeLegal s (agentOutcome r) := by
  cases r with
  | ok a t => exact outcomeLegal_next (h.1 a t rfl)
  | exc e t => exact outcomeLegal_next (h.2 e t rfl)
  | fault f => exact outcomeLegal_fault
  | refuse r => exact outcomeLegal_refused

/-- Levels of nIRQ keep the state well formed, also where they wake the core. -/
theorem setIrqPins_legal (v : BitVec 4) (s : State) : Res.Legal s (setIrqPins v s) := by
  have hpins (latch : BitVec 4) : KeepsLegal s { s with sys := { s.sys with nIrq := v, irqLatch := latch } } := .same rfl
  unfold setIrqPins
  exact Res.legal_ite (Res.legal_after (hpins _) (wakeCore_legal _)) (Res.legal_ok (hpins _))

/-- A level of NMI keeps the state well formed, also where it wakes the core. -/
theorem setNmiPin_legal (v : Bool) (s : State) : Res.Legal s (setNmiPin v s) := by
  have hpin (p : Bool) : KeepsLegal s { s with sys := { s.sys with nmiPin := v }, nmiPending := p } := .same rfl
  unfold setNmiPin
  exact Res.legal_ite (Res.legal_after (hpin _) (wakeCore_legal _)) (Res.legal_ok (hpin _))

theorem portMoveOn_legal (p : BitVec 2) (f : Mfbsp → Mfbsp) (s : State) : Res.Legal s (portMoveOn p f s) := by
  unfold portMoveOn
  exact Res.legal_ite (Res.legal_ok (.refl s)) (Res.legal_ite Res.legal_fault (Res.legal_ok (.same rfl)))

/-- Every move of an agent keeps the state well formed. -/
theorem agentMove_legal (m : Move) (s : State) : Res.Legal s (agentMove m s) := by
  have hdrawn : KeepsLegal s s.drawn := (drawn_core s).kept.legalStep
  cases m with
  | clk => exact Res.legal_ok (clkTick_legal s)
  | rtt => exact Res.legal_ok (rttTick_legal s)
  | sdrDone | uartStart | uartRx => exact Res.legal_ok (.ite (.same rfl) (.refl s))
  | swicIn | swicTx => exact Res.legal_ok (.ite (putSwic_core ..).kept.legalStep (.refl s))
  | dma c => exact (dmaMove_kept c s).legal
  | dsp i => exact Res.legal_ite (Res.legal_ok (.refl s)) (dspStep_kept i s).legal
  | dspBegin i => exact Res.legal_ok (dspBegin_core i s).kept.legalStep
  | dspEnd => exact (dspEnd_kept s).legal
  | mfbspTxStart | mfbspTx | mfbspRx =>
    unfold agentMove
    exact Res.legal_after hdrawn (portMoveOn_legal ..)
  | mfbspRxStart | mfbspBad => exact portMoveOn_legal ..
  | nIrq v => exact setIrqPins_legal v s
  | nmi v => exact setNmiPin_legal v s
  | between | mfbspPins | nDmar | flyIn | eccFault | cacheFault => exact Res.legal_ok (.same rfl)
  | reset => exact Res.legal_ok (hardwareReset_legal s)

/-! ## Every step -/

theorem cpuStep_legal (s : State) : OutcomeLegal s (cpuStep s) := by
  unfold cpuStep
  split
  · split
    · exact agentOutcome_legal (dmaMove_kept _ s).legal
    · exact afterCpu_legal (runCpu_legal s)
  · split
    · exact agentOutcome_legal (wakeCore_legal s)
    · exact outcomeLegal_next (.refl s)

/-- Every step keeps the state well formed, whichever agent moves (R1050). -/
theorem step_legal (s : State) : OutcomeLegal s (step s) := by
  unfold step runStep
  split
  · next m rest _ =>
    have hmoves : KeepsLegal s { s with moves := rest } := .same rfl
    exact .after hmoves (agentOutcome_legal (agentMove_legal m _))
  · exact cpuStep_legal s

/-- The registers after reset are well formed (R1201). -/
theorem reset_registersLegal : RegistersLegal State.reset := by
  unfold RegistersLegal
  decide

/-- Settles O54: memory is empty after reset, and no reserved bit is set. -/
theorem resetLegal : Obligations.ResetLegal := ⟨⟨by decide, by decide⟩, reset_registersLegal⟩

/-- Settles O56: a step is a move of an agent or a step of the CPU, and each keeps the state well formed. -/
theorem registersStayLegal : Obligations.RegistersStayLegal := fun s t hs ht => (step_legal s t ht).2 hs

end Sys2Proof.Machine
end

section
/-! SUPPORT. MFC0: what a read of CP0 changes, and what each register reads as (R25 to R46, R716). -/

namespace Sys2Proof.Machine

open Sys2Proof

/-! ## The instruction -/

/-- MFC0 with CP0 usable: the value read goes to the register (R716). -/
theorem exec_mfc0 {s t : State} {rd : BitVec 5} {sel : BitVec 3} {v : Word} (rt : GprNum) (hp : Privileged s)
    (hr : readCp0 rd sel s = .ok v t) : exec (.mfc0 rt rd sel) s = .next (t.putGpr rt v).advance := by
  show finish (needCp0 s ((readCp0 rd sel s).andThen fun v s => .done (s.putGpr rt v))) = _
  rw [hr, needCp0, if_pos ((cp0Usable_iff s).2 hp)]
  rfl

/-- A read that leaves the state alone computes its value. -/
theorem mfc0_computes {s : State} {rd : BitVec 5} {sel : BitVec 3} {v : Word} (rt : GprNum) (hp : Privileged s)
    (hr : readCp0 rd sel s = .ok v s) : Computes (.mfc0 rt rd sel) s rt v := computes_of_ok (exec_mfc0 rt hp hr)

/-- A read that draws a free value changes CP0 and the counter of the free values at most. -/
theorem mfc0_completes {s t : State} {rd : BitVec 5} {sel : BitVec 3} {v : Word} (rt : GprNum) (hp : Privileged s)
    (hr : readCp0 rd sel s = .ok v t) (ht : t = { s with cp0 := t.cp0, freeCtr := t.freeCtr }) :
    Completes (.mfc0 rt rd sel) s fun u =>
      GprHolds rt v s u ∧ MovesOn s u ∧ SameMemory s u ∧ OnlyCp0 s u ∧ u.cp0 = t.cp0 := by
  refine ⟨_, exec_mfc0 rt hp hr, ?_⟩
  obtain ⟨hgpr, hpc, hmem, honly⟩ := gpr_advance t rt v
  have hcp0 : (t.putGpr rt v).advance.cp0 = t.cp0 := by simp
  have hctr : (t.putGpr rt v).advance.freeCtr = t.freeCtr := by simp
  generalize (t.putGpr rt v).advance = u at *
  rw [ht] at hgpr hpc hmem
  refine ⟨hgpr, hpc, hmem, ?_, hcp0⟩
  unfold OnlyGpr at honly
  unfold OnlyCp0
  rw [hcp0, hctr]
  exact honly.trans (congrArg (fun s : State => { s with gpr := u.gpr, pc := u.pc, slot := u.slot }) ht)

/-- Every read of CP0 succeeds and changes the counter of the free values at most, one of Random its register too (R29, R716). -/
theorem readCp0_ok (rd : BitVec 5) (sel : BitVec 3) (s : State) :
    ∃ v t, readCp0 rd sel s = .ok v t ∧ t = { s with cp0 := t.cp0, freeCtr := t.freeCtr } ∧
      (rd ≠ 1 ∨ sel ≠ 0 → t.cp0 = s.cp0) := by
  unfold readCp0
  dsimp only
  split
  · next hsel =>
    split
    case h_2 hrd =>
      have h1 : rd = 1 := BitVec.eq_of_toNat_eq hrd
      exact ⟨_, _, rfl, rfl, fun h => absurd h (by simp [h1, hsel])⟩
    all_goals exact ⟨_, _, rfl, rfl, fun _ => rfl⟩
  · split
    · exact ⟨_, _, rfl, rfl, fun _ => rfl⟩
    · exact ⟨_, _, rfl, rfl, fun _ => rfl⟩

/-! ## Random (R29, D17) -/

theorem mfc0_random (s : State) (rt : GprNum) (hp : Privileged s) :
    Completes (.mfc0 rt 1 0) s fun t =>
      (∃ r : Word, s.cp0.wired.toNat ≤ r.toNat ∧ r.toNat ≤ 15 ∧ GprHolds rt r s t) ∧ MovesOn s t ∧ SameMemory s t ∧
      OnlyCp0 s t ∧ t.cp0 = { s.cp0 with random := t.cp0.random } := by
  obtain ⟨u, hu, hgpr, hpc, hmem, honly, hcp0⟩ :=
    mfc0_completes (rd := 1) (sel := 0) (v := zext s.randomUse.cp0.random) (t := s.randomUse) rt hp rfl rfl
  have hval : (zext s.randomUse.cp0.random : Word).toNat = s.randomUse.cp0.random.toNat := by
    unfold zext
    rw [BitVec.toNat_setWidth]
    omega
  have hge : s.cp0.wired.toNat ≤ s.randomUse.cp0.random.toNat := BitVec.le_def.1 (wired_le_randomAfter s.cp0 _)
  refine ⟨u, hu, ⟨_, by omega, by omega, hgpr⟩, hpc, hmem, honly, ?_⟩
  rw [hcp0]
  rfl

/-! ## Config (R43) -/

/-- A used cache code reads back as it was written (R31). -/
theorem readCacheCode_used {c : BitVec 3} (h : c = 2 ∨ c = 3) (converted : Bool) : readCacheCode c converted = c := by
  rcases h with rfl | rfl <;> cases converted <;> rfl

/-- The word of Config from its fields MT, K23, KU and K0. -/
def configFields (mt k23 ku k0 : BitVec 3) : Word :=
  1#1 ++ k23 ++ ku ++ 0#4 ++ 1#1 ++ 0#10 ++ mt ++ 0#4 ++ k0

theorem configWord_fixed {s : State} (h : s.fixedMapping = true) (b23 bu b0 : Bool) :
    s.configWord b23 bu b0 =
      configFields 3 (readCacheCode s.cp0.k23 b23) (readCacheCode s.cp0.ku bu) (readCacheCode s.cp0.k0 b0) := by
  simp only [State.configWord, h, if_true]
  rfl

theorem configWord_tlb {s : State} (h : s.fixedMapping = false) (b23 bu b0 : Bool) :
    s.configWord b23 bu b0 = configFields 1 0 0 (readCacheCode s.cp0.k0 b0) := by
  simp only [State.configWord, h, Bool.false_eq_true, if_false]
  rfl

theorem configFields_k0 (mt k23 ku k0 : BitVec 3) : (configFields mt k23 ku k0).extractLsb' 0 3 = k0 := by
  unfold configFields
  ext i hi
  simp only [BitVec.getElem_extractLsb', BitVec.getLsbD_append]
  interval_cases i <;> simp [BitVec.getLsbD_eq_getElem]

theorem configFields_k23 (mt k23 ku k0 : BitVec 3) : (configFields mt k23 ku k0).extractLsb' 28 3 = k23 := by
  unfold configFields
  ext i hi
  simp only [BitVec.getElem_extractLsb', BitVec.getLsbD_append]
  interval_cases i <;> simp [BitVec.getLsbD_eq_getElem]

theorem configFields_ku (mt k23 ku k0 : BitVec 3) : (configFields mt k23 ku k0).extractLsb' 25 3 = ku := by
  unfold configFields
  ext i hi
  simp only [BitVec.getElem_extractLsb', BitVec.getLsbD_append]
  interval_cases i <;> simp [BitVec.getLsbD_eq_getElem]

/-- The constant bits of Config with fixed mapping. -/
theorem configFields_fixed : ∀ k23 ku k0 : BitVec 3, configFields 3 k23 ku k0 &&& 0x81FFFFF8 = 0x80100180 := by decide

/-- The constant bits of Config in TLB mode. -/
theorem configFields_tlb : ∀ k0 : BitVec 3, configFields 1 0 0 k0 &&& 0xFFFFFFF8 = 0x80100080 := by decide

/-- What Config reads as, whatever the free bits are (R43, U3, log 28). -/
theorem configWord_spec (s : State) (b23 bu b0 : Bool) :
    (if isSet s.sys.csr 0 then s.configWord b23 bu b0 &&& 0x81FFFFF8 = 0x80100180
      else s.configWord b23 bu b0 &&& 0xFFFFFFF8 = 0x80100080) ∧
    (s.cp0.k0 = 2 ∨ s.cp0.k0 = 3 → (s.configWord b23 bu b0).extractLsb' 0 3 = s.cp0.k0) ∧
    (isSet s.sys.csr 0 = true → s.cp0.k23 = 2 ∨ s.cp0.k23 = 3 → (s.configWord b23 bu b0).extractLsb' 28 3 = s.cp0.k23) ∧
    (isSet s.sys.csr 0 = true → s.cp0.ku = 2 ∨ s.cp0.ku = 3 → (s.configWord b23 bu b0).extractLsb' 25 3 = s.cp0.ku) := by
  cases hfm : isSet s.sys.csr 0
  · rw [configWord_tlb hfm]
    refine ⟨configFields_tlb _, fun hk => ?_, nofun, nofun⟩
    rw [configFields_k0, readCacheCode_used hk]
  · rw [configWord_fixed hfm]
    refine ⟨configFields_fixed _ _ _, fun hk => ?_, fun _ hk => ?_, fun _ hk => ?_⟩
    · rw [configFields_k0, readCacheCode_used hk]
    · rw [configFields_k23, readCacheCode_used hk]
    · rw [configFields_ku, readCacheCode_used hk]

/-! ## The statement -/

/-- Settles O28: each register is one case of readCp0; Random and Config, which draw free values, have lemmas of their own. -/
theorem cp0Reads : Obligations.Cp0Reads := by
  intro s rt hp fm reads
  have hreads {rd : BitVec 5} {v : Word} (hr : readCp0 rd 0 s = .ok v s) : reads rd v := mfc0_computes rt hp hr
  refine ⟨hreads rfl, hreads rfl, hreads rfl, hreads rfl, hreads rfl, hreads rfl, hreads rfl, hreads rfl, hreads rfl, hreads rfl,
    hreads rfl, hreads rfl, hreads rfl, hreads rfl, hreads rfl, hreads rfl, mfc0_computes rt hp rfl, mfc0_random s rt hp, ?_,
    fun rd sel => ?_⟩
  · obtain ⟨t, ht, hgpr, hpc, hmem, honly, hcp0⟩ :=
      mfc0_completes (rd := 16) (sel := 0) (t := s.drawn.drawn.drawn) rt hp rfl rfl
    obtain ⟨hmask, hk0, hk23, hku⟩ := configWord_spec s s.freeBit s.drawn.freeBit s.drawn.drawn.freeBit
    exact ⟨t, ht, ⟨_, hmask, hk0, hk23, hku, hgpr⟩, hpc, hmem, honly, hcp0⟩
  · obtain ⟨v, u, hr, hu, hsame⟩ := readCp0_ok rd sel s
    obtain ⟨t, ht, ⟨-, hzero, hothers⟩, hpc, hmem, honly, hcp0⟩ := mfc0_completes rt hp hr hu
    exact ⟨t, ht, hothers, hzero, hpc, hmem, honly, fun h => hcp0.trans (hsame h)⟩

end Sys2Proof.Machine
end

section
/-! SUPPORT. The exact values of the FPU's operations as rational numbers, and their one rounding (R57, R755, R765 to R774, R781 to
R784, R787). -/

namespace Sys2Proof.Machine

open Sys2Proof

/-! ## Values of signed magnitudes -/

theorem FpVal.rat_fin (neg : Bool) (m : Nat) (e : Int) :
    (FpVal.fin neg m e).rat = (if neg then -1 else 1) * (m : ℚ) * (2 : ℚ) ^ e := rfl

theorem FpVal.rat_fin_zero (neg : Bool) (e : Int) : (FpVal.fin neg 0 e).rat = 0 := by simp [FpVal.rat_fin]

/-- The other sign negates the value. -/
theorem FpVal.rat_not (neg : Bool) (m : Nat) (e : Int) : (FpVal.fin (!neg) m e).rat = -(FpVal.fin neg m e).rat := by
  cases neg <;> simp [FpVal.rat_fin]

/-- An integer at an exponent, split into sign and magnitude. -/
theorem FpVal.rat_ofInt (z e : Int) : (FpVal.fin (decide (z < 0)) z.natAbs e).rat = (z : ℚ) * (2 : ℚ) ^ e := by
  rw [FpVal.rat_fin]
  congr 1
  rcases lt_or_ge z 0 with hz | hz
  · have : ((z.natAbs : ℤ) : ℚ) = -z := by rw [Int.ofNat_natAbs_of_nonpos hz.le]; push_cast; rfl
    simp only [hz, decide_true, if_true]
    rw [← Int.cast_natCast, this]
    ring
  · have : ((z.natAbs : ℤ) : ℚ) = z := by rw [Int.natAbs_of_nonneg hz]
    simp only [not_lt.2 hz, decide_false, Bool.false_eq_true, if_false]
    rw [← Int.cast_natCast, this, one_mul]

theorem FpVal.rat_mul (na nb : Bool) (ma mb : Nat) (ea eb : Int) :
    (FpVal.fin na ma ea).rat * (FpVal.fin nb mb eb).rat = (FpVal.fin (na ^^ nb) (ma * mb) (ea + eb)).rat := by
  simp only [FpVal.rat_fin, zpow_add₀ (two_ne_zero' ℚ), Nat.cast_mul]
  cases na <;> cases nb <;> simp <;> ring

/-- A quotient as its sign and its magnitude. -/
theorem FpVal.rat_div (na nb : Bool) (ma mb : Nat) (ea eb : Int) :
    ((FpVal.fin na ma ea).rat : ℝ) / (FpVal.fin nb mb eb).rat =
      if (na ^^ nb) then -((ma : ℝ) / mb * (2 : ℝ) ^ (ea - eb)) else (ma : ℝ) / mb * (2 : ℝ) ^ (ea - eb) := by
  have hmag : ((ma : ℝ) * (2 : ℝ) ^ ea) / (mb * (2 : ℝ) ^ eb) = (ma : ℝ) / mb * (2 : ℝ) ^ (ea - eb) := by
    rw [zpow_sub₀ two_ne_zero, mul_div_mul_comm]
  rw [FpVal.real_fin, FpVal.real_fin, ← hmag]
  cases na <;> cases nb <;> simp [neg_div, div_neg]

/-! ## Sums, products and conversions: rounded from the exact integer -/

/-- The sum of two finite numbers (R765): both scaled to the smaller exponent, where the sum is an integer. -/
theorem FpFmt.addFinite_delivers {f : FpFmt} (h : f.Proper) (v : FpEnv) (na nb : Bool) (ma mb : Nat) (ea eb : Int) :
    f.Delivers v.rm (((FpVal.fin na ma ea).rat + (FpVal.fin nb mb eb).rat : ℚ) : ℝ) (f.addFinite v na ma ea nb mb eb) := by
  unfold FpFmt.addFinite
  rw [← scale_signed na ma (min_le_left ea eb), ← scale_signed nb mb (min_le_right ea eb), ← add_mul, ← Int.cast_add]
  dsimp only
  generalize (if na then -((ma * 2 ^ (ea - min ea eb).toNat : Nat) : Int) else (ma * 2 ^ (ea - min ea eb).toNat : Nat)) +
    (if nb then -((mb * 2 ^ (eb - min ea eb).toNat : Nat) : Int) else (mb * 2 ^ (eb - min ea eb).toNat : Nat)) = sum
  split
  · next hzero => exact FpFmt.delivers_zero f v.rm _ (by rw [hzero]; simp)
  · next hsum =>
    rw [← FpVal.rat_ofInt]
    exact FpFmt.round_exact h v _ (Int.natAbs_ne_zero.2 hsum)

/-- A product with a zero is zero; else the magnitudes are multiplied exactly (R769). -/
theorem FpFmt.mulFinite_delivers {f : FpFmt} (h : f.Proper) (v : FpEnv) (na nb : Bool) (ma mb : Nat) (ea eb : Int) :
    f.Delivers v.rm ((FpVal.fin na ma ea).rat * (FpVal.fin nb mb eb).rat)
      (if ma = 0 ∨ mb = 0 then .exact (f.zero (na ^^ nb)) else f.round v (na ^^ nb) (ma * mb) (ea + eb) false) := by
  rw [← Rat.cast_mul, FpVal.rat_mul]
  split
  · next hzero =>
    have : ma * mb = 0 := Nat.mul_eq_zero.2 hzero
    exact FpFmt.delivers_zero f v.rm _ (by rw [this, FpVal.rat_fin_zero]; simp)
  · next hne =>
    exact FpFmt.round_exact h v _ (mt Nat.mul_eq_zero.1 hne)

/-- A conversion rounds the number as it is (R781). -/
theorem FpFmt.convertFinite_delivers {f : FpFmt} (h : f.Proper) (v : FpEnv) (neg : Bool) (m : Nat) (e : Int) :
    f.Delivers v.rm (FpVal.fin neg m e).rat (if m = 0 then .exact (f.zero neg) else f.round v neg m e false) := by
  split
  · next hzero =>
    exact FpFmt.delivers_zero f v.rm _ (by rw [hzero, FpVal.rat_fin_zero]; simp)
  · next hne => exact FpFmt.round_exact h v neg hne

/-- A conversion of a word rounds the integer it holds (R782). -/
theorem FpFmt.ofWord_delivers {f : FpFmt} (h : f.Proper) (v : FpEnv) (n : Word) : f.Delivers v.rm n.toInt (f.ofWord v n) := by
  unfold FpFmt.ofWord
  split
  · next hzero => exact FpFmt.delivers_zero f v.rm _ (by rw [hzero]; simp)
  · next hne =>
    have hint : n.toInt ≠ 0 := fun hc => hne (BitVec.eq_of_toInt_eq (hc.trans (by decide)))
    have hr : ((FpVal.fin (decide (n.toInt < 0)) n.toInt.natAbs 0).rat : ℝ) = n.toInt := by rw [FpVal.rat_ofInt]; simp
    rw [← hr]
    exact FpFmt.round_exact h v _ (Int.natAbs_ne_zero.2 hint)

/-! ## Quotients and roots: rounded from an integer part and a sticky bit -/

/-- Round of a magnitude Q * 2^e from the integer part q of Q, which has more bits than the format, and whether q is less than Q. -/
theorem FpFmt.round_integerPart {f : FpFmt} (h : f.Proper) (v : FpEnv) (neg : Bool) {q : Nat} {e : Int} {sticky : Bool} {Q : ℝ}
    (hq : 2 ^ (f.fracBits + 1) ≤ q) (hlo : (q : ℝ) ≤ Q) (hhi : Q < q + 1) (hst : sticky = false ↔ Q = q) :
    f.Delivers v.rm (if neg then -(Q * (2 : ℝ) ^ e) else Q * (2 : ℝ) ^ e) (f.round v neg q e sticky) := by
  have hE : (0 : ℝ) < (2 : ℝ) ^ e := by positivity
  have hq0 : q ≠ 0 := by
    have : 0 < 2 ^ (f.fracBits + 1) := by positivity
    omega
  have hbits : f.fracBits + 1 < Nat.log2 q + 1 := Nat.lt_succ_of_le ((Nat.le_log2 hq0).2 hq)
  exact FpFmt.round_delivers h v neg hq0 (mul_le_mul_of_nonneg_right hlo hE.le) (mul_lt_mul_of_pos_right hhi hE)
    (hst.trans (mul_left_inj' hE.ne').symm) fun _ => hbits

/-- A quotient of finite nonzero numbers (R771). -/
theorem FpFmt.divFinite_delivers {f : FpFmt} (h : f.Proper) (v : FpEnv) (neg : Bool) {ma mb : Nat} (e : Int) (ha : ma ≠ 0)
    (hb : mb ≠ 0) :
    f.Delivers v.rm (if neg then -((ma : ℝ) / mb * (2 : ℝ) ^ e) else (ma : ℝ) / mb * (2 : ℝ) ^ e)
      (f.divFinite v neg ma mb e) := by
  unfold FpFmt.divFinite
  dsimp only
  generalize hk : f.fracBits + Nat.log2 mb + 5 = k
  have hb0 : (mb : ℝ) ≠ 0 := by exact_mod_cast hb
  have hscale : (ma : ℝ) / mb * (2 : ℝ) ^ e = ((ma * 2 ^ k : Nat) : ℝ) / mb * (2 : ℝ) ^ (e - k) := by
    have : (2 : ℝ) ^ e = 2 ^ k * (2 : ℝ) ^ (e - k) := by
      rw [← zpow_natCast, ← zpow_add₀ two_ne_zero]
      congr 1
      omega
    rw [this]
    push_cast
    ring
  rw [hscale]
  refine FpFmt.round_integerPart h v neg ?_ Nat.cast_div_le ?_ ?_
  · rw [Nat.le_div_iff_mul_le (Nat.pos_of_ne_zero hb)]
    calc 2 ^ (f.fracBits + 1) * mb ≤ 2 ^ (f.fracBits + 1) * 2 ^ (Nat.log2 mb + 1) :=
          Nat.mul_le_mul_left _ Nat.lt_log2_self.le
      _ = 2 ^ (f.fracBits + Nat.log2 mb + 2) := by rw [← pow_add]; congr 1; omega
      _ ≤ 2 ^ k := Nat.pow_le_pow_right (by omega) (by omega)
      _ ≤ ma * 2 ^ k := Nat.le_mul_of_pos_left _ (Nat.pos_of_ne_zero ha)
  · have := Nat.lt_floor_add_one (((ma * 2 ^ k : Nat) : ℝ) / mb)
    rwa [Nat.floor_div_eq_div] at this
  · rw [bne_eq_false_iff_eq, ← Nat.dvd_iff_mod_eq_zero]
    constructor
    · exact fun hd => (Nat.cast_div hd hb0).symm
    · intro hc
      rw [div_eq_iff hb0] at hc
      exact Dvd.intro_left _ (by exact_mod_cast hc.symm)

/-- isqrtFrom keeps the square root between r and r + 2^i. -/
theorem isqrtFrom_bounds (m i r : Nat) (hlo : r * r ≤ m) (hhi : m < (r + 2 ^ i) * (r + 2 ^ i)) :
    isqrtFrom m i r * isqrtFrom m i r ≤ m ∧ m < (isqrtFrom m i r + 1) * (isqrtFrom m i r + 1) := by
  induction i generalizing r with
  | zero => exact ⟨hlo, hhi⟩
  | succ i ih =>
    unfold isqrtFrom
    have hpow : r + 2 ^ (i + 1) = r + 2 ^ i + 2 ^ i := by rw [pow_succ]; omega
    rw [hpow] at hhi
    split
    · next hle => exact ih _ hle hhi
    · next hlt => exact ih _ hlo (not_le.1 hlt)

/-- The integer square root of the model is Mathlib's. -/
theorem isqrt_eq_sqrt (m : Nat) : isqrt m = Nat.sqrt m := by
  have hhi : m < (0 + 2 ^ (Nat.log2 m / 2 + 1)) * (0 + 2 ^ (Nat.log2 m / 2 + 1)) := by
    rw [Nat.zero_add, ← pow_add]
    exact lt_of_lt_of_le Nat.lt_log2_self (Nat.pow_le_pow_right (by omega) (by omega))
  exact Nat.eq_sqrt.2 (isqrtFrom_bounds m _ 0 (Nat.zero_le _) hhi)

/-- The root of a positive number (R773): the magnitude is scaled so that the exponent is even. -/
theorem FpFmt.sqrtFinite_delivers {f : FpFmt} (h : f.Proper) (v : FpEnv) {m k : Nat} {e : Int} (hm : m ≠ 0)
    (hk : 2 * f.fracBits + 6 ≤ k) (heven : (e - k) % 2 = 0) :
    f.Delivers v.rm (Real.sqrt (m * (2 : ℝ) ^ e))
      (f.round v false (isqrt (m * 2 ^ k)) ((e - k) / 2) (isqrt (m * 2 ^ k) * isqrt (m * 2 ^ k) != m * 2 ^ k)) := by
  obtain ⟨d, hd⟩ := Int.dvd_of_emod_eq_zero heven
  rw [isqrt_eq_sqrt, show (e - k) / 2 = d by omega]
  have hroot : Real.sqrt (m * (2 : ℝ) ^ e) = Real.sqrt (m * 2 ^ k : Nat) * (2 : ℝ) ^ d := by
    have hpos : (0 : ℝ) < (2 : ℝ) ^ d := by positivity
    have hsq : (m : ℝ) * (2 : ℝ) ^ e = (m * 2 ^ k : Nat) * ((2 : ℝ) ^ d * (2 : ℝ) ^ d) := by
      push_cast
      rw [mul_assoc, ← zpow_natCast, ← zpow_add₀ two_ne_zero, ← zpow_add₀ two_ne_zero]
      congr 2
      omega
    rw [hsq, Real.sqrt_mul (Nat.cast_nonneg _), Real.sqrt_mul_self hpos.le]
  rw [hroot]
  refine FpFmt.round_integerPart h v false ?_ Real.nat_sqrt_le_real_sqrt Real.real_sqrt_lt_nat_sqrt_succ ?_
  · rw [Nat.le_sqrt, ← pow_add]
    calc 2 ^ (f.fracBits + 1 + (f.fracBits + 1)) ≤ 2 ^ k := Nat.pow_le_pow_right (by omega) (by omega)
      _ ≤ m * 2 ^ k := Nat.le_mul_of_pos_left _ (Nat.pos_of_ne_zero hm)
  · rw [bne_eq_false_iff_eq, Real.sqrt_eq_iff_mul_self_eq (Nat.cast_nonneg _) (Nat.cast_nonneg _)]
    exact_mod_cast eq_comm

/-! ## The operations on patterns -/

/-- Every result of finite operands is its exact value rounded once. -/
theorem FpFmt.gives_delivers {f : FpFmt} (h : f.Proper) {v : FpEnv} {r : ℝ} {x : FpResult} (hx : f.Gives v r x) :
    f.Delivers v.rm r x := by
  cases hx with
  | sum x y hx hy =>
    obtain ⟨hsx, na, ma, ea, hvx⟩ := hx
    obtain ⟨hsy, nb, mb, eb, hvy⟩ := hy
    simp only [FpFmt.add, hsx, hsy, hvx, hvy, Bool.or_self, Bool.false_eq_true, if_false, Bool.xor_false]
    exact_mod_cast FpFmt.addFinite_delivers h v na nb ma mb ea eb
  | difference x y hx hy =>
    obtain ⟨hsx, na, ma, ea, hvx⟩ := hx
    obtain ⟨hsy, nb, mb, eb, hvy⟩ := hy
    simp only [FpFmt.add, hsx, hsy, hvx, hvy, Bool.or_self, Bool.false_eq_true, if_false, Bool.xor_true]
    have hsum := FpFmt.addFinite_delivers h v na (!nb) ma mb ea eb
    rw [FpVal.rat_not, ← sub_eq_add_neg] at hsum
    exact_mod_cast hsum
  | product x y hx hy =>
    obtain ⟨hsx, na, ma, ea, hvx⟩ := hx
    obtain ⟨hsy, nb, mb, eb, hvy⟩ := hy
    simp only [FpFmt.mul, hsx, hsy, hvx, hvy, Bool.or_self, Bool.false_eq_true, if_false]
    exact FpFmt.mulFinite_delivers h v na nb ma mb ea eb
  | quotient x y hx hy hne =>
    obtain ⟨hsx, na, ma, ea, hvx⟩ := hx
    obtain ⟨hsy, nb, mb, eb, hvy⟩ := hy
    have hb : mb ≠ 0 := by
      rintro rfl
      exact hne (by rw [hvy, FpVal.rat_fin_zero])
    simp only [FpFmt.div, hsx, hsy, hvx, hvy, Bool.or_self, Bool.false_eq_true, if_false, hb]
    split
    · next ha => exact FpFmt.delivers_zero f v.rm _ (by rw [ha, FpVal.rat_fin_zero]; simp)
    · next ha =>
      rw [FpVal.rat_div]
      exact FpFmt.divFinite_delivers h v _ _ ha hb
  | root x hx hpos =>
    obtain ⟨hsx, neg, m, e, hvx⟩ := hx
    rw [hvx] at hpos
    have hm : m ≠ 0 := by
      rintro rfl
      exact absurd hpos (by rw [FpVal.rat_fin_zero]; exact lt_irrefl _)
    have hneg : neg = false := by
      by_contra hc
      rw [Bool.not_eq_false] at hc
      have : (0 : ℚ) ≤ (m : ℚ) * (2 : ℚ) ^ e := by positivity
      rw [FpVal.rat_fin, if_pos hc, mul_assoc] at hpos
      linarith
    subst hneg
    simp only [FpFmt.sqrt, hsx, hvx, Bool.false_eq_true, if_false, hm, FpVal.real_fin, one_mul]
    split
    · next heven => exact FpFmt.sqrtFinite_delivers h v hm le_rfl (by exact_mod_cast heven)
    · next hodd => exact FpFmt.sqrtFinite_delivers h v hm (Nat.le_succ _) (by push_cast at hodd ⊢; omega)
  | conversion g x hg hx =>
    obtain ⟨hsx, neg, m, e, hvx⟩ := hx
    simp only [FpFmt.convert, hsx, hvx, Bool.false_eq_true, if_false]
    exact FpFmt.convertFinite_delivers h v neg m e
  | word n => exact FpFmt.ofWord_delivers h v n

/-- Settles O41: both formats are proper, and every operation rounds its exact value once. -/
theorem fpuRounding : Obligations.FpuRounding := fun _ _ _ _ hf hx => FpFmt.gives_delivers (FpFmt.proper_of_mem hf) hx

/-! ## Rounding to an integer (R57, R787) -/

/-- The four rounding modes (R57). -/
theorem roundingMode_cases (rm : BitVec 2) : rm = 0#2 ∨ rm = 1#2 ∨ rm = 2#2 ∨ rm = 3#2 := by
  revert rm
  decide

/-- An integer is its own rounding. -/
theorem roundsToInt_self (rm : BitVec 2) (n : ℤ) : RoundsToInt rm (n : ℚ) n := by
  rcases roundingMode_cases rm with rfl | rfl | rfl | rfl
  · refine ⟨by simp, fun h => absurd h (by simp)⟩
  · show n = if 0 ≤ (n : ℚ) then ⌊(n : ℚ)⌋ else ⌈(n : ℚ)⌉
    rw [Int.floor_intCast, Int.ceil_intCast, ite_self]
  · exact (Int.ceil_intCast n).symm
  · exact (Int.floor_intCast n).symm

/-- The mode that treats magnitudes of negative numbers as rm treats the numbers: up and down change places. -/
def mirrorMode (rm : BitVec 2) : BitVec 2 := if rm = 2 then 3 else if rm = 3 then 2 else rm

/-- Rounding of -r mirrors rounding of r. -/
theorem RoundsToInt.neg {rm : BitVec 2} {r : ℚ} {n : ℤ} (h : RoundsToInt (mirrorMode rm) r n) : RoundsToInt rm (-r) (-n) := by
  rcases roundingMode_cases rm with rfl | rfl | rfl | rfl
  · have hdist : |(-r : ℚ) - ((-n : ℤ) : ℚ)| = |r - n| := by rw [← abs_neg]; congr 1; push_cast; ring
    obtain ⟨hle, htie⟩ : |r - n| ≤ 1 / 2 ∧ (|r - n| = 1 / 2 → n % 2 = 0) := h
    show |(-r : ℚ) - ((-n : ℤ) : ℚ)| ≤ 1 / 2 ∧ (|(-r : ℚ) - ((-n : ℤ) : ℚ)| = 1 / 2 → -n % 2 = 0)
    rw [hdist]
    exact ⟨hle, fun ht => by have := htie ht; omega⟩
  · replace h : n = if 0 ≤ r then ⌊r⌋ else ⌈r⌉ := h
    show -n = if 0 ≤ -r then ⌊-r⌋ else ⌈-r⌉
    rw [h, Int.floor_neg, Int.ceil_neg]
    rcases lt_trichotomy r 0 with hr | hr | hr
    · rw [if_neg (by linarith), if_pos (by linarith)]
    · simp [hr]
    · rw [if_pos (by linarith), if_neg (by linarith)]
  · replace h : n = ⌊r⌋ := h
    show -n = ⌈-r⌉
    rw [h, Int.ceil_neg]
  · replace h : n = ⌈r⌉ := h
    show -n = ⌊-r⌋
    rw [h, Int.floor_neg]

/-- A magnitude that equals its lower neighbour is not rounded up. -/
theorem Between.up_eq_false {R u : ℝ} {q0 : Nat} {rm : BitVec 2} {neg up inexact : Bool} (h : Between R u q0 rm neg up inexact)
    (hu : 0 < u) (hR : R = q0 * u) : up = false := by
  have hup := h.up
  rw [← Bool.not_eq_true]
  intro hc
  rw [hc, hR, sub_self] at hup
  rcases roundingMode_cases rm with rfl | rfl | rfl | rfl
  · rcases hup.1 rfl with h1 | ⟨h1, -⟩ <;> linarith
  · exact absurd hup (by simp)
  · exact (hup.1 rfl).2 rfl
  · exact (hup.1 rfl).2 rfl

/-- A magnitude between two integers: the lower one is its floor, the upper one its ceiling unless it is the lower one. -/
theorem floor_ceil_of_between {R : ℚ} {q0 : Nat} (hlo : (q0 : ℚ) ≤ R) (hhi : R < q0 + 1) :
    ⌊R⌋ = q0 ∧ ⌈R⌉ = if R = q0 then (q0 : ℤ) else (q0 : ℤ) + 1 := by
  refine ⟨Int.floor_eq_iff.2 ⟨by exact_mod_cast hlo, by exact_mod_cast hhi⟩, ?_⟩
  split
  · next heq => rw [heq, Int.ceil_natCast]
  · next hne =>
    have hlt : (q0 : ℚ) < R := lt_of_le_of_ne hlo (Ne.symm hne)
    exact Int.ceil_eq_iff.2 ⟨by push_cast; linarith, by push_cast; linarith⟩

/-- To nearest, the even integer on a tie. -/
theorem roundsToInt_nearest {R : ℚ} {q0 : Nat} {up : Bool} (hlo : (q0 : ℚ) ≤ R) (hhi : R < q0 + 1)
    (hup : up = true ↔ 1 / 2 < R - q0 ∨ (R - q0 = 1 / 2 ∧ q0 % 2 = 1)) :
    RoundsToInt 0#2 R (if up then q0 + 1 else q0 : Nat) := by
  cases up
  · simp only [Bool.false_eq_true, false_iff, not_or, not_lt, not_and] at hup
    show |R - ((q0 : ℤ) : ℚ)| ≤ 1 / 2 ∧ (|R - ((q0 : ℤ) : ℚ)| = 1 / 2 → (q0 : ℤ) % 2 = 0)
    rw [Int.cast_natCast, abs_of_nonneg (by linarith)]
    exact ⟨hup.1, fun htie => by have := hup.2 htie; omega⟩
  · show |R - ((q0 + 1 : Nat) : ℤ)| ≤ 1 / 2 ∧ (|R - ((q0 + 1 : Nat) : ℤ)| = 1 / 2 → ((q0 + 1 : Nat) : ℤ) % 2 = 0)
    have hcast : (((q0 + 1 : Nat) : ℤ) : ℚ) = q0 + 1 := by push_cast; rfl
    rw [hcast, abs_of_nonpos (by linarith)]
    rcases hup.1 rfl with hgt | ⟨htie, hodd⟩
    · exact ⟨by linarith, fun htie => absurd htie (by linarith)⟩
    · exact ⟨by linarith, fun _ => by omega⟩

/-- A magnitude between two integers, rounded to one of them by mode. -/
theorem Between.roundsToInt {R : ℚ} {q0 : Nat} {rm : BitVec 2} {neg up inexact : Bool}
    (h : Between (R : ℝ) 1 q0 rm neg up inexact) :
    RoundsToInt (if neg then mirrorMode rm else rm) R (if up then q0 + 1 else q0 : Nat) ∧
      (inexact = false ↔ ((if up then q0 + 1 else q0 : Nat) : ℚ) = R) := by
  have hgap : (R : ℝ) - q0 * 1 = ((R - q0 : ℚ) : ℝ) := by push_cast; ring
  have hlo : (q0 : ℚ) ≤ R := by
    have := sub_nonneg.2 h.lo
    rw [hgap] at this
    exact sub_nonneg.1 (by exact_mod_cast this)
  have hhi : R < q0 + 1 := by
    have := h.hi
    rw [mul_one] at this
    exact_mod_cast this
  have heq : (R : ℝ) = q0 * 1 ↔ R = q0 := by rw [mul_one]; norm_cast
  obtain ⟨hfloor, hceil⟩ := floor_ceil_of_between hlo hhi
  have hup := h.up
  -- the modes that look at the sign alone
  have down (hu : up = false) : ((if up then q0 + 1 else q0 : Nat) : ℤ) = ⌊R⌋ := by rw [hu, hfloor]; rfl
  have upward (hu : up = true ↔ R ≠ q0) : ((if up then q0 + 1 else q0 : Nat) : ℤ) = ⌈R⌉ := by
    rw [hceil]
    by_cases hR : R = q0
    · rw [if_pos hR, if_neg (fun hc => hu.1 hc hR)]
    · rw [if_neg hR, if_pos (hu.2 hR)]
      push_cast
      rfl
  constructor
  · rcases roundingMode_cases rm with rfl | rfl | rfl | rfl
    · have hmode : (if neg then mirrorMode 0#2 else 0#2) = 0#2 := by cases neg <;> rfl
      have hhalf : (1 / 2 : ℝ) = ((1 / 2 : ℚ) : ℝ) := by norm_num
      rw [hmode]
      refine roundsToInt_nearest hlo hhi (hup.trans ?_)
      rw [hgap, hhalf, Rat.cast_lt, Rat.cast_inj]
    · have hmode : (if neg then mirrorMode 1#2 else 1#2) = 1#2 := by cases neg <;> rfl
      rw [hmode]
      show _ = if 0 ≤ R then ⌊R⌋ else ⌈R⌉
      rw [if_pos ((Nat.cast_nonneg q0).trans hlo)]
      exact down hup
    · cases neg
      · exact upward (hup.trans (by rw [ne_eq, heq]; simp))
      · exact down (by simpa using hup)
    · cases neg
      · exact down (by simpa using hup)
      · exact upward (hup.trans (by rw [ne_eq, heq]; simp))
  · rw [h.exact]
    constructor
    · intro hR
      rw [h.up_eq_false one_pos hR]
      exact (heq.1 hR).symm
    · cases up
      · exact fun hR => heq.2 hR.symm
      · intro hR
        simp only [if_true, Nat.cast_add, Nat.cast_one] at hR
        linarith

/-- The magnitude m * 2^e rounded to an integer, and whether that changed it (R787). -/
def integerOf (rm : BitVec 2) (neg : Bool) (m : Nat) (e : Int) : Nat × Bool :=
  if 0 ≤ e then (m * 2 ^ e.toNat, false) else roundShift rm neg m (-e).toNat false

theorem integerOf_magnitude (rm : BitVec 2) (neg : Bool) (m : Nat) (e : Int) :
    RoundsToInt (if neg then mirrorMode rm else rm) (m * (2 : ℚ) ^ e) (integerOf rm neg m e).1 ∧
      ((integerOf rm neg m e).2 = false ↔ ((integerOf rm neg m e).1 : ℚ) = m * (2 : ℚ) ^ e) := by
  rw [integerOf]
  by_cases he : 0 ≤ e
  · rw [if_pos he]
    have hint : (m : ℚ) * (2 : ℚ) ^ e = ((m * 2 ^ e.toNat : Nat) : ℤ) := by
      have := scale_rat m he
      simpa using this.symm
    rw [hint]
    exact ⟨roundsToInt_self _ _, by simp⟩
  · rw [if_neg he]
    have hE : (0 : ℝ) < (2 : ℝ) ^ e := by positivity
    obtain ⟨up, hround, hbetween⟩ := between_roundShift rm neg m (-e).toNat e false (m * (2 : ℝ) ^ e) (by omega) le_rfl
      (by nlinarith) (by simp)
    have hunit : (2 : ℝ) ^ (e + (-e).toNat) = 1 := by
      rw [show e + (-e).toNat = 0 by omega, zpow_zero]
    have hcast : (m : ℝ) * (2 : ℝ) ^ e = ((m * (2 : ℚ) ^ e : ℚ) : ℝ) := by push_cast; rfl
    rw [hunit, hcast] at hbetween
    rw [hround]
    exact hbetween.roundsToInt

/-- The integer that ToW delivers where 32 bits hold it, with its sign. -/
def signedIntegerOf (rm : BitVec 2) (neg : Bool) (m : Nat) (e : Int) : ℤ :=
  if neg then -((integerOf rm neg m e).1 : ℤ) else (integerOf rm neg m e).1

theorem signedIntegerOf_spec (rm : BitVec 2) (neg : Bool) (m : Nat) (e : Int) :
    RoundsToInt rm (FpVal.fin neg m e).rat (signedIntegerOf rm neg m e) ∧
      ((integerOf rm neg m e).2 = false ↔ (signedIntegerOf rm neg m e : ℚ) = (FpVal.fin neg m e).rat) := by
  obtain ⟨hround, hexact⟩ := integerOf_magnitude rm neg m e
  rw [FpVal.rat_fin, mul_assoc, signedIntegerOf]
  cases neg
  · simp only [Bool.false_eq_true, if_false, one_mul] at *
    exact ⟨hround, by exact_mod_cast hexact⟩
  · simp only [if_true, neg_one_mul] at *
    refine ⟨hround.neg, hexact.trans ?_⟩
    push_cast
    exact neg_inj.symm

/-- ToW of a finite number (R787). -/
theorem FpFmt.toWord_fin {f : FpFmt} {v : FpEnv} {x : Nat} {neg : Bool} {m : Nat} {e : Int} (rm : BitVec 2)
    (hs : f.stopsOn v x = false) (hx : f.operand v x = .fin neg m e) :
    f.toWord v rm x =
      if -(2 ^ 31) ≤ signedIntegerOf rm neg m e ∧ signedIntegerOf rm neg m e < 2 ^ 31 then
        { conds := if (integerOf rm neg m e).2 then condI else 0
          bits := (BitVec.ofInt 32 (signedIntegerOf rm neg m e)).toNat }
      else invalidWord := by
  have hdef : f.toWord v rm x =
      if signedIntegerOf rm neg m e < -(2 ^ 31) ∨ (2 ^ 31 : Int) ≤ signedIntegerOf rm neg m e then invalidWord
      else { conds := if (integerOf rm neg m e).2 then condI else 0
             bits := (BitVec.ofInt 32 (signedIntegerOf rm neg m e)).toNat } := by
    simp only [FpFmt.toWord, hs, hx, Bool.false_eq_true, if_false]
    rfl
  rw [hdef, ← ite_not]
  simp only [not_or, not_lt, not_le]

/-- ToW of an infinity or a NaN (R761). -/
theorem FpFmt.toWord_invalid {f : FpFmt} {v : FpEnv} {x : Nat} (rm : BitVec 2) (hs : f.stopsOn v x = false)
    (hx : ¬(f.operand v x).IsFinite) : f.toWord v rm x = invalidWord := by
  simp only [FpFmt.toWord, hs, Bool.false_eq_true, if_false]
  cases hv : f.operand v x with
  | nan signalling => rfl
  | inf neg => rfl
  | fin neg m e => exact absurd ⟨neg, m, e, hv⟩ hx

/-- Settles O43: the integer part and the bits below it decide the rounding, as they do for the formats. -/
theorem fpuToInteger : Obligations.FpuToInteger := by
  intro f v rm x _ hs a invalid
  refine ⟨?_, FpFmt.toWord_invalid rm hs⟩
  rintro ⟨neg, m, e, hx⟩
  obtain ⟨hround, hexact⟩ := signedIntegerOf_spec rm neg m e
  refine ⟨signedIntegerOf rm neg m e, hx ▸ hround, ?_⟩
  rw [FpFmt.toWord_fin rm hs hx, hx, if_congr hexact.symm rfl rfl]
  congr 2
  cases (integerOf rm neg m e).2 <;> rfl

end Sys2Proof.Machine
end

section
/-! SUPPORT. Interrupt requests: the bits of words that are put together, and what the bits of Cause.IP and QSTR2 are (R190 to R193,
R980). -/

namespace Sys2Proof.Machine

open Sys2Proof

/-! ## The bits of a word put together -/

@[simp] theorem isSet_or {w : Nat} (x y : BitVec w) (k : Nat) : isSet (x ||| y) k = (isSet x k || isSet y k) :=
  BitVec.getLsbD_or

@[simp] theorem isSet_and {w : Nat} (x y : BitVec w) (k : Nat) : isSet (x &&& y) k = (isSet x k && isSet y k) :=
  BitVec.getLsbD_and

/-- Not in simp's own set, which adds the widths of joined vectors first and then does not see them as joined. -/
theorem isSet_append {v w : Nat} (x : BitVec v) (y : BitVec w) (k : Nat) :
    isSet (x ++ y) k = if k < w then isSet y k else isSet x (k - w) := by
  unfold isSet
  rw [BitVec.getLsbD_append]

@[simp] theorem isSet_zero (w k : Nat) : isSet (0#w) k = false := BitVec.getLsbD_zero

theorem isSet_of_width_le {w : Nat} (x : BitVec w) {k : Nat} (h : w ≤ k) : isSet x k = false := BitVec.getLsbD_of_ge x k h

@[simp] theorem isSet_flag (b : Bool) (k : Nat) : isSet (flag b) k = (b && decide (k = 0)) := by
  cases b <;> simp [isSet, flag]

@[simp] theorem isSet_bitAt (b : Bool) (i k : Nat) : isSet (bitAt b i) k = (b && decide (i < 32 ∧ i = k)) := by
  cases b <;> simp [isSet, bitAt]

@[simp] theorem isSet_zext {n : Nat} (x : BitVec n) (k : Nat) : isSet (zext x) k = (decide (k < 32) && isSet x k) :=
  BitVec.getLsbD_setWidth ..

@[simp] theorem isSet_shiftLeft {w : Nat} (x : BitVec w) (n k : Nat) :
    isSet (x <<< n) k = (decide (k < w) && !decide (k < n) && isSet x (k - n)) := BitVec.getLsbD_shiftLeft ..

@[simp] theorem isSet_fieldOf {w : Nat} (x : BitVec w) (lo len k : Nat) :
    isSet (fieldOf x lo len) k = (decide (k < len) && isSet x (lo + k)) := BitVec.getLsbD_extractLsb' ..

theorem isSet_mergeBits {w : Nat} (mask new old : BitVec w) {k : Nat} (hk : k < w) :
    isSet (mergeBits mask new old) k = if isSet mask k then isSet new k else isSet old k := by
  have hnot : isSet (~~~mask) k = !isSet mask k := by simp [isSet, hk]
  rw [mergeBits, isSet_or, isSet_and, isSet_and, hnot]
  cases isSet mask k <;> simp

/-- Two words share a set bit unless their conjunction is zero. -/
theorem and_ne_zero_iff (q m : Word) : (q &&& m != 0) = true ↔ ∃ k, k < 32 ∧ isSet q k = true ∧ isSet m k = true := by
  have hzero : q &&& m = 0 ↔ ∀ k, k < 32 → isSet (q &&& m) k = false := by
    constructor
    · intro h k _
      rw [h]
      exact isSet_zero ..
    · exact fun h => BitVec.eq_of_getLsbD_eq fun k hk => (h k hk).trans BitVec.getLsbD_zero.symm
  rw [bne_iff_ne, ne_eq, hzero]
  simp

theorem or_and_eq_zero {w : Nat} {x y m : BitVec w} (hx : x &&& m = 0) (hy : y &&& m = 0) : (x ||| y) &&& m = 0 := by
  rw [BitVec.and_comm, BitVec.and_or_distrib_left, BitVec.and_comm m x, BitVec.and_comm m y, hx, hy]
  exact BitVec.or_zero

theorem bitAt_and_eq_zero {i : Nat} {m : Word} (h : BitVec.twoPow 32 i &&& m = 0) (b : Bool) : bitAt b i &&& m = 0 := by
  cases b
  · exact BitVec.zero_and
  · exact h

/-! ## The requests in Cause.IP (R190, R980) -/

theorem State.isSet_hardIp_timer (s : State) : isSet s.hardIp 7 = s.cp0.timerLatch := by
  simp only [State.hardIp, isSet_append]
  simp

theorem State.isSet_hardIp_dsp (s : State) : isSet s.hardIp 6 = s.dsp.irq := by
  simp only [State.hardIp, isSet_append]
  simp

/-- IP[5:2]: a request of QSTR3 to QSTR0 that its mask register lets through (R190, R194). -/
theorem State.isSet_hardIp_masked (s : State) :
    isSet s.hardIp 5 = (s.qstr3 &&& s.sys.maskr[3] != 0) ∧ isSet s.hardIp 4 = (s.qstr2 &&& s.sys.maskr[2] != 0) ∧
      isSet s.hardIp 3 = (s.qstr1 &&& s.sys.maskr[1] != 0) ∧ isSet s.hardIp 2 = (s.qstr0 &&& s.sys.maskr[0] != 0) := by
  simp only [State.hardIp, isSet_append]
  simp

theorem State.isSet_hardIp_low (s : State) {k : Nat} (hk : k < 2) : isSet s.hardIp k = false := by
  simp only [State.hardIp, isSet_append, if_pos hk]
  simp

/-- IP[7:2] are the live requests. -/
theorem State.isSet_ip_hard (s : State) {k : Nat} (hk : 2 ≤ k) : isSet s.ip k = isSet s.hardIp k := by
  simp only [State.ip, isSet_or, isSet_append, if_neg (Nat.not_lt.2 hk), isSet_zero, Bool.or_false]

/-- IP[1:0] are the stored bits of Cause. -/
theorem State.isSet_ip_soft (s : State) {k : Nat} (hk : k < 2) : isSet s.ip k = isSet s.cp0.cause (8 + k) := by
  rw [State.ip, isSet_or, s.isSet_hardIp_low hk, Bool.false_or, isSet_append, if_pos hk, isSet_fieldOf, decide_eq_true hk,
    Bool.true_and]

/-- Cause shows the live requests where it stores nothing (R40). -/
theorem State.isSet_causeWord (s : State) {k : Nat} (h2 : 2 ≤ k) (h8 : k < 8) (hcause : s.cp0.cause &&& 0x7F7FFC03 = 0) :
    isSet s.causeWord (8 + k) = isSet s.ip k := by
  have hmask : ∀ k, k < 8 → 2 ≤ k → isSet (0x7F7FFC03 : Word) (8 + k) = true := by decide
  have hstored : isSet s.cp0.cause (8 + k) = false := by
    have hbit : isSet (s.cp0.cause &&& 0x7F7FFC03) (8 + k) = false := by rw [hcause]; exact isSet_zero ..
    rwa [isSet_and, hmask k h8 h2, Bool.and_true] at hbit
  have h32 : 8 + k < 32 := by omega
  rw [s.isSet_ip_hard h2, State.causeWord, isSet_or, hstored]
  simp [h32, show k < 32 by omega]

/-! ## The bits of QSTR2 (R193) -/

theorem DmaChannel.request_eq (ch : DmaChannel) : ch.request = (isSet ch.csr 15 || isSet ch.csr 14) := Bool.or_comm ..

/-- The bits of port p stand from bit 4 p up. -/
theorem State.isSet_qstr2_port (s : State) (p : Fin 4) :
    isSet s.qstr2 (4 * p.val + 3) = (s.channel ⟨8 + p.val, by omega⟩).request ∧
      isSet s.qstr2 (4 * p.val + 2) = s.mfbsp[p].rxRequest ∧ isSet s.qstr2 (4 * p.val + 1) = s.mfbsp[p].txRequest ∧
      isSet s.qstr2 (4 * p.val) = s.mfbsp[p].srq := by
  simp only [State.qstr2, State.mfbspBits, State.swicBits, isSet_or, isSet_shiftLeft, isSet_zext, isSet_append]
  fin_cases p <;> simp

/-- The channels of SWIC0 and SWIC1. -/
theorem State.isSet_qstr2_swicChannel (s : State) (k : Fin 4) :
    isSet s.qstr2 (20 + k.val) = (s.channel ⟨k.val, by omega⟩).request ∧
      isSet s.qstr2 (28 + k.val) = (s.channel ⟨4 + k.val, by omega⟩).request := by
  simp only [State.qstr2, State.mfbspBits, State.swicBits, isSet_or, isSet_shiftLeft, isSet_zext, isSet_append]
  fin_cases k <;> simp

/-- The requests of the controllers SWIC0 and SWIC1 themselves, below a bit that is not used. -/
theorem State.isSet_qstr2_swic (s : State) :
    (∀ k, k < 3 → isSet s.qstr2 (16 + k) = isSet s.swic0.requests k ∧ isSet s.qstr2 (24 + k) = isSet s.swic1.requests k) ∧
      isSet s.qstr2 19 = false ∧ isSet s.qstr2 27 = false := by
  simp only [State.qstr2, State.mfbspBits, State.swicBits, isSet_or, isSet_shiftLeft, isSet_zext, isSet_append]
  refine ⟨fun k hk => ?_, ?_, ?_⟩
  · interval_cases k <;> simp [State.swic]
  · simp
  · simp

/-- Settles O50: each bit of IP and QSTR2 is read off the words they are joined from. -/
theorem interruptRouting : Obligations.InterruptRouting := by
  intro s through channel
  obtain ⟨h5, h4, h3, h2⟩ := s.isSet_hardIp_masked
  have hmasked {k : Nat} {q : Word} {n : Fin 4} (hk : 2 ≤ k) (h : isSet s.hardIp k = (q &&& s.sys.maskr[n] != 0)) :
      isSet s.ip k = true ↔ through q n := by
    rw [s.isSet_ip_hard hk, h]
    exact and_ne_zero_iff ..
  have hchannel (k : Fin 16) : channel k = (s.channel k).request := (DmaChannel.request_eq _).symm
  obtain ⟨hswic, h19, h27⟩ := s.isSet_qstr2_swic
  refine ⟨(s.isSet_ip_hard (by decide)).trans s.isSet_hardIp_timer, (s.isSet_ip_hard (by decide)).trans s.isSet_hardIp_dsp,
    hmasked (by decide) h5, hmasked (by decide) h4, hmasked (by decide) h3, hmasked (by decide) h2,
    s.isSet_ip_soft (by decide), s.isSet_ip_soft (by decide), fun k hlo hhi => s.isSet_causeWord hlo hhi, fun p => ?_,
    fun k => ?_, hswic, h19, h27⟩
  · rw [hchannel]
    exact s.isSet_qstr2_port p
  · rw [hchannel, hchannel]
    exact s.isSet_qstr2_swicChannel k

end Sys2Proof.Machine
end

section
/-! SUPPORT. The system block: the loads and stores in Kernel mode that reach one of its registers through kseg1, and what the registers
read as and keep (R182 to R196, R413). -/

namespace Sys2Proof.Machine

open Sys2Proof

/-! ## The way to a register -/

theorem userMode_eq_false {s : State}
    (h : isSet s.cp0.status 4 = false ∨ isSet s.cp0.status 1 = true ∨ isSet s.cp0.status 2 = true) : s.userMode = false := by
  unfold State.userMode State.exl State.erl
  rcases h with h | h | h <;> simp [h]

/-- kseg1 is mapped to the low addresses, uncached (R430). -/
theorem translate_kseg1 {s : State} {va : Word} (k : Access) (hk : s.userMode = false) (hlo : 0xA0000000 ≤ va.toNat)
    (hhi : va.toNat < 0xC0000000) : translate va k s = .ok (va - 0xA0000000, false) s := by
  have hkseg0 : fieldOf va 29 3 ≠ 4#3 := fun h => by
    have := (fieldOf_29 va _).1 h
    simp at this
    omega
  have hkseg1 : fieldOf va 29 3 = 5#3 := (fieldOf_29 va _).2 (by simp; omega)
  rw [translate, hk, Bool.false_and, if_neg Bool.false_ne_true, if_neg hkseg0, if_pos hkseg1]

/-- The offsets of the system block from CR_PLL to IRQM at which a register stands (R181). -/
abbrev SystemOffset (off : Nat) : Prop := 0x4000 ≤ off ∧ off ≤ 0x4030 ∧ off ≠ 0x400C ∧ off % 4 = 0

theorem SystemOffset.block {off : Nat} (h : SystemOffset off) : off / 0x1000 = 4 := by omega

theorem SystemOffset.dmaRegAt_eq {off : Nat} (h : SystemOffset off) : dmaRegAt off = none := by
  have hport : off / 0x100 = 0x40 := by omega
  unfold dmaRegAt
  rw [if_neg (by omega), hport]
  rfl

theorem SystemOffset.isRegister_eq {off : Nat} (h : SystemOffset off) : isRegister off = true := by
  unfold isRegister
  rw [h.dmaRegAt_eq, h.block]
  simp [h.2.1, h.2.2.1]

theorem SystemOffset.deviceClock_eq {off : Nat} (h : SystemOffset off) (s : State) : s.deviceClock off = true := by
  unfold State.deviceClock
  rw [h.dmaRegAt_eq, h.block]
  rfl

theorem SystemOffset.mfbspClash_eq {off : Nat} (h : SystemOffset off) (s : State) : s.mfbspClash off = false := by
  unfold State.mfbspClash
  rw [h.block]
  rfl

/-- None of the registers is an error FIFO, so that a load has no side effect. -/
theorem SystemOffset.sysReadEffect_eq {off : Nat} (h : SystemOffset off) (s : State) : s.sysReadEffect off = s := by
  unfold State.sysReadEffect
  split
  · omega
  · omega
  · omega
  · rfl

theorem SystemOffset.devRead_eq {off : Nat} (h : SystemOffset off) (s : State) : devRead off s = .ok (s.sysRead off) s.drawn := by
  have hpeek : s.devPeek off = s.sysRead off := by
    simp only [State.devPeek, h.isRegister_eq, h.deviceClock_eq, h.dmaRegAt_eq, h.block]
    rfl
  have heffect : s.devEffect off = s := by
    simp only [State.devEffect, h.isRegister_eq, h.deviceClock_eq, h.dmaRegAt_eq, h.block, h.sysReadEffect_eq]
    rfl
  rw [devRead, h.mfbspClash_eq, if_neg Bool.false_ne_true, hpeek, heffect]

theorem SystemOffset.devWrite_eq {off : Nat} (h : SystemOffset off) (v : Word) (s : State) :
    devWrite off v s = .done (s.sysWrite off v) := by
  simp only [devWrite, h.mfbspClash_eq, h.isRegister_eq, h.deviceClock_eq, h.dmaRegAt_eq, h.block]
  rfl

theorem not_inCram_of_inRegisters {a : Nat} (h : inRegisters a = true) : inCram a = false := by
  simp only [inRegisters, inCram, Bool.and_eq_true, Bool.and_eq_false_iff, decide_eq_true_eq, decide_eq_false_iff_not] at *
  omega

theorem busRead_register {pa : Word} (h : inRegisters (wordAddr pa) = true) (s : State) :
    busRead pa s = devRead (wordAddr pa - 0x182F0000) s := by
  rw [busRead]
  simp only [not_inCram_of_inRegisters h, h, Bool.false_eq_true, if_false, if_true]

/-- All lanes: nothing of the old word is left. -/
theorem mergeBits_allLanes (new old : Word) : mergeBits (laneMask 0xF) new old = new := by
  have hmask : laneMask 0xF = BitVec.allOnes 32 := by decide
  rw [mergeBits, hmask, BitVec.and_allOnes, BitVec.not_allOnes, BitVec.and_zero, BitVec.or_zero]

/-- A store of a whole word to a register. -/
theorem busWrite_register {pa : Word} (h : inRegisters (wordAddr pa) = true) (v : Word) (s : State) :
    busWrite pa (.word v) s = devWrite (wordAddr pa - 0x182F0000) v s := by
  rw [busWrite]
  simp only [not_inCram_of_inRegisters h, h, StoreReq.word, mergeBits_allLanes, Bool.false_eq_true, if_false, if_true]

/-! ## LW and SW of a register -/

section
variable {s : State} {base : GprNum} {offset : BitVec 16} {off : Nat}

/-- The physical address of a register in kseg1. -/
theorem SystemOffset.wordAddr_eq {va : Word} (h : SystemOffset off) (hva : va.toNat = 0xB82F0000 + off) :
    wordAddr (va - 0xA0000000) = 0x182F0000 + off := by
  have hpa : (va - 0xA0000000 : Word).toNat = 0x182F0000 + off := by bv_omega
  rw [wordAddr, hpa]
  omega

theorem SystemOffset.inRegisters_eq (h : SystemOffset off) : inRegisters (0x182F0000 + off) = true := by
  simp only [inRegisters, Bool.and_eq_true, decide_eq_true_eq]
  omega

/-- LW from a register of the system block: its value, and one free value drawn (R413, R659). -/
theorem SystemOffset.exec_lw (h : SystemOffset off) (hk : s.userMode = false) (rt : GprNum)
    (hva : (s.effAddr base offset).toNat = 0xB82F0000 + off) :
    exec (.lw base rt offset) s = .next (s.drawn.putGpr rt (s.sysRead off)).advance := by
  show loadTo rt (s.effAddr base offset) 4 (fun w _ => w) s = _
  have hbus : busRead (s.effAddr base offset - 0xA0000000) s = .ok (s.sysRead off) s.drawn := by
    rw [busRead_register, h.wordAddr_eq hva, Nat.add_sub_cancel_left, h.devRead_eq]
    rw [h.wordAddr_eq hva]
    exact h.inRegisters_eq
  rw [loadTo, memRead, if_neg (by omega), translate_kseg1 .load hk (by omega) (by omega), andThen_ok, hbus]
  rfl

/-- SW to a register of the system block (R413, R664). -/
theorem SystemOffset.exec_sw (h : SystemOffset off) (hk : s.userMode = false) (rt : GprNum)
    (hva : (s.effAddr base offset).toNat = 0xB82F0000 + off) :
    exec (.sw base rt offset) s = .next (s.sysWrite off (s.readGpr rt)).advance := by
  show finish (memWrite (s.effAddr base offset) 4 (.word (s.readGpr rt)) s) = _
  have hbus : busWrite (s.effAddr base offset - 0xA0000000) (.word (s.readGpr rt)) s =
      .done (s.sysWrite off (s.readGpr rt)) := by
    rw [busWrite_register, h.wordAddr_eq hva, Nat.add_sub_cancel_left, h.devWrite_eq]
    rw [h.wordAddr_eq hva]
    exact h.inRegisters_eq
  rw [memWrite, if_neg (by omega), translate_kseg1 .store hk (by omega) (by omega), andThen_ok, hbus]
  rfl

/-- A load leaves all but the register, PC and the counter of free values alone. -/
theorem SystemOffset.lw_completes (h : SystemOffset off) (hk : s.userMode = false) (rt : GprNum)
    (hva : (s.effAddr base offset).toNat = 0xB82F0000 + off) :
    Completes (.lw base rt offset) s fun t =>
      GprHolds rt (s.sysRead off) s t ∧ MovesOn s t ∧ SameMemory s t ∧
      t = { s with gpr := t.gpr, pc := t.pc, slot := t.slot, freeCtr := t.freeCtr } := by
  refine ⟨_, h.exec_lw hk rt hva, ?_⟩
  obtain ⟨hgpr, hpc, hmem, honly⟩ := gpr_advance s.drawn rt (s.sysRead off)
  have hctr : (s.drawn.putGpr rt (s.sysRead off)).advance.freeCtr = s.freeCtr + 1 := by simp
  generalize (s.drawn.putGpr rt (s.sysRead off)).advance = t at *
  refine ⟨hgpr, hpc, hmem, ?_⟩
  rw [hctr]
  exact honly

/-- A store leaves all but PC as the register block has it. -/
theorem SystemOffset.sw_completes (h : SystemOffset off) (hk : s.userMode = false) (rt : GprNum)
    (hva : (s.effAddr base offset).toNat = 0xB82F0000 + off) :
    Completes (.sw base rt offset) s fun t =>
      MovesOn s t ∧ t = { s.sysWrite off (s.readGpr rt) with pc := t.pc, slot := t.slot } := by
  have hcpu := (sysWrite_core s off (s.readGpr rt)).cpu
  exact ⟨_, h.exec_sw hk rt hva, .of_same hcpu.pc hcpu.slot, State.advance_eq _⟩

end

/-! ## What the registers read as (R190 to R196) -/

/-- IRQM: the modes in bits 11:8, the latches in bits 3:0 (R196, D42). -/
theorem State.sysRead_irqm (s : State) :
    s.sysRead 0x4030 = (s.sys.irqMode.setWidth 32 <<< 8) ||| s.sys.irqLatch.setWidth 32 := by
  show zext (s.sys.irqMode ++ 0#4 ++ s.sys.irqLatch) = _
  generalize s.sys.irqMode = m
  generalize s.sys.irqLatch = l
  revert m l
  decide

/-- The bits of QSTR0 (R191). -/
theorem State.qstr0_bits (s : State) :
    s.qstr0 &&& 0xFF8FFFE0 = 0 ∧ isSet s.qstr0 22 = s.itimer.int ∧ isSet s.qstr0 21 = s.rtimer.int ∧
      isSet s.qstr0 20 = (s.wdt.int && s.wdt.intCtr == 1) ∧ isSet s.qstr0 4 = s.uart.irq ∧
      ∀ k : Fin 4, isSet s.qstr0 k.val =
        if s.sys.irqMode.getLsbD k.val then s.sys.irqLatch.getLsbD k.val else !s.sys.nIrq.getLsbD k.val := by
  have hirq (x : BitVec 4) : zext x &&& 0xFF8FFFE0 = 0 := by
    revert x
    decide
  have hhigh (x : BitVec 4) {k : Nat} (hk : 4 ≤ k) : isSet x k = false := isSet_of_width_le x hk
  unfold State.qstr0
  refine ⟨?_, ?_, ?_, ?_, ?_, fun k => ?_⟩
  · refine or_and_eq_zero (or_and_eq_zero (or_and_eq_zero (or_and_eq_zero ?_ ?_) ?_) ?_) (hirq _)
    all_goals exact bitAt_and_eq_zero (by decide) _
  · simp [hhigh]
  · simp [hhigh]
  · simp [hhigh]
  · simp [hhigh]
  · have hother (b : Bool) {i : Nat} (hi : 4 ≤ i) : isSet (bitAt b i) k = false := by
      simp [show i ≠ k by omega]
    have hpin : isSet (~~~s.sys.nIrq) k = !s.sys.nIrq.getLsbD k := by simp [isSet]
    have h32 : (k : Nat) < 32 := by omega
    simp only [isSet_or, hother, Nat.reduceLeDiff, Bool.false_or, isSet_zext, h32, decide_true, Bool.true_and,
      isSet_mergeBits _ _ _ k.isLt, hpin]
    rfl

/-- The bits of QSTR1 (R192). -/
theorem State.qstr1_bits (s : State) :
    s.qstr1 &&& 0xFFFFFFF0 = 0 ∧ ∀ k : Fin 4, isSet s.qstr1 k.val = (s.channel ⟨12 + k.val, by omega⟩).request := by
  unfold State.qstr1
  constructor
  · refine or_and_eq_zero (or_and_eq_zero (or_and_eq_zero ?_ ?_) ?_) ?_
    all_goals exact bitAt_and_eq_zero (by decide) _
  · intro k
    fin_cases k <;> simp

/-- The bits of QSTR3 (R195, R282). -/
theorem State.qstr3_bits (s : State) :
    s.qstr3 &&& 0xFFFFFFE4 = 0 ∧ isSet s.qstr3 4 = (s.ecc.ext.request && s.ecc.ext.mode == 1) ∧
      isSet s.qstr3 3 = s.ecc.dsp.toList.any EccCtl.request ∧ isSet s.qstr3 1 = s.ecc.icache.request ∧
      isSet s.qstr3 0 = (s.ecc.cramA.request || s.ecc.cramB.request) := by
  unfold State.qstr3
  refine ⟨?_, ?_, ?_, ?_, ?_⟩
  · refine or_and_eq_zero (or_and_eq_zero (or_and_eq_zero ?_ ?_) ?_) ?_
    all_goals exact bitAt_and_eq_zero (by decide) _
  · simp
  · simp
  · simp
  · simp

/-! ## What a store to CSR does (R186) -/

theorem State.storeCsr_keeps {s : State} {v : Word} (h : v.getLsbD 12 = false) :
    s.storeCsr v = { s with sys := { s.sys with csr := v &&& 0x00000801 } } := by
  rw [State.storeCsr, isSet, h]
  rfl

/-- FLUSH makes every line invalid. -/
theorem State.storeCsr_flushes {s : State} {v : Word} (h : v.getLsbD 12 = true) :
    s.storeCsr v = { s with
      sys := { s.sys with csr := v &&& 0x00000801 }, icache := s.icache.map fun l => { l with valid := false } } := by
  rw [State.storeCsr, isSet, h]
  rfl

/-- Settles O52: the load and the store of a register, with the fields of the registers and what a store makes of them. -/
theorem systemRegisters : Obligations.SystemRegisters := by
  intro s base rt offset hkernel va v irq channel loads stores mask
  have hk := userMode_eq_false hkernel
  have hload {off : Nat} {P : Word → Prop} (h : SystemOffset off) (hP : P (s.sysRead off)) : loads off P :=
    fun hva => ⟨_, hP, h.lw_completes hk rt hva⟩
  have hstore {off : Nat} {u : State} (h : SystemOffset off) (hu : s.sysWrite off v = u) : stores off u :=
    fun hva => hu ▸ h.sw_completes hk rt hva
  have hqstr1 : s.qstr1 &&& 0xFFFFFFF0 = 0 ∧ ∀ k : Fin 4, isSet s.qstr1 k.val = channel ⟨12 + k.val, by omega⟩ :=
    ⟨s.qstr1_bits.1, fun k => (s.qstr1_bits.2 k).trans (DmaChannel.request_eq _)⟩
  refine ⟨hload (by decide) rfl, hload (by decide) rfl, hload (by decide) rfl, hload (by decide) rfl, hload (by decide) rfl,
    hload (by decide) rfl, hload (by decide) rfl, hload (by decide) s.sysRead_irqm, hload (by decide) s.qstr0_bits,
    hload (by decide) hqstr1, hload (by decide) s.qstr3_bits, hstore (by decide) rfl, hstore (by decide) rfl,
    fun hv => hstore (by decide) (State.storeCsr_keeps hv), fun hv => hstore (by decide) (State.storeCsr_flushes hv),
    hstore (by decide) rfl, hstore (by decide) rfl, hstore (by decide) rfl, hstore (by decide) rfl, hstore (by decide) rfl,
    hstore (by decide) rfl, hstore (by decide) rfl, hstore (by decide) rfl, hstore (by decide) rfl⟩

end Sys2Proof.Machine
end

section
/-! SUPPORT. Memory: its canonical form over a step, the segments of the address space and the search of the TLB (R421 to R433), and
the exceptions of data accesses (R402, R403, R651, R804). -/

namespace Sys2Proof.Machine

open Sys2Proof

/-- Settles O55: a step is a move of an agent or a step of the CPU, and each keeps the canonical form. -/
theorem memoryStaysLegal : Obligations.MemoryStaysLegal := fun s t hs ht => (step_legal s t ht).1 hs

/-! ## Segments (R421, R430, R431) -/

section
variable {s : State} {va : Word} (k : Access)

theorem userMode_iff : s.userMode = true ↔
    isSet s.cp0.status 4 = true ∧ isSet s.cp0.status 1 = false ∧ isSet s.cp0.status 2 = false := by
  simp [State.userMode, State.exl, State.erl, and_assoc]

theorem fieldOf_29_ne {n : BitVec 3} (h : va.toNat / 2 ^ 29 ≠ n.toNat) : fieldOf va 29 3 ≠ n := mt (fieldOf_29 va n).1 h

/-- In User mode the upper half of the addresses is forbidden (R421). -/
theorem translate_forbidden (hu : s.userMode = true) (hva : 0x80000000 ≤ va.toNat) :
    translate va k s = .exc (.addressError va (k == .store)) s := by
  rw [translate, isSet_31, decide_eq_true hva, hu]
  rfl

/-- kseg0 is mapped to the low addresses, cached as Config.K0 says (R430). -/
theorem translate_kseg0 (hu : s.userMode = false) (hlo : 0x80000000 ≤ va.toNat) (hhi : va.toNat < 0xA0000000) :
    translate va k s = .ok (va - 0x80000000, cacheable s.cp0.k0) s := by
  have hseg : fieldOf va 29 3 = 4#3 := (fieldOf_29 va _).2 (by simp; omega)
  rw [translate, hu, Bool.false_and, if_neg Bool.false_ne_true, if_pos hseg]

/-- Below kseg0 no address is forbidden, and Status.ERL decides whether it is mapped. -/
theorem translate_kuseg (hva : va.toNat < 0x80000000) :
    translate va k s =
      if s.erl then .ok (va, false) s else if s.fixedMapping then .ok (fixedMap va s) s else tlbLookup va k s := by
  have hkseg0 : fieldOf va 29 3 ≠ 4#3 := fieldOf_29_ne (by simp; omega)
  have hkseg1 : fieldOf va 29 3 ≠ 5#3 := fieldOf_29_ne (by simp; omega)
  have hhigh : isSet va 31 = false := by simpa [isSet_31] using hva
  rw [translate, hhigh, Bool.and_false, if_neg Bool.false_ne_true, if_neg hkseg0, if_neg hkseg1, Bool.not_false, Bool.true_and]

/-- kseg2 and kseg3 are always mapped. -/
theorem translate_kseg23 (hu : s.userMode = false) (hva : 0xC0000000 ≤ va.toNat) :
    translate va k s = if s.fixedMapping then .ok (fixedMap va s) s else tlbLookup va k s := by
  have hkseg0 : fieldOf va 29 3 ≠ 4#3 := fieldOf_29_ne (by simp; omega)
  have hkseg1 : fieldOf va 29 3 ≠ 5#3 := fieldOf_29_ne (by simp; omega)
  have hhigh : isSet va 31 = true := by simp [isSet_31]; omega
  rw [translate, hu, Bool.false_and, if_neg Bool.false_ne_true, if_neg hkseg0, if_neg hkseg1, hhigh, Bool.not_true,
    Bool.false_and, if_neg Bool.false_ne_true]

theorem fixedMap_kuseg (hva : va.toNat < 0x80000000) : fixedMap va s = (va + 0x40000000, cacheable s.cp0.ku) := by
  rw [fixedMap, if_neg]
  simpa [isSet_31] using hva

theorem fixedMap_kseg23 (hva : 0xC0000000 ≤ va.toNat) : fixedMap va s = (va, cacheable s.cp0.k23) := by
  rw [fixedMap, if_pos]
  simp [isSet_31]
  omega

end

/-- Settles O25, segment by segment. -/
theorem segmentTranslation : Obligations.SegmentTranslation := by
  intro s va k user cached fm
  have hkernel (h : ¬user) : s.userMode = false := Bool.eq_false_iff.2 (mt userMode_iff.1 h)
  have hcached (c : BitVec 3) : cacheable c = cached c := cacheable_eq c
  simp only [← hcached]
  refine ⟨fun hu => translate_forbidden k (userMode_iff.2 hu), fun hu => translate_kseg0 k (hkernel hu),
    fun hu => translate_kseg1 k (hkernel hu), fun hva herl => ?_, fun hfm hva herl => ?_, fun hfm hu hva => ?_⟩
  · rw [translate_kuseg k hva, State.erl, if_pos herl]
  · rw [translate_kuseg k hva, State.erl, herl, if_neg Bool.false_ne_true, State.fixedMapping, if_pos hfm, fixedMap_kuseg hva]
  · rw [translate_kseg23 k (hkernel hu) hva, State.fixedMapping, if_pos hfm, fixedMap_kseg23 hva]

/-! ## The search of the TLB (R432, R433) -/

/-- A search that finds no entry (R432). -/
theorem tlbLookup_none {s : State} {va : Word} (k : Access) (hl : TlbMasksLegal s)
    (h : ∀ i, ¬TlbMatches s i (vpn2Of va)) : tlbLookup va k s = .exc (.tlbRefill va (k == .store)) s := by
  rw [tlbLookup, tlbMasksLegal_of s hl, (tlbFind_none s _).2 h]
  rfl

/-- A search whose lowest matching entry is i (R432, D15). -/
theorem tlbLookup_first {s : State} {va : Word} {i : Fin 16} (k : Access) (hl : TlbMasksLegal s)
    (h : TlbFirst s i (vpn2Of va)) :
    tlbLookup va k s =
      if !(s.tlb[i].page va).v then .exc (.tlbInvalid va (k == .store)) s
      else if k == .store && !(s.tlb[i].page va).d then .exc (.mod va) s
      else .ok (s.tlb[i].translate va, cacheable (s.tlb[i].page va).c) s := by
  rw [tlbLookup, tlbMasksLegal_of s hl, tlbFind_some s _ i h]
  rfl

/-- A page mask has twelve bits. -/
theorem mask_bits_le {m : BitVec 12} {bits : Nat} (h : m.toNat = 4 ^ bits - 1) : bits ≤ 6 := by
  have hm := m.isLt
  have hpow : 4 ^ bits < 4 ^ 7 := by omega
  exact Nat.le_of_lt_succ ((Nat.pow_lt_pow_iff_right (by decide)).1 hpow)

/-- Settles O26: a mapped address is searched for, and the lowest matching entry answers for the page the address selects. -/
theorem tlbTranslation : Obligations.TlbTranslation := by
  intro s va k hfm hl hmapped
  have hlookup : translate va k s = tlbLookup va k s := by
    rcases hmapped with ⟨hva, herl⟩ | ⟨hva, hkernel⟩
    · rw [translate_kuseg k hva, State.erl, herl, State.fixedMapping, hfm]
      rfl
    · rw [translate_kseg23 k (userMode_eq_false hkernel) hva, State.fixedMapping, hfm]
      rfl
  rw [hlookup]
  refine ⟨tlbLookup_none k hl, fun i bits hfirst hmask => ?_⟩
  intro n page
  obtain ⟨hpage, haddr⟩ := s.tlb[i].translate_toNat va bits hmask (mask_bits_le hmask)
  change s.tlb[i].page va = page at hpage
  rw [hpage] at haddr
  rw [tlbLookup_first k hl hfirst, hpage, ← cacheable_eq]
  refine ⟨fun hv => ?_, fun hv hk hd => ?_, fun hv hd => ⟨_, haddr, ?_⟩⟩
  · simp [hv]
  · simp [hv, hk, hd]
  · have hstore : (k == .store && !page.d) = false := by
      cases k with
      | fetch | load => rfl
      | store => simp [hd rfl]
    simp [hv, hstore]

/-! ## The check of the address of a data access (R402, R403, R804) -/

/-- An operation checks its address before it does anything else: it raises Address Error when the address is not a multiple of the
size, else the exception that the translation answers. -/
def ChecksAddress {α : Type} (va : Word) (k : Access) (size : Nat) (s : State) (r : Res α) : Prop :=
  (va.toNat % size ≠ 0 → r = .exc (.addressError va (k == .store)) s) ∧
  (va.toNat % size = 0 → ∀ e, translate va k s = .exc e s → r = .exc e s)

section
variable {α β : Type} {s : State} {va : Word} {k : Access} {size : Nat}

/-- The form in which the operations of the model check their address. -/
theorem checksAddress_ite (f : Word × Bool → State → Res α) :
    ChecksAddress va k size s
      (if va.toNat % size ≠ 0 then .exc (.addressError va (k == .store)) s else (translate va k s).andThen f) :=
  ⟨fun h => if_pos h, fun h e ht => by rw [if_neg (not_not.2 h), ht, andThen_exc]⟩

/-- What follows an operation that raises an exception is not done. -/
theorem ChecksAddress.andThen {r : Res α} (h : ChecksAddress va k size s r) (f : α → State → Res β) :
    ChecksAddress va k size s (r.andThen f) :=
  ⟨fun ha => by rw [h.1 ha, andThen_exc], fun ha e ht => by rw [h.2 ha e ht, andThen_exc]⟩

theorem memRead_checks : ChecksAddress va .load size s (memRead va size s) := checksAddress_ite _
theorem memWrite_checks (q : StoreReq) : ChecksAddress va .store size s (memWrite va size q s) := checksAddress_ite _
theorem memRead64_checks : ChecksAddress va .load 8 s (memRead64 va s) := checksAddress_ite _
theorem memWrite64_checks (v : Dword) : ChecksAddress va .store 8 s (memWrite64 va v s) := checksAddress_ite _
theorem loadLinked_checks (rt : GprNum) : ChecksAddress va .load 4 s (loadLinked rt va s) := checksAddress_ite _
theorem storeConditional_checks (rt : GprNum) : ChecksAddress va .store 4 s (storeConditional rt va s) := checksAddress_ite _

/-- The check with the FPU on (R750). -/
theorem ChecksAddress.fpu {r : Res α} (h : ChecksAddress va k size s r) (hf : FpuOn s) :
    ChecksAddress va k size s (needFpu s r) := by
  rwa [needFpu, if_pos ((fpuUsable_iff s).2 hf)]

/-- The check with an even register (R753). -/
theorem ChecksAddress.even {r : Res α} (h : ChecksAddress va k size s r) {n : BitVec 5} (hn : EvenReg n) :
    ChecksAddress va k size s (evenOnly [n] r) := by
  have hodd : oddReg n = false := by
    unfold EvenReg at hn
    simp [oddReg, isSet, BitVec.getLsbD, Nat.testBit_zero, hn]
  rw [evenOnly, if_neg (by simp [hodd])]
  exact h

/-- An instruction whose operation checks its address raises the exceptions of the check. -/
theorem ChecksAddress.raises {r : Res Unit} {i : Instr} (h : ChecksAddress va k size s r) (hi : exec i s = finish r) :
    (va.toNat % size ≠ 0 → Raises i s (.addressError va (k == .store))) ∧
      (va.toNat % size = 0 → ∀ e, translate va k s = .exc e s → Raises i s e) :=
  ⟨fun ha => by rw [Raises, hi, h.1 ha, finish_exc], fun ha e ht => by rw [Raises, hi, h.2 ha e ht, finish_exc]⟩

end

/-- Settles O21: each load and store begins with the check of its address. -/
theorem accessExceptions : Obligations.AccessExceptions := by
  intro s base rt ft offset va loads stores
  have hload {size : Nat} {i : Instr} {r : Word → State → Res Unit} (hi : exec i s = finish ((memRead va size s).andThen r)) :
      loads size i := (memRead_checks.andThen r).raises hi
  have hstore {size : Nat} {i : Instr} {q : StoreReq} (hi : exec i s = finish (memWrite va size q s)) : stores size i :=
    (memWrite_checks q).raises hi
  refine ⟨?_, ?_, ?_, ?_, hstore rfl, ?_, fun hf => ⟨((memRead_checks.andThen _).fpu hf).raises rfl,
    ((memWrite_checks _).fpu hf).raises rfl, fun hft => ⟨((memRead64_checks.andThen _).even hft |>.fpu hf).raises rfl,
    ((memWrite64_checks _).even hft |>.fpu hf).raises rfl⟩⟩⟩
  · simp only [List.forall_mem_cons]
    exact ⟨hload rfl, hload rfl, hload rfl, hload rfl, List.forall_mem_nil _⟩
  · simp only [List.forall_mem_cons]
    exact ⟨hload rfl, hload rfl, List.forall_mem_nil _⟩
  · simp only [List.forall_mem_cons]
    exact ⟨hload rfl, (loadLinked_checks rt).raises rfl, List.forall_mem_nil _⟩
  · simp only [List.forall_mem_cons]
    exact ⟨hstore rfl, hstore rfl, hstore rfl, List.forall_mem_nil _⟩
  · simp only [List.forall_mem_cons]
    exact ⟨hstore rfl, (storeConditional_checks rt).raises rfl, List.forall_mem_nil _⟩

end Sys2Proof.Machine
end

section
/-! SUPPORT. Fetches that fail, and fetched words that are no instruction (R403, R495 to R498, R955). -/

namespace Sys2Proof.Machine

open Sys2Proof

/-! ## The exceptions of a fetch (R403, D24) -/

theorem fetch_of_translate_exc {s : State} {e : Exc} (h : translate s.pc .fetch s = .exc e s) : fetch s = .exc e s := by
  rw [fetch, h, andThen_exc]

/-- The two low bits of an address. -/
theorem and_3_eq_zero_iff (a : Word) : a &&& 3 = 0 ↔ a.toNat % 4 = 0 := by
  rw [← BitVec.toNat_inj, BitVec.toNat_and]
  exact iff_of_eq (congrArg (· = 0) (Nat.and_two_pow_sub_one_eq_mod a.toNat 2))

theorem fetch_of_misaligned {s : State} {x : Word × Bool} (h : translate s.pc .fetch s = .ok x s) (ha : s.pc.toNat % 4 ≠ 0) :
    fetch s = .exc (.addressError s.pc false) s := by
  rw [fetch, h, andThen_ok, if_pos (mt (and_3_eq_zero_iff s.pc).1 ha)]

/-! ## The exception of a word that is no instruction (R495 to R498, D8) -/

/-- The word belongs to a coprocessor that is not usable: COP0 without privilege; COP1 or SPECIAL function 1 without CU1; COP2, its
loads and stores without CU2; COP3 without CU3. -/
def CoprocessorUnusable (w : Word) (s : State) : Prop :=
  let op := w.toNat / 2 ^ 26
  let cu (n : Nat) : Prop := isSet s.cp0.status (28 + n) = true
  (op = 0x10 ∧ ¬Privileged s) ∨ ((op = 0x11 ∨ (op = 0 ∧ w.toNat % 64 = 1)) ∧ ¬cu 1) ∨
    (op ∈ [0x12, 0x32, 0x36, 0x3A, 0x3E] ∧ ¬cu 2) ∨ (op = 0x13 ∧ ¬cu 3)

/-- The opcode field as a quotient. -/
theorem fieldOf_26_iff (w : Word) (op : BitVec 6) : fieldOf w 26 6 = op ↔ w.toNat / 2 ^ 26 = op.toNat := by
  have hlt : w.toNat / 2 ^ 26 < 2 ^ 6 := by omega
  rw [fieldOf, ← BitVec.toNat_inj, BitVec.extractLsb'_toNat, Nat.shiftRight_eq_div_pow, Nat.mod_eq_of_lt hlt]

/-- The function field as a remainder. -/
theorem fieldOf_0_iff (w : Word) (fn : BitVec 6) : fieldOf w 0 6 = fn ↔ w.toNat % 64 = fn.toNat := by
  rw [fieldOf, ← BitVec.toNat_inj, BitVec.extractLsb'_toNat, Nat.shiftRight_zero]

/-- A word that is no instruction raises Coprocessor Unusable or Reserved Instruction. -/
theorem undecodedExc_spec (w : Word) (s : State) :
    (CoprocessorUnusable w s → undecodedExc w s = .cpu) ∧ (¬CoprocessorUnusable w s → undecodedExc w s = .ri) := by
  have hcop2 : w.toNat / 2 ^ 26 ∈ [0x12, 0x32, 0x36, 0x3A, 0x3E] ↔ (w.toNat / 2 ^ 26 = 0x12 ∨ w.toNat / 2 ^ 26 = 0x32 ∨
      w.toNat / 2 ^ 26 = 0x3A ∨ w.toNat / 2 ^ 26 = 0x36 ∨ w.toNat / 2 ^ 26 = 0x3E) := by
    simp only [List.mem_cons, List.not_mem_nil, or_false]
    tauto
  unfold undecodedExc CoprocessorUnusable
  simp only [fieldOf_26_iff, fieldOf_0_iff, BitVec.reduceToNat, hcop2, ← cp0Usable_iff, Bool.not_eq_true', Bool.not_eq_true]
  refine ⟨fun h => ?_, fun h => ?_⟩
  · rcases h with h | h | h | h
    · exact if_pos h
    · rw [if_pos h, ite_self]
    · rw [if_pos h, ite_self, ite_self]
    · rw [if_pos h, ite_self, ite_self, ite_self]
  · obtain ⟨h0, h⟩ := not_or.1 h
    obtain ⟨h1, h⟩ := not_or.1 h
    obtain ⟨h2, h3⟩ := not_or.1 h
    rw [if_neg h0, if_neg h1, if_neg h2, if_neg h3]

/-! ## The step -/

/-- A step whose fetch raises an exception. -/
theorem step_fetch_exc {s t : State} {e : Exc} (h : InstructionNext s) (hh : fetchHazard { s with excTaken := false } = none)
    (hf : fetch { s with excTaken := false } = .exc e t) :
    ∃ h, step s = .next (clkTick (State.endStep { takeException e t with hazard := h })) := by
  refine ⟨((takeException e t).trackFetchExc t).hazard, ?_⟩
  rw [step_instruction h, runInstr, hh, hf, ← trackFetchExc_eq]
  rfl

/-- A step whose fetched word is no instruction. -/
theorem step_undecoded {s t : State} {w : Word} {e : DecodeError} (h : InstructionNext s)
    (hh : fetchHazard { s with excTaken := false } = none) (hf : fetch { s with excTaken := false } = .ok w t)
    (hd : decode w = .error e) (hw : wordHazard w t = none) :
    ∃ h, step s = .next (clkTick (State.endStep { takeException (undecodedExc w t) t with hazard := h })) := by
  refine ⟨((takeException (undecodedExc w t) t).trackExc t).hazard, ?_⟩
  have hword : execWord w t = .next ((takeException (undecodedExc w t) t).trackExc t) := by rw [execWord, hd, hw]
  rw [step_instruction h, runInstr, hh, hf, ← trackExc_eq]
  dsimp only
  rw [hword]
  rfl

/-- Settles O37: the fetch raises the exceptions of translation and alignment, and execution that of the word. -/
theorem fetchExceptions : Obligations.FetchExceptions := by
  intro s hs u raises hh
  refine ⟨fun e he => step_fetch_exc hs hh (fetch_of_translate_exc he),
    fun pa c ht ha => step_fetch_exc hs hh (fetch_of_misaligned ht ha), fun w t e hf hd hw => ?_⟩
  have hstep : raises (undecodedExc w t) t := step_undecoded hs hh hf hd hw
  obtain ⟨hcpu, hri⟩ := undecodedExc_spec w t
  exact ⟨fun hun => hcpu hun ▸ hstep, fun hun => hri hun ▸ hstep⟩

end Sys2Proof.Machine
end

section
/-! SUPPORT. The decoder and the encoder are inverse to each other (R482 to R498). -/

namespace Sys2Proof.Laws.RoundTrip

open Sys2Proof

/-! ## Decoding what was encoded -/

/-- Settles O59: the case split over the 184 constructors, in their order, each case the round trip of its instruction. -/
theorem decodeEncode : Obligations.DecodeEncode := fun i =>
  i.casesOn (motive := Statement)
    add addi addiu addu sub subu slt slti sltiu sltu andr andi orr ori xorr xori norr lui sll srl sra sllv srlv srav mult
    multu mul madd maddu msub msubu div divu mfhi mflo mthi mtlo clz clo movn movz movf movt j jal jr jalr beq bne blez bgtz
    bltz bgez bltzal bgezal beql bnel blezl bgtzl bltzl bgezl bltzall bgezall lb lbu lh lhu lw lwl lwr sb sh sw swl swr ll sc
    pref sync syscall brk teq tne tge tgeu tlt tltu teqi tnei tgei tgeiu tlti tltiu mfc0 eret mtc0 tlbp tlbr tlbwi tlbwr cache
    wait addS addD subS subD mulS mulD divS divD sqrtS sqrtD absS absD negS negD movS movD cvtSD cvtSW cvtDS cvtDW cvtWS cvtWD
    roundWS roundWD truncWS truncWD ceilWS ceilWD floorWS floorWD mfc1 mtc1 cfc1 ctc1 lwc1 swc1 ldc1 sdc1 movfS movfD movtS
    movtD movnS movnD movzS movzD bc1f bc1t bc1fl bc1tl cFS cFD cUnS cUnD cEqS cEqD cUeqS cUeqD cOltS cOltD cUltS cUltD cOleS
    cOleD cUleS cUleD cSfS cSfD cNgleS cNgleD cSeqS cSeqD cNglS cNglD cLtS cLtD cNgeS cNgeD cLeS cLeD cNgtS cNgtD

/-! ## A word from its fields (R483)

Neighbouring fields of a word join to one longer field, and the field of all bits is the word. -/

theorem packR_fields (w : Word) : packR (opOf w) (rsOf w) (rtOf w) (rdOf w) (saOf w) (fnOf w) = w := by
  unfold packR opOf rsOf rtOf rdOf saOf fnOf
  repeat rw [BitVec.extractLsb'_append_extractLsb'_eq_extractLsb' (by rfl)]
  exact BitVec.extractLsb'_eq_self

theorem packI_fields (w : Word) : packI (opOf w) (rsOf w) (rtOf w) (immOf w) = w := by
  unfold packI opOf rsOf rtOf immOf
  repeat rw [BitVec.extractLsb'_append_extractLsb'_eq_extractLsb' (by rfl)]
  exact BitVec.extractLsb'_eq_self

theorem packJ_fields (w : Word) : packJ (opOf w) (idxOf w) = w := by
  unfold packJ opOf idxOf
  rw [BitVec.extractLsb'_append_extractLsb'_eq_extractLsb' (by rfl)]
  exact BitVec.extractLsb'_eq_self

theorem packR_eq_iff {op fn : BitVec 6} {rs rt rd sa : BitVec 5} {w : Word} : packR op rs rt rd sa fn = w ↔
    opOf w = op ∧ rsOf w = rs ∧ rtOf w = rt ∧ rdOf w = rd ∧ saOf w = sa ∧ fnOf w = fn := by
  constructor
  · rintro rfl
    simp
  · rintro ⟨rfl, rfl, rfl, rfl, rfl, rfl⟩
    exact packR_fields w

theorem packI_eq_iff {op : BitVec 6} {rs rt : BitVec 5} {imm : BitVec 16} {w : Word} : packI op rs rt imm = w ↔
    opOf w = op ∧ rsOf w = rs ∧ rtOf w = rt ∧ immOf w = imm := by
  constructor
  · rintro rfl
    simp
  · rintro ⟨rfl, rfl, rfl, rfl⟩
    exact packI_fields w

theorem packJ_eq_iff {op : BitVec 6} {idx : BitVec 26} {w : Word} : packJ op idx = w ↔ opOf w = op ∧ idxOf w = idx := by
  constructor
  · rintro rfl
    simp
  · rintro ⟨rfl, rfl⟩
    exact packJ_fields w

/-! ## The parts of a code -/

/-- The parts of a code of SYSCALL and BREAK (`n = 5`, R701) or of WAIT (`n = 4`, R731). -/
theorem extract_of_append {n : Nat} (a : BitVec n) (b c d : BitVec 5) :
    (a ++ b ++ c ++ d).extractLsb' 15 n = a ∧ (a ++ b ++ c ++ d).extractLsb' 10 5 = b ∧
      (a ++ b ++ c ++ d).extractLsb' 5 5 = c ∧ (a ++ b ++ c ++ d).extractLsb' 0 5 = d := by
  refine ⟨?_, ?_, ?_, BitVec.extractLsb'_append_eq_right⟩
  · rw [BitVec.extractLsb'_append_eq_of_le (by decide), BitVec.extractLsb'_append_eq_of_le (by decide)]
    exact BitVec.extractLsb'_append_eq_left
  · rw [BitVec.extractLsb'_append_eq_of_le (by decide), BitVec.extractLsb'_append_eq_of_le (by decide)]
    exact BitVec.extractLsb'_append_eq_right
  · rw [BitVec.extractLsb'_append_eq_of_le (by decide)]
    exact BitVec.extractLsb'_append_eq_right

theorem codeOf10_parts (w : Word) : (codeOf10 w).extractLsb' 5 5 = rdOf w ∧ (codeOf10 w).extractLsb' 0 5 = saOf w :=
  ⟨BitVec.extractLsb'_append_eq_left, BitVec.extractLsb'_append_eq_right⟩

theorem codeOf20_parts (w : Word) :
    (codeOf20 w).extractLsb' 15 5 = rsOf w ∧ (codeOf20 w).extractLsb' 10 5 = rtOf w ∧
      (codeOf20 w).extractLsb' 5 5 = rdOf w ∧ (codeOf20 w).extractLsb' 0 5 = saOf w :=
  extract_of_append ..

theorem codeOf19_parts (w : Word) :
    (codeOf19 w).extractLsb' 15 4 = (rsOf w).extractLsb' 0 4 ∧ (codeOf19 w).extractLsb' 10 5 = rtOf w ∧
      (codeOf19 w).extractLsb' 5 5 = rdOf w ∧ (codeOf19 w).extractLsb' 0 5 = saOf w :=
  extract_of_append ..

/-! ## Fields that hold an operand beside fixed bits

The decoder reads the operand of such a field and tests the other bits; the two together are the field. -/

/-- The condition code over the bits ND and TF of a branch (R812 to R815). -/
theorem fcc_append_low {x : BitVec 5} {y : BitVec 2} (h : x.extractLsb' 0 2 = y) : x.extractLsb' 2 3 ++ y = x := by
  revert x y; decide

/-- The condition code of a comparison (R825). -/
theorem fcc_append_of_and3 {x : BitVec 5} (h : x &&& 3#5 = 0#5) : x.extractLsb' 2 3 ++ 0#2 = x := by
  revert x; decide

/-- The condition code of a move on a false condition (R564, R817). -/
theorem fcc_append_of_false {x : BitVec 5} (h2 : x &&& 2#5 = 0#5) (h1 : x &&& 1#5 = 0#5) : x.extractLsb' 2 3 ++ 0#2 = x := by
  revert x; decide

/-- The condition code of a move on a true condition (R565, R819). -/
theorem fcc_append_of_true {x : BitVec 5} (h2 : x &&& 2#5 = 0#5) (h1 : ¬x &&& 1#5 = 0#5) : x.extractLsb' 2 3 ++ 1#2 = x := by
  revert x; decide

/-- The select field of MFC0 and MTC0 (R716, R718). -/
theorem sel_append_of_and {x : BitVec 6} (h : x &&& 56#6 = 0#6) : 0#3 ++ x.extractLsb' 0 3 = x := by
  revert x; decide

/-- Bit 25 over the upper part of the code of WAIT (R731). -/
theorem co_append_of_and {x : BitVec 5} (h : x &&& 16#5 = 16#5) : 1#1 ++ x.extractLsb' 0 4 = x := by
  revert x; decide

/-! ## Encoding what was decoded (R496) -/

/-- The answer `r` of a decoder accepts the word `w` only as the encoding of its instruction. -/
def Faithful (w : Word) (r : Except DecodeError Instr) : Prop := ∀ i, r = .ok i → encode i = w

@[simp] theorem faithful_ok {w : Word} {i : Instr} : Faithful w (.ok i) ↔ encode i = w := by
  simp [Faithful]

@[simp] theorem faithful_error {w : Word} {e : DecodeError} : Faithful w (.error e) := by
  simp [Faithful]

@[simp] theorem faithful_checked {w : Word} {c : Bool} {i : Instr} :
    Faithful w (checked c i) ↔ (c = true → encode i = w) := by
  cases c <;> simp [checked]

section
variable {w : Word}

/-! Each map of the decoder: in every row of its table the fields that select the row, those tested for zero and the operands
are the six or four fields of the encoding. -/

theorem decodeSpecial_faithful (hop : opOf w = 0x00#6) : Faithful w (decodeSpecial w) := by
  unfold decodeSpecial
  split
  case h_38 => -- MOVF and MOVT
    by_cases htf : rtOf w &&& 1#5 = 0#5 <;>
      simp +contextual [encode, packR_eq_iff, fcc_append_of_false, fcc_append_of_true, *]
  all_goals simp +contextual [encode, packR_eq_iff, codeOf10_parts, codeOf20_parts, *]

theorem decodeRegimm_faithful (hop : opOf w = 0x01#6) : Faithful w (decodeRegimm w) := by
  unfold decodeRegimm
  split <;> simp [encode, packI_eq_iff, *]

theorem decodeSpecial2_faithful (hop : opOf w = 0x1C#6) : Faithful w (decodeSpecial2 w) := by
  unfold decodeSpecial2
  split <;> simp +contextual [encode, packR_eq_iff, *]

theorem decodeCop0Co_faithful (hop : opOf w = 0x10#6) (hco : rsOf w &&& 0x10#5 = 0x10#5) : Faithful w (decodeCop0Co w) := by
  unfold decodeCop0Co
  split <;> simp +contextual [encode, packR_eq_iff, codeOf19_parts, co_append_of_and, *]

theorem decodeCop0_faithful (hop : opOf w = 0x10#6) : Faithful w (decodeCop0 w) := by
  unfold decodeCop0
  split
  case h_3 => -- bit 25 selects the CO map
    split
    · next hco => exact decodeCop0Co_faithful hop (eq_of_beq hco)
    · exact faithful_error
  all_goals simp +contextual [encode, packR_eq_iff, sel_append_of_and, *]

theorem decodeCop1S_faithful (hop : opOf w = 0x11#6) (hrs : rsOf w = 0x10#5) : Faithful w (decodeCop1S w) := by
  unfold decodeCop1S
  split
  case h_15 => -- MOVF and MOVT of the format
    by_cases htf : rtOf w &&& 1#5 = 0#5 <;>
      simp +contextual [encode, packR_eq_iff, fcc_append_of_false, fcc_append_of_true, *]
  all_goals simp +contextual [encode, packR_eq_iff, fcc_append_of_and3, *]

theorem decodeCop1D_faithful (hop : opOf w = 0x11#6) (hrs : rsOf w = 0x11#5) : Faithful w (decodeCop1D w) := by
  unfold decodeCop1D
  split
  case h_15 => -- MOVF and MOVT of the format
    by_cases htf : rtOf w &&& 1#5 = 0#5 <;>
      simp +contextual [encode, packR_eq_iff, fcc_append_of_false, fcc_append_of_true, *]
  all_goals simp +contextual [encode, packR_eq_iff, fcc_append_of_and3, *]

theorem decodeCop1W_faithful (hop : opOf w = 0x11#6) (hrs : rsOf w = 0x14#5) : Faithful w (decodeCop1W w) := by
  unfold decodeCop1W
  split <;> simp +contextual [encode, packR_eq_iff, *]

theorem decodeCop1_faithful (hop : opOf w = 0x11#6) : Faithful w (decodeCop1 w) := by
  have other_low : ∀ y : BitVec 2, y ≠ 0#2 → y ≠ 1#2 → y ≠ 2#2 → y = 3#2 := by decide
  unfold decodeCop1
  split
  case h_5 hrs => -- the branches on a condition code
    dsimp only
    split
    case h_4 h0 h1 h2 => simp [encode, packI_eq_iff, hop, hrs, fcc_append_low (other_low _ h0 h1 h2)]
    all_goals simp [encode, packI_eq_iff, fcc_append_low, *]
  case h_6 hrs => exact decodeCop1S_faithful hop hrs
  case h_7 hrs => exact decodeCop1D_faithful hop hrs
  case h_8 hrs => exact decodeCop1W_faithful hop hrs
  all_goals simp +contextual [encode, packR_eq_iff, *]

end

theorem decode_faithful (w : Word) : Faithful w (decode w) := by
  unfold decode
  split
  case h_1 hop => exact decodeSpecial_faithful hop
  case h_2 hop => exact decodeRegimm_faithful hop
  case h_3 hop => exact decodeCop0_faithful hop
  case h_4 hop => exact decodeCop1_faithful hop
  case h_5 hop => exact decodeSpecial2_faithful hop
  all_goals simp +contextual [encode, packI_eq_iff, packJ_eq_iff, *]

/-- Settles O60: every map of the decoder accepts a word only as the encoding of its answer. -/
theorem encodeDecode : Obligations.EncodeDecode := decode_faithful

end Sys2Proof.Laws.RoundTrip
end

section
/-! SUPPORT. Integer instructions that write one general register: sums, compares, logic, shifts, bit counts and moves (R521 to
R545, R560 to R565). -/

namespace Sys2Proof.Machine

open Sys2Proof

/-! ## Exact results (R521) -/

/-- An instruction that writes an exact result where there is one, and raises Integer Overflow where there is none. -/
theorem computesExact_of_checked {i : Instr} {s : State} {d : BitVec 5} {r : Option Word} {x : Int}
    (h : exec i s = setRegChecked d r s)
    (hr : (∃ v : Word, r = some v ∧ v.toInt = x ∧ -(2 ^ 31) ≤ x ∧ x < 2 ^ 31) ∨
      (r = none ∧ ¬(-(2 ^ 31) ≤ x ∧ x < 2 ^ 31))) :
    ComputesExact i s d x := by
  unfold ComputesExact
  rcases hr with ⟨v, rfl, hv, hfits⟩ | ⟨rfl, hover⟩
  · rw [if_pos hfits]
    exact ⟨v, hv, computes_setReg h⟩
  · rw [if_neg hover]
    exact h

/-- Settles O1: the checked sum and difference of R521 are the exact ones or none. -/
theorem addOverflow : Obligations.AddOverflow := fun s rs rt _ imm =>
  ⟨computesExact_of_checked rfl (checkedAdd_spec (s.readGpr rs) (s.readGpr rt)),
    computesExact_of_checked rfl (toInt_sext imm ▸ checkedAdd_spec (s.readGpr rs) (sext imm)),
    computesExact_of_checked rfl (checkedSub_spec (s.readGpr rs) (s.readGpr rt))⟩

/-! ## Sums, compares and logic (R524 to R539) -/

/-- An instruction that writes one register computes the value written, in whatever form it is given. -/
theorem computes_of_eq {i : Instr} {s : State} {d : BitVec 5} {v w : Word} (hv : v = w) (h : exec i s = setReg d v s) :
    Computes i s d w := hv ▸ computes_setReg h

theorem boolWord_slt (x y : Word) : boolWord (x.slt y) = if x.toInt < y.toInt then 1 else 0 := by
  simp [boolWord, BitVec.slt]

theorem boolWord_ult (x y : Word) : boolWord (x.ult y) = if x.toNat < y.toNat then 1 else 0 := by
  simp [boolWord, BitVec.ult]

/-- Settles O2: each instruction writes the value of its rule; the compares write a truth value as a word. -/
theorem registerArithmetic : Obligations.RegisterArithmetic := by
  intro s rs rt rd imm a b
  have hslti : boolWord (a.slt (sext imm)) = if a.toInt < imm.toInt then 1 else 0 := by rw [boolWord_slt, toInt_sext]
  exact ⟨computes_setReg rfl, computes_setReg rfl, computes_setReg rfl, computes_of_eq (boolWord_slt a b) rfl,
    computes_of_eq hslti rfl, computes_of_eq (boolWord_ult a (sext imm)) rfl, computes_of_eq (boolWord_ult a b) rfl,
    computes_setReg rfl, computes_setReg rfl, computes_setReg rfl, computes_setReg rfl, computes_setReg rfl, computes_setReg rfl,
    computes_setReg rfl, computes_setReg rfl⟩

/-! ## Shifts (R540 to R545) -/

theorem shiftAmount_eq_mod (x : Word) : shiftAmount x = x.toNat % 32 := by
  rw [shiftAmount, fieldOf, BitVec.extractLsb'_toNat, Nat.shiftRight_zero]

/-- Settles O3: the shifts of bit vectors are products and quotients by powers of two. -/
theorem shifts : Obligations.Shifts := by
  intro s rs rt rd sa b n
  have hn : shiftAmount (s.readGpr rs) = n := shiftAmount_eq_mod _
  exact ⟨computes_of_eq (shiftLeft_eq_mul b _) rfl, computes_of_eq (ushiftRight_eq_div b _) rfl,
    computes_of_eq (sshiftRight_eq_div b _) rfl, computes_of_eq (hn ▸ shiftLeft_eq_mul b _) rfl,
    computes_of_eq (hn ▸ ushiftRight_eq_div b _) rfl, computes_of_eq (hn ▸ sshiftRight_eq_div b _) rfl⟩

/-! ## Leading bits (R560, R561) -/

/-- The count of the leading zeros: the bits above the highest one are zero. -/
theorem leadingZeros_spec (x : Word) :
    ∃ n, n ≤ 32 ∧ (∀ k, k < n → x.getLsbD (31 - k) = false) ∧ (n < 32 → x.getLsbD (31 - n) = true) ∧
      leadingZeros x = BitVec.ofNat 32 n := by
  unfold leadingZeros
  by_cases h0 : x = 0
  · refine ⟨32, le_rfl, fun k _ => ?_, fun h => absurd h (lt_irrefl _), if_pos h0⟩
    rw [h0]
    exact BitVec.getLsbD_zero
  · have hne : x.toNat ≠ 0 := fun h => h0 (BitVec.eq_of_toNat_eq h)
    have htop : Nat.log2 x.toNat < 32 := (Nat.log2_lt hne).2 x.isLt
    refine ⟨31 - Nat.log2 x.toNat, by omega, fun k hk => ?_, fun _ => ?_, if_neg h0⟩
    · exact Nat.testBit_lt_two_pow ((Nat.log2_lt hne).1 (by omega))
    · rw [show 31 - (31 - Nat.log2 x.toNat) = Nat.log2 x.toNat by omega]
      exact Nat.testBit_log2 hne

/-- Settles O8: the leading ones of a word are the leading zeros of its complement. -/
theorem countLeading : Obligations.CountLeading := by
  intro s rs rt rd a
  obtain ⟨n, hn, hzeros, hone, hclz⟩ := leadingZeros_spec a
  obtain ⟨m, hm, hones, hzero, hclo⟩ := leadingZeros_spec (~~~a)
  have hnot {k : Nat} {b : Bool} (h : (~~~a).getLsbD (31 - k) = b) : a.getLsbD (31 - k) = !b := by
    have hk : 31 - k < 32 := by omega
    simpa [BitVec.getLsbD_not, hk] using congrArg not h
  exact ⟨⟨n, hn, hzeros, hone, computes_of_eq hclz rfl⟩,
    m, hm, fun k hk => hnot (hones k hk), fun h => hnot (hzero h), computes_of_eq hclo rfl⟩

/-! ## Conditional moves (R562 to R565) -/

/-- A conditional move computes the value moved, or the value the destination has. -/
theorem computes_moveIf {i : Instr} {s : State} {rs rd : GprNum} {c : Bool} {p : Prop} [Decidable p] (hc : c = true ↔ p)
    (h : exec i s = finish (moveIf c rs rd s)) : Computes i s rd (if p then s.readGpr rs else s.readGpr rd) := by
  refine computes_of_ok (h.trans ?_)
  rw [moveIf, finish_ok]
  by_cases hp : p
  · rw [if_pos (hc.2 hp), if_pos hp]
  · rw [if_neg (mt hc.1 hp), if_neg hp, State.putGpr_self]

/-- With the FPU on, an instruction that needs it runs its operation (R750). -/
theorem needFpu_of_on {α : Type} {s : State} (h : FpuOn s) (r : Res α) : needFpu s r = r := if_pos ((fpuUsable_iff s).2 h)

/-- Settles O9: each move tests what its rule names. -/
theorem conditionalMoves : Obligations.ConditionalMoves := by
  intro s rs rt rd cc a old
  have hclear : (!s.fcc cc) = true ↔ s.fcsr.getLsbD (fccPlace cc) = false := Bool.not_eq_true' _ ▸ .rfl
  refine ⟨computes_moveIf bne_iff_ne rfl, computes_moveIf beq_iff_eq rfl, fun hon => ⟨?_, ?_⟩⟩
  · exact computes_moveIf hclear (congrArg finish (needFpu_of_on hon _))
  · exact computes_moveIf .rfl (congrArg finish (needFpu_of_on hon _))

end Sys2Proof.Machine
end

section
/-! SUPPORT. The multiply/divide unit: HI and LO after products, quotients and moves (R546 to R559). -/

namespace Sys2Proof.Machine

open Sys2Proof

/-! ## Frames -/

/-- A state that differs in the general registers, HI, LO and the model's own fields, advanced. -/
theorem onlyHiLo_advance {s s' : State}
    (h : s' = { s with gpr := s'.gpr, hi := s'.hi, lo := s'.lo, freeCtr := s'.freeCtr, mduUnread := s'.mduUnread }) :
    OnlyHiLo s s'.advance := by
  refine (State.advance_eq s').trans
    ((congrArg (fun u : State => { u with pc := s'.advance.pc, slot := s'.advance.slot }) h).trans ?_)
  simp only [State.advance_gpr, State.advance_hi, State.advance_lo, State.advance_freeCtr, State.advance_mduUnread]

/-- A state that differs in HI and LO, advanced. -/
theorem onlyAcc_advance {s s' : State} (h : s' = { s with hi := s'.hi, lo := s'.lo, mduUnread := s'.mduUnread }) :
    OnlyAcc s s'.advance := by
  refine (State.advance_eq s').trans
    ((congrArg (fun u : State => { u with pc := s'.advance.pc, slot := s'.advance.slot }) h).trans ?_)
  simp only [State.advance_hi, State.advance_lo, State.advance_mduUnread]

/-- What every instruction of the unit that writes no general register keeps. -/
theorem unit_advance {s s' : State}
    (h : s' = { s with hi := s'.hi, lo := s'.lo, freeCtr := s'.freeCtr, mduUnread := s'.mduUnread }) :
    SameGprs s s'.advance ∧ MovesOn s s'.advance ∧ SameMemory s s'.advance ∧ OnlyHiLo s s'.advance := by
  have hgpr : s'.gpr = s.gpr := by rw [h]
  refine ⟨.of_eq ?_, .of_same ?_ ?_, .of_eq ?_ ?_, onlyHiLo_advance ?_⟩
  · rw [State.advance_gpr, hgpr]
  · rw [h]
  · rw [h]
  · rw [State.advance_mem, h]
  · rw [State.advance_checkBits, h]
  · rw [hgpr]
    exact h

/-! ## Products (R547 to R553) -/

/-- An instruction that leaves a doubleword in HI and LO. -/
theorem completes_putHiLo {i : Instr} {s : State} {v : Dword} {unread : Bool}
    (h : exec i s = finish (.done (s.putHiLo v unread))) :
    Completes i s fun t => t.hi = fieldOf v 32 32 ∧ t.lo = fieldOf v 0 32 ∧ SameGprs s t ∧ MovesOn s t ∧ SameMemory s t ∧
      OnlyAcc s t := by
  obtain ⟨hgpr, hpc, hmem, -⟩ := unit_advance (s := s) (s' := s.putHiLo v unread) rfl
  exact ⟨_, h, State.advance_hi _, State.advance_lo _, hgpr, hpc, hmem, onlyAcc_advance rfl⟩

/-- The same, of the two registers together. -/
theorem completes_acc {i : Instr} {s : State} {v : Dword} {unread : Bool} (P : Dword → Prop)
    (h : exec i s = finish (.done (s.putHiLo v unread))) (hv : P v) :
    Completes i s fun t => P (t.hi ++ t.lo) ∧ SameGprs s t ∧ MovesOn s t ∧ SameMemory s t ∧ OnlyAcc s t := by
  obtain ⟨t, ht, hhi, hlo, hframe⟩ := completes_putHiLo h
  refine ⟨t, ht, ?_, hframe⟩
  rw [hhi, hlo, halves_of_dword]
  exact hv

/-- 64 bits hold the product of two signed words. -/
theorem productSigned_toInt (x y : Word) : (productSigned x y).toInt = x.toInt * y.toInt := by
  rw [productSigned, BitVec.toInt_ofInt]
  have hx : |x.toInt| ≤ 2 ^ 31 := abs_le.2 ⟨x.le_toInt, x.toInt_lt.le⟩
  have hy : |y.toInt| ≤ 2 ^ 31 := abs_le.2 ⟨y.le_toInt, y.toInt_lt.le⟩
  have hxy : |x.toInt * y.toInt| ≤ 2 ^ 31 * 2 ^ 31 := by
    rw [abs_mul]
    exact mul_le_mul hx hy (abs_nonneg _) (by norm_num)
  obtain ⟨hlow, hhigh⟩ := abs_le.1 hxy
  exact Int.bmod_eq_of_le (by omega) (by omega)

/-- 64 bits hold the product of two unsigned words. -/
theorem productUnsigned_toNat (x y : Word) : (productUnsigned x y).toNat = x.toNat * y.toNat := by
  rw [productUnsigned, BitVec.toNat_ofNat]
  have hxy : x.toNat * y.toNat < 2 ^ 32 * 2 ^ 32 := Nat.mul_lt_mul'' x.isLt y.isLt
  exact Nat.mod_eq_of_lt hxy

/-- The low word of a product is that of the exact one. -/
theorem mul_eq_ofInt (x y : Word) : x * y = BitVec.ofInt 32 (x.toInt * y.toInt) := by
  rw [BitVec.ofInt_mul, BitVec.ofInt_toInt, BitVec.ofInt_toInt]

/-- MUL writes its register and leaves HI and LO free (R549). -/
theorem completes_mul (s : State) (rs rt rd : GprNum) :
    Completes (.mul rs rt rd) s fun t =>
      GprHolds rd (s.readGpr rs * s.readGpr rt) s t ∧ MovesOn s t ∧ SameMemory s t ∧ OnlyHiLo s t := by
  obtain ⟨hgpr, hpc, hmem, -⟩ := gpr_advance (s.freeHiLo s.mduUnread) rd (s.readGpr rs * s.readGpr rt)
  refine ⟨_, rfl, hgpr, hpc, hmem, onlyHiLo_advance ?_⟩
  rw [State.putGpr_eq]
  rfl

/-- Settles O4: the doubleword left in HI and LO is the exact product, or the sum or difference with it modulo 2^64. -/
theorem multiply : Obligations.Multiply := by
  intro s rs rt rd a b acc leaves
  refine ⟨?_, ?_, ?_, ?_, ?_, ?_, ?_⟩
  · exact completes_acc (·.toInt = a.toInt * b.toInt) rfl (productSigned_toInt a b)
  · exact completes_acc (·.toNat = a.toNat * b.toNat) rfl (productUnsigned_toNat a b)
  · exact completes_acc (· = acc + productSigned a b) rfl rfl
  · exact completes_acc (· = acc + productUnsigned a b) rfl rfl
  · exact completes_acc (· = acc - productSigned a b) rfl rfl
  · exact completes_acc (· = acc - productUnsigned a b) rfl rfl
  · exact mul_eq_ofInt a b ▸ completes_mul s rs rt rd

/-! ## Quotients (R554, R555) -/

/-- A division by a divisor that is not 0 leaves the remainder in HI and the quotient in LO. -/
theorem completes_quotient {i : Instr} {s : State} {y q r : Word} (hy : y ≠ 0)
    (h : exec i s = finish (.done (if y = 0 then s.freeHiLo true else s.putHiLo (r ++ q) true))) :
    Completes i s fun t => t.lo = q ∧ t.hi = r ∧ SameGprs s t ∧ MovesOn s t ∧ SameMemory s t ∧ OnlyAcc s t := by
  rw [if_neg hy] at h
  obtain ⟨t, ht, hhi, hlo, hframe⟩ := completes_putHiLo h
  rw [fieldOf_append_high] at hhi
  rw [fieldOf_append_low] at hlo
  exact ⟨t, ht, hlo, hhi, hframe⟩

/-- A division by zero completes and leaves HI and LO free (D13). -/
theorem completes_divideByZero {i : Instr} {s : State} {y : Word} {v : Dword} (hy : y = 0)
    (h : exec i s = finish (.done (if y = 0 then s.freeHiLo true else s.putHiLo v true))) :
    Completes i s fun t => SameGprs s t ∧ MovesOn s t ∧ SameMemory s t ∧ OnlyHiLo s t := by
  rw [if_pos hy] at h
  exact ⟨_, h, unit_advance rfl⟩

/-- A word holds the remainder of two signed words. -/
theorem toInt_ofInt_tmod (x y : Word) (hy : y ≠ 0) :
    (BitVec.ofInt 32 (x.toInt.tmod y.toInt)).toInt = x.toInt - y.toInt * x.toInt.tdiv y.toInt := by
  have hy0 : y.toInt ≠ 0 := fun h => hy (BitVec.eq_of_toInt_eq h)
  have hbound : (x.toInt.tmod y.toInt).natAbs < y.toInt.natAbs := by
    rw [Int.natAbs_tmod]
    exact Nat.mod_lt _ (Int.natAbs_pos.2 hy0)
  have hlow := y.le_toInt
  have hhigh := y.toInt_lt
  rw [BitVec.toInt_ofInt, Int.bmod_eq_of_le (by omega) (by omega), Int.tmod_def]

/-- Settles O6: HI and LO are the remainder and the quotient, which 32 bits hold. -/
theorem divide : Obligations.Divide := by
  intro s rs rt a b
  refine ⟨fun hb => ⟨?signed, ?unsigned⟩, fun hb => ⟨completes_divideByZero hb rfl, completes_divideByZero hb rfl⟩⟩
  case signed =>
    obtain ⟨t, ht, hlo, hhi, hframe⟩ := completes_quotient (i := .div rs rt) hb rfl
    exact ⟨t, ht, hlo, hhi ▸ toInt_ofInt_tmod a b hb, hframe⟩
  case unsigned =>
    obtain ⟨t, ht, hlo, hhi, hframe⟩ := completes_quotient (i := .divu rs rt) hb rfl
    refine ⟨t, ht, ?_, ?_, hframe⟩
    · rw [hlo, BitVec.toNat_ofNat, Nat.mod_eq_of_lt ((Nat.div_le_self ..).trans_lt a.isLt)]
    · rw [hhi, BitVec.toNat_ofNat, Nat.mod_eq_of_lt ((Nat.mod_le ..).trans_lt a.isLt)]

/-! ## Moves of HI and LO (R556 to R559) -/

/-- A move from HI or LO writes its register and marks the result as read (log 20). -/
theorem completes_moveFrom {i : Instr} {s : State} {rd : GprNum} {v : Word}
    (h : exec i s = setReg rd v { s with mduUnread := false }) :
    Completes i s fun t => GprHolds rd v s t ∧ t.hi = s.hi ∧ t.lo = s.lo ∧ MovesOn s t ∧ SameMemory s t ∧ OnlyHiLo s t := by
  obtain ⟨hgpr, hpc, hmem, -⟩ := gpr_advance { s with mduUnread := false } rd v
  refine ⟨_, h, hgpr, by simp, by simp, hpc, hmem, onlyHiLo_advance ?_⟩
  rw [State.putGpr_eq]

/-- Settles O7: the register that is not written changes only after a result that nothing has read. -/
theorem hiLoMoves : Obligations.HiLoMoves := by
  intro s rs rd
  refine ⟨completes_moveFrom rfl, completes_moveFrom rfl, ⟨_, rfl, ?hi, ?keepsLo, unit_advance ?_⟩,
    ⟨_, rfl, ?lo, ?keepsHi, unit_advance ?_⟩⟩
  case hi =>
    rw [State.advance_hi]
    split <;> rfl
  case lo =>
    rw [State.advance_lo]
    split <;> rfl
  case keepsLo =>
    intro hread
    rw [State.advance_lo, if_neg (by simp [hread])]
  case keepsHi =>
    intro hread
    rw [State.advance_hi, if_neg (by simp [hread])]
  all_goals split <;> rfl

end Sys2Proof.Machine
end

section
/-! SUPPORT. A step from plain memory runs the instruction that the bytes at PC decode to (R520, R600). -/

namespace Sys2Proof.Machine

open Sys2Proof

/-! ## The fetch and what it decodes to -/

/-- An uncached fetch from plain memory delivers the word and changes nothing (R403). -/
theorem fetch_plain {s : State} {pa : Word} (ht : translate s.pc .fetch s = .ok (pa, false) s) (ha : s.pc.toNat % 4 = 0)
    (he : isSet s.cp0.status 2 = false ∨ 0x80000000 ≤ s.pc.toNat) (hp : PlainRam s pa.toNat) :
    fetch s = .ok (wordAt s pa.toNat) s := by
  have hlow := translate_low ht
  have hpa : wordAddr pa = pa.toNat := by rw [wordAddr_eq]; omega
  have herl : ¬(s.erl && !isSet s.pc 31) = true := by
    rw [isSet_31]
    rcases he with he | he
    · simp [State.erl, he]
    · simp [he]
  have hread : busRead pa s = .ok (wordAt s pa.toNat) s := by
    have hbus := busRead_plain (pa := pa) (hpa.symm ▸ hp)
    rwa [hpa] at hbus
  rw [fetch, ht, andThen_ok, if_neg (not_not.2 ((and_3_eq_zero_iff s.pc).2 ha)), if_neg herl]
  exact hread

/-- Four bytes decode to what their word decodes to. -/
theorem decode_of_decodeBytes {b0 b1 b2 b3 : Byte} {i : Instr} (h : decodeBytes [b0, b1, b2, b3] = .ok (i, [])) :
    decode (bytesWord b0 b1 b2 b3) = .ok i := by
  rw [decodeBytes] at h
  split at h
  · next j hj =>
    rw [hj]
    simpa using h
  · simp at h

/-! ## The flag of the exceptions -/

/-- A search of the TLB does not look at the flag that a step clears first. -/
theorem tlbLookup_excTaken {va : Word} {k : Access} {s : State} {x : Word × Bool} (h : tlbLookup va k s = .ok x s) (b : Bool) :
    tlbLookup va k { s with excTaken := b } = .ok x { s with excTaken := b } := by
  have hlegal : ({ s with excTaken := b } : State).tlbMasksLegal = s.tlbMasksLegal := rfl
  have hfind : ({ s with excTaken := b } : State).tlbFind (vpn2Of va) = s.tlbFind (vpn2Of va) := rfl
  unfold tlbLookup at h ⊢
  rw [hlegal, hfind]
  split_ifs at h ⊢
  cases hf : s.tlbFind (vpn2Of va) with
  | none => simp [hf] at h
  | some n =>
    simp only [hf] at h ⊢
    split_ifs at h ⊢
    cases h
    rfl

/-- Nor does translation. -/
theorem translate_excTaken {va : Word} {k : Access} {s : State} {x : Word × Bool} (h : translate va k s = .ok x s) (b : Bool) :
    translate va k { s with excTaken := b } = .ok x { s with excTaken := b } := by
  have huser : ({ s with excTaken := b } : State).userMode = s.userMode := rfl
  have herl : ({ s with excTaken := b } : State).erl = s.erl := rfl
  have hfixed : ({ s with excTaken := b } : State).fixedMapping = s.fixedMapping := rfl
  unfold translate at h ⊢
  rw [huser, herl, hfixed]
  split_ifs at h ⊢
  case neg => exact tlbLookup_excTaken h b
  all_goals
    cases h
    rfl

/-- Nor do the rules of the strict profile. -/
theorem hazardOf_excTaken (w : Word) (i : Instr) (s : State) (b : Bool) :
    hazardOf w i { s with excTaken := b } = hazardOf w i s := rfl

/-! ## The step -/

/-- Settles O57: the fetched word decodes to the instruction, and the hazard rules stand before its execution. -/
theorem stepRunsDecoded : Obligations.StepRunsDecoded := by
  intro s w i pa hs hfh ha ht he hp hw hd u
  have hfetch : fetch u = .ok w u := hw ▸ fetch_plain (translate_excTaken ht false) ha he hp
  have hdecode : decode w = .ok i := hw ▸ decode_of_decodeBytes hd
  have hstep : step s = afterCpu (execWord w u) := by
    rw [step_instruction hs, runInstr, show fetchHazard { s with excTaken := false } = none from hfh, hfetch]
  have hhaz : hazardOf w i u = hazardOf w i s := hazardOf_excTaken w i s false
  refine ⟨fun r hr => ?_, fun hr => ?_⟩
  · rw [hstep, execWord, hdecode]
    simp only [hhaz, hr]
    rfl
  · rw [hstep, execWord, hdecode]
    simp only [hhaz, hr]
    cases exec i u <;> rfl

/-! ## Samples of the encoding -/

/-- Settles O58: the decoder evaluated on each word. -/
theorem decodeSamples : Obligations.DecodeSamples :=
  ⟨rfl, rfl, rfl, rfl, rfl, rfl, rfl, rfl, rfl, rfl, rfl, rfl, rfl⟩

end Sys2Proof.Machine
end

section
/-! SUPPORT. Jumps, branches and ERET: where they go, what they link and what they leave alone, and where they are refused (R600 to
R630, R717, R962). -/

namespace Sys2Proof.Machine

open Sys2Proof

/-! ## What sequencing keeps (R600) -/

/-- Sequencing changes PC and the slot only, whatever the decision. -/
theorem State.sequence_eq (s : State) (d : Decision) :
    s.sequence d = { s with pc := (s.sequence d).pc, slot := (s.sequence d).slot } := by
  unfold State.sequence
  split
  case h_3 => cases d <;> rfl
  all_goals rfl

/-- A control transfer without a link. -/
theorem sequence_frame (s : State) (d : Decision) :
    SameGprs s (s.sequence d) ∧ SameMemory s (s.sequence d) ∧ OnlyPc s (s.sequence d) :=
  ⟨.of_eq (State.sequence_gpr s d), .of_eq (State.sequence_mem s d) (State.sequence_checkBits s d), State.sequence_eq s d⟩

/-- A control transfer that writes a link register. -/
theorem link_sequence (s : State) (rd : GprNum) (v : Word) (d : Decision) :
    GprHolds rd v s ((s.putGpr rd v).sequence d) ∧ SameMemory s ((s.putGpr rd v).sequence d) ∧
      OnlyGpr s ((s.putGpr rd v).sequence d) := by
  obtain ⟨hd, hzero, hother⟩ := gprHolds_putGpr s rd v
  refine ⟨?_, .of_eq (by simp) (by simp), ?_⟩
  · simp only [GprHolds, State.readGpr_sequence]
    exact ⟨hd, hzero, hother⟩
  · unfold OnlyGpr
    rw [State.sequence_gpr]
    exact (State.sequence_eq ..).trans (congrArg
      (fun u : State => { u with pc := ((s.putGpr rd v).sequence d).pc, slot := ((s.putGpr rd v).sequence d).slot })
      (State.putGpr_eq s rd v))

/-! ## Jumps (R602, R610 to R613) -/

/-- A jump outside a delay slot, from a state with the PC of s. -/
theorem jumpTo_next {s u : State} (hpc : u.pc = s.pc) (hslot : u.slot = .none) (a : Word) :
    jumpTo a u = .next (u.sequence (.taken a)) ∧ Jumps a s (u.sequence (.taken a)) := by
  refine ⟨finishControl_none hslot, ?_⟩
  rw [State.sequence_taken hslot]
  exact ⟨congrArg (· + 4) hpc, rfl⟩

/-- A jump without a link. -/
theorem completes_jump {i : Instr} {s : State} {a : Word} (hslot : s.slot = .none) (h : exec i s = jumpTo a s) :
    Completes i s fun t => Jumps a s t ∧ SameGprs s t ∧ SameMemory s t ∧ OnlyPc s t := by
  obtain ⟨hnext, hjumps⟩ := jumpTo_next (s := s) rfl hslot a
  exact ⟨_, h.trans hnext, hjumps, sequence_frame ..⟩

/-- A jump that links (R603). -/
theorem completes_jumpAndLink {i : Instr} {s : State} {rd : GprNum} {a : Word} (hslot : s.slot = .none)
    (h : exec i s = jumpTo a (s.putGpr rd s.linkValue)) :
    Completes i s fun t => Jumps a s t ∧ GprHolds rd (s.pc + 8) s t ∧ SameMemory s t ∧ OnlyGpr s t := by
  obtain ⟨hnext, hjumps⟩ := jumpTo_next (State.putGpr_pc s rd s.linkValue) ((State.putGpr_slot ..).trans hslot) a
  exact ⟨_, h.trans hnext, hjumps, link_sequence ..⟩

/-- JALR whose link register is not its source (R613). -/
theorem exec_jalr {s : State} {rs rd : GprNum} (hne : rd ≠ rs) (hint : BitVec 5) :
    exec (.jalr rs rd hint) s = jumpTo (s.readGpr rs) (s.putGpr rd s.linkValue) := if_neg hne

/-- Settles O10: each jump is one of the two forms, with or without a link. -/
theorem jumpTargets : Obligations.JumpTargets := fun _ _ _ _ hint hslot =>
  ⟨completes_jump hslot rfl, completes_jumpAndLink hslot rfl, completes_jump hslot rfl,
    fun hne => completes_jumpAndLink hslot (exec_jalr hne hint)⟩

/-! ## Conditional branches (R600, R601, R614 to R630) -/

/-- A conditional branch outside a delay slot, from a state with the PC of s: the target of R601 when the test holds, else the
delay slot or, for a likely branch, the instruction behind it. -/
theorem branchIf_next {s u : State} (hpc : u.pc = s.pc) (hslot : u.slot = .none) {c : Bool} {p : Prop} (hc : c = true ↔ p)
    (likely : Bool) (offset : BitVec 16) :
    ∃ d, branchIf c likely offset u = .next (u.sequence d) ∧
      (p → Jumps (s.pc + 4 + (offset ++ 0#2).signExtend 32) s (u.sequence d)) ∧
      (¬p → if likely then SkipsSlot s (u.sequence d) else FallsThrough s (u.sequence d)) := by
  refine ⟨_, finishControl_none hslot, fun hp => ?taken, fun hp => ?notTaken⟩
  case taken =>
    rw [if_pos (hc.2 hp), State.sequence_taken hslot, State.branchTarget, hpc]
    exact ⟨rfl, rfl⟩
  case notTaken =>
    rw [if_neg (mt hc.1 hp)]
    cases likely with
    | true =>
      rw [if_pos rfl, if_pos rfl, State.sequence_nullify hslot, hpc]
      exact ⟨rfl, rfl⟩
    | false =>
      rw [if_neg Bool.false_ne_true, if_neg Bool.false_ne_true, State.sequence_notTaken hslot, hpc]
      exact ⟨rfl, rfl⟩

/-- A conditional branch without a link. -/
theorem branchesIf_of_branchIf {i : Instr} {s : State} {c likely : Bool} {offset : BitVec 16} {p : Prop}
    (hslot : s.slot = .none) (hc : c = true ↔ p) (h : exec i s = branchIf c likely offset s) :
    BranchesIf i s p likely offset := by
  obtain ⟨d, hnext, htaken, hnot⟩ := branchIf_next (s := s) rfl hslot hc likely offset
  exact ⟨_, h.trans hnext, htaken, hnot, sequence_frame s d⟩

/-- A conditional branch that links writes its link whether or not it is taken (R603). -/
theorem branchesAndLinks_of_branchAndLink {i : Instr} {s : State} {rs : GprNum} {c likely : Bool} {offset : BitVec 16} {p : Prop}
    (hslot : s.slot = .none) (hrs : rs ≠ 31) (hc : c = true ↔ p) (h : exec i s = branchAndLink rs c likely offset s) :
    BranchesAndLinks i s p likely offset := by
  obtain ⟨d, hnext, htaken, hnot⟩ :=
    branchIf_next (State.putGpr_pc s 31 s.linkValue) ((State.putGpr_slot ..).trans hslot) hc likely offset
  exact ⟨_, h.trans ((if_neg hrs).trans hnext), htaken, hnot, link_sequence s 31 _ d⟩

/-! ### The tests of the branches -/

/-- BLEZ: at most 0. -/
theorem sle_zero_iff (x : Word) : x.sle 0 = true ↔ x.toInt ≤ 0 := by simp [BitVec.sle]

/-- BGTZ: above 0. -/
theorem zero_slt_iff (x : Word) : (0 : Word).slt x = true ↔ 0 < x.toInt := by simp [BitVec.slt]

/-- BLTZ: the sign bit of a word says that it is negative. -/
theorem isSet_sign_iff (x : Word) : isSet x 31 = true ↔ x.toInt < 0 := by
  rw [isSet_31, decide_eq_true_iff, BitVec.toInt_neg_iff]
  omega

/-- BGEZ: a clear sign bit says that it is not. -/
theorem not_isSet_sign_iff (x : Word) : (!isSet x 31) = true ↔ 0 ≤ x.toInt := by
  rw [Bool.not_eq_true', ← Bool.not_eq_true, isSet_sign_iff, not_lt]

/-- Settles O11: each branch runs the shared form with the test its name says. -/
theorem conditionalBranches : Obligations.ConditionalBranches := by
  intro s rs rt offset hslot a b
  exact ⟨branchesIf_of_branchIf hslot beq_iff_eq rfl, branchesIf_of_branchIf hslot bne_iff_ne rfl,
    branchesIf_of_branchIf hslot (sle_zero_iff a) rfl, branchesIf_of_branchIf hslot (zero_slt_iff a) rfl,
    branchesIf_of_branchIf hslot (isSet_sign_iff a) rfl, branchesIf_of_branchIf hslot (not_isSet_sign_iff a) rfl,
    branchesIf_of_branchIf hslot beq_iff_eq rfl, branchesIf_of_branchIf hslot bne_iff_ne rfl,
    branchesIf_of_branchIf hslot (sle_zero_iff a) rfl, branchesIf_of_branchIf hslot (zero_slt_iff a) rfl,
    branchesIf_of_branchIf hslot (isSet_sign_iff a) rfl, branchesIf_of_branchIf hslot (not_isSet_sign_iff a) rfl⟩

/-- Settles O12: the same tests, with the link written first. -/
theorem linkBranches : Obligations.LinkBranches := by
  intro s rs offset hslot hrs a
  exact ⟨branchesAndLinks_of_branchAndLink hslot hrs (isSet_sign_iff a) rfl,
    branchesAndLinks_of_branchAndLink hslot hrs (not_isSet_sign_iff a) rfl,
    branchesAndLinks_of_branchAndLink hslot hrs (isSet_sign_iff a) rfl,
    branchesAndLinks_of_branchAndLink hslot hrs (not_isSet_sign_iff a) rfl⟩

/-! ## Return from exceptions (R717, R962) -/

/-- ERET with CP0 usable: refused in a delay slot, else the return. -/
theorem exec_eret {s : State} (hp : Privileged s) :
    exec .eret s = if s.slot ≠ .none then .refused .controlInDelaySlot else .next (returnFromException s) := by
  show execEret s = _
  rw [execEret, (cp0Usable_iff s).2 hp]
  rfl

/-- ERET outside a delay slot. -/
theorem exec_eret_next {s : State} (hp : Privileged s) (hslot : s.slot = .none) :
    exec .eret s = .next (returnFromException s) := (exec_eret hp).trans (if_neg (not_not.2 hslot))

/-- The return from error level. -/
theorem returnFromException_erl {s : State} (hslot : s.slot = .none) (h : isSet s.cp0.status 2 = true) :
    returnFromException s = { s with
      pc := s.cp0.errorEpc, cp0 := { s.cp0 with status := putBit s.cp0.status 2 false }, llbit := false } := by
  rw [returnFromException, State.erl, if_pos h, ← hslot]

/-- The return from exception level. -/
theorem returnFromException_exl {s : State} (hslot : s.slot = .none) (h : isSet s.cp0.status 2 = false) :
    returnFromException s = { s with
      pc := s.cp0.epc, cp0 := { s.cp0 with status := putBit s.cp0.status 1 false }, llbit := false } := by
  rw [returnFromException, State.erl, if_neg (Bool.eq_false_iff.1 h), ← hslot]

/-- A bit of a word with one bit replaced. -/
theorem isSet_putBit {w : Nat} (x : BitVec w) (i : Nat) (b : Bool) {k : Nat} (hk : k < w) :
    isSet (putBit x i b) k = if k = i then b else isSet x k := by
  have hbit : (BitVec.twoPow w i).getLsbD k = decide (k = i) := by simp [hk, eq_comm]
  unfold isSet putBit
  cases b with
  | true =>
    rw [if_pos rfl, BitVec.getLsbD_or, hbit]
    by_cases h : k = i <;> simp [h]
  | false =>
    rw [if_neg Bool.false_ne_true, BitVec.getLsbD_and, BitVec.getLsbD_not, hbit]
    by_cases h : k = i <;> simp [hk, h]

/-- A bit that was clear is set and cleared again. -/
theorem putBit_clear_set {w : Nat} {x : BitVec w} {i : Nat} (h : isSet x i = false) : putBit (putBit x i true) i false = x := by
  apply BitVec.eq_of_getLsbD_eq
  intro k hk
  change isSet _ k = isSet x k
  rw [isSet_putBit _ _ _ hk, isSet_putBit _ _ _ hk]
  split
  · next hki => rw [hki, h]
  · rfl

/-- With EXL = 0 the entry saves the address the instruction restarts at (R605, R960). -/
theorem takeException_epc_restart (e : Exc) {s : State} (h : isSet s.cp0.status 1 = false) :
    (takeException e s).cp0.epc = s.restartPc := by
  obtain ⟨hepc, -, -⟩ := takeException_epc e s
  rw [hepc, State.noteReturn, State.exl, if_neg (Bool.eq_false_iff.1 h)]

/-- A return from exception level undoes an entry made at normal level. -/
theorem eret_after_entry (e : Exc) {s u : State} (hexl : isSet s.cp0.status 1 = false) (herl : isSet s.cp0.status 2 = false)
    (hepc : u.cp0.epc = (takeException e s).cp0.epc) (hstatus : u.cp0.status = (takeException e s).cp0.status)
    (hslot : u.slot = .none) :
    exec .eret u = .next { u with
      pc := s.restartPc, cp0 := { u.cp0 with status := s.cp0.status }, llbit := false } := by
  obtain ⟨-, -, hentry⟩ := takeException_epc e s
  have hset : u.cp0.status = putBit s.cp0.status 1 true := hstatus.trans hentry
  have hexlU : isSet u.cp0.status 1 = true := by rw [hset, isSet_putBit _ _ _ (by decide), if_pos rfl]
  have herlU : isSet u.cp0.status 2 = false := by rw [hset, isSet_putBit _ _ _ (by decide), if_neg (by decide), herl]
  have hback : putBit u.cp0.status 1 false = s.cp0.status := by rw [hset, putBit_clear_set hexl]
  rw [exec_eret_next (.inr (.inl hexlU)) hslot, returnFromException_exl hslot herlU, hback, hepc, takeException_epc_restart e hexl]

/-- Settles O31: the two returns, and the return behind an entry. -/
theorem exceptionReturn : Obligations.ExceptionReturn := by
  refine ⟨fun s hp hslot => ⟨fun herl => ?_, fun herl => ?_⟩, fun e s u hexl herl hepc hstatus hslot => ?_⟩
  · rw [exec_eret_next hp hslot, returnFromException_erl hslot herl]
    rfl
  · rw [exec_eret_next hp hslot, returnFromException_exl hslot herl]
    rfl
  · exact ⟨_, eret_after_entry e hexl herl hepc hstatus hslot, rfl, rfl, hslot, rfl, rfl⟩

/-! ## Transfers that are refused (R604, U58) -/

/-- The and-link branches differ in their test and in whether they are likely (R620, R621, R629, R630). -/
theorem exec_linkBranch {i : Instr} {rs : GprNum} {offset : BitVec 16} (s : State)
    (hi : i ∈ [.bltzal rs offset, .bgezal rs offset, .bltzall rs offset, .bgezall rs offset]) :
    ∃ c likely, exec i s = branchAndLink rs c likely offset s := by
  fin_cases hi <;> exact ⟨_, _, rfl⟩

/-- A branch that links, with a source that is not the link register, in a delay slot. -/
theorem branchAndLink_slot {s : State} {rs : GprNum} (hrs : rs ≠ 31) (hslot : s.slot ≠ .none) (c likely : Bool)
    (offset : BitVec 16) : branchAndLink rs c likely offset s = .refused .controlInDelaySlot :=
  (if_neg hrs).trans (finishControl_slot ((State.putGpr_slot ..).symm ▸ hslot))

/-- JALR with a source that is not the link register, in a delay slot. -/
theorem exec_jalr_slot {s : State} {rs rd : GprNum} (hne : rd ≠ rs) (hslot : s.slot ≠ .none) (hint : BitVec 5) :
    exec (.jalr rs rd hint) s = .refused .controlInDelaySlot :=
  (exec_jalr hne hint).trans (finishControl_slot ((State.putGpr_slot ..).symm ▸ hslot))

/-- A branch that links whose source is the link register, anywhere. -/
theorem branchAndLink_self (c likely : Bool) (offset : BitVec 16) (s : State) :
    branchAndLink 31 c likely offset s = .refused .linkIsSource := if_pos rfl

/-- JALR whose source is the link register, anywhere. -/
theorem exec_jalr_self (rs : GprNum) (hint : BitVec 5) (s : State) :
    exec (.jalr rs rs hint) s = .refused .linkIsSource := if_pos rfl

/-- A branch on a condition code of an FPU that is on, in a delay slot. -/
theorem branchFcc_slot {s : State} (hon : FpuOn s) (hslot : s.slot ≠ .none) (cc : BitVec 3) (want likely : Bool)
    (offset : BitVec 16) : branchFcc cc want likely offset s = .refused .controlInDelaySlot :=
  (if_pos ((fpuUsable_iff s).2 hon)).trans (finishControl_slot hslot)

/-- WAIT with CP0 usable, in a delay slot. -/
theorem exec_wait_slot {s : State} (hp : Privileged s) (hslot : s.slot ≠ .none) (code : BitVec 19) :
    exec (.wait code) s = .refused .controlInDelaySlot :=
  (congrArg finishControl (if_pos ((cp0Usable_iff s).2 hp))).trans (finishControl_slot hslot)

/-- Settles O14: in a delay slot every transfer that gets as far as its decision is refused there, and a link register that is the
source is refused before it. -/
theorem restrictedTransfers : Obligations.RestrictedTransfers := by
  intro s index rs rt rd hint offset cc code
  refine ⟨fun hslot i hi => ?inSlot, fun i hi => ?linkIsSource⟩
  case inSlot =>
    rcases hi with hplain | ⟨hne, rfl⟩ | ⟨hrs, hlink⟩ | ⟨hon, hfcc⟩ | ⟨hp, hcp0⟩
    · fin_cases hplain <;> exact finishControl_slot hslot
    · exact exec_jalr_slot hne hslot hint
    · obtain ⟨c, likely, hexec⟩ := exec_linkBranch s hlink
      exact hexec.trans (branchAndLink_slot hrs hslot c likely offset)
    · fin_cases hfcc <;> exact branchFcc_slot hon hslot cc _ _ offset
    · fin_cases hcp0
      · exact (exec_eret hp).trans (if_pos hslot)
      · exact exec_wait_slot hp hslot code
  case linkIsSource =>
    rcases List.mem_cons.1 hi with rfl | hlink
    · exact exec_jalr_self rs hint s
    · obtain ⟨c, likely, hexec⟩ := exec_linkBranch s hlink
      exact hexec.trans (branchAndLink_self c likely offset s)

end Sys2Proof.Machine
end

section
/-! SUPPORT. Loads and stores that reach plain memory: what they leave in the register or in the bytes (R655 to R669), and the hints,
which do nothing (R670, R671). -/

namespace Sys2Proof.Machine

open Sys2Proof

/-- Settles O23: both move PC on and do nothing else. -/
theorem hintsAndBarriers : Obligations.HintsAndBarriers := fun _ _ _ _ _ =>
  ⟨doesNothing_of_advance rfl, doesNothing_of_advance rfl⟩

/-! ## The instructions by their shared forms (R655 to R666) -/

section
variable (s : State) (base rt : GprNum) (offset : BitVec 16)

theorem exec_lb : exec (.lb base rt offset) s =
    loadTo rt (s.effAddr base offset) 1 (fun w _ => sext (byteAt w (s.effAddr base offset))) s := rfl
theorem exec_lbu : exec (.lbu base rt offset) s =
    loadTo rt (s.effAddr base offset) 1 (fun w _ => zext (byteAt w (s.effAddr base offset))) s := rfl
theorem exec_lh : exec (.lh base rt offset) s =
    loadTo rt (s.effAddr base offset) 2 (fun w _ => sext (halfAt w (s.effAddr base offset))) s := rfl
theorem exec_lhu : exec (.lhu base rt offset) s =
    loadTo rt (s.effAddr base offset) 2 (fun w _ => zext (halfAt w (s.effAddr base offset))) s := rfl
theorem exec_lw : exec (.lw base rt offset) s = loadTo rt (s.effAddr base offset) 4 (fun w _ => w) s := rfl
theorem exec_lwl : exec (.lwl base rt offset) s =
    loadTo rt (s.effAddr base offset) 1 (mergeLeft (s.effAddr base offset)) s := rfl
theorem exec_lwr : exec (.lwr base rt offset) s =
    loadTo rt (s.effAddr base offset) 1 (mergeRight (s.effAddr base offset)) s := rfl

theorem exec_sb : exec (.sb base rt offset) s =
    finish (memWrite (s.effAddr base offset) 1 (.byte (s.effAddr base offset) (s.readGpr rt)) s) := rfl
theorem exec_sh : exec (.sh base rt offset) s =
    finish (memWrite (s.effAddr base offset) 2 (.half (s.effAddr base offset) (s.readGpr rt)) s) := rfl
theorem exec_sw : exec (.sw base rt offset) s =
    finish (memWrite (s.effAddr base offset) 4 (.word (s.readGpr rt)) s) := rfl
theorem exec_swl : exec (.swl base rt offset) s =
    finish (memWrite (s.effAddr base offset) 1 (.left (s.effAddr base offset) (s.readGpr rt)) s) := rfl
theorem exec_swr : exec (.swr base rt offset) s =
    finish (memWrite (s.effAddr base offset) 1 (.right (s.effAddr base offset) (s.readGpr rt)) s) := rfl

end

/-! ## Loads (R655 to R659) -/

/-- A load from plain memory computes its value from the word there and the old register. -/
theorem computes_load {i : Instr} {s : State} {rt : GprNum} {va pa : Word} {size : Nat} {f : Word → Word → Word} {v : Word}
    (h : Reaches s va .load size pa) (hi : exec i s = loadTo rt va size f s)
    (hv : f (Memory.readWord s.mem (wordAddr pa)) (s.readGpr rt) = v) : Computes i s rt v :=
  computes_of_ok (by rw [hi, loadTo_plain f h, hv])

/-- Settles O15, by the size of the access. -/
theorem loadValues : Obligations.LoadValues := by
  intro s base rt offset pa va m
  refine ⟨fun h => ?byte, fun h => ?half, fun h => ?word⟩
  case byte =>
    have hbyte : byteAt (Memory.readWord s.mem (wordAddr pa)) va = m 0 := byteAt_plain h
    exact ⟨computes_load h (exec_lb ..) (congrArg sext hbyte), computes_load h (exec_lbu ..) (congrArg zext hbyte)⟩
  case half =>
    have hhalf : halfAt (Memory.readWord s.mem (wordAddr pa)) va = m 1 ++ m 0 := halfAt_plain h
    exact ⟨computes_load h (exec_lh ..) (congrArg sext hhalf), computes_load h (exec_lhu ..) (congrArg zext hhalf)⟩
  case word => exact computes_load h (exec_lw ..) (congrArg (Memory.readWord s.mem) h.wordAddr)

/-! ## Merging loads (R660, R661) -/

/-- A byte of merged words is merged from their bytes. -/
theorem byteOf_mergeBits (mask new old : Word) (j : Nat) :
    byteOf (mergeBits mask new old) j = mergeBits (byteOf mask j) (byteOf new j) (byteOf old j) := by
  ext k hk
  by_cases h : 8 * j + k < 32
  · simp [byteOf, mergeBits, h]
  · simp [byteOf, mergeBits, BitVec.getLsbD_of_ge _ _ (Nat.le_of_not_lt h)]

theorem mergeBits_ones (new old : Byte) : mergeBits 0xFF new old = new := by
  rw [mergeBits, show (0xFF : Byte) = BitVec.allOnes 8 from rfl, BitVec.and_allOnes, BitVec.not_allOnes, BitVec.and_zero,
    BitVec.or_zero]

theorem mergeBits_zero (new old : Byte) : mergeBits 0#8 new old = old := by
  rw [mergeBits, BitVec.and_zero, BitVec.zero_or, BitVec.not_zero, BitVec.and_allOnes]

/-- The bytes of the mask of LWL. -/
theorem byteOf_maskLeft : ∀ n, n < 4 → ∀ j, j < 4 →
    byteOf (0xFFFFFFFF <<< (8 * n)) j = if n ≤ j then 0xFF else 0 := by decide

/-- The bytes of the mask of LWR. -/
theorem byteOf_maskRight : ∀ n, n < 4 → ∀ j, j < 4 →
    byteOf (0xFFFFFFFF >>> (8 * n)) j = if j ≤ 3 - n then 0xFF else 0 := by decide

/-- LWL fills the register from its top byte down with the bytes up to the address (R660). -/
theorem byteOf_mergeLeft (va w old : Word) {j : Nat} (hj : j < 4) :
    byteOf (mergeLeft va w old) j =
      if 3 - va.toNat % 4 ≤ j then byteOf w (j - (3 - va.toNat % 4)) else byteOf old j := by
  rw [mergeLeft, byteOf_mergeBits, byteOf_maskLeft _ (by omega) j hj]
  split
  · next h => rw [mergeBits_ones, byteOf_shiftLeft w _ j h hj, byteOf]
  · exact mergeBits_zero ..

/-- LWR fills the register from its bottom byte up with the bytes from the address on (R661). -/
theorem byteOf_mergeRight (va w old : Word) {j : Nat} (hj : j < 4) :
    byteOf (mergeRight va w old) j = if j ≤ 3 - va.toNat % 4 then byteOf w (va.toNat % 4 + j) else byteOf old j := by
  rw [mergeRight, byteOf_mergeBits, byteOf_maskRight _ (by omega) j hj]
  split
  · rw [mergeBits_ones, byteOf_shiftRight, byteOf, Nat.add_comm j]
  · exact mergeBits_zero ..

/-- Settles O16: the bytes of the merged word, taken from memory where the merge takes them from the word there. -/
theorem unalignedLoads : Obligations.UnalignedLoads := by
  intro s base rt offset pa va b m old h
  refine ⟨⟨_, fun j hj => ?left, computes_load h (exec_lwl ..) rfl⟩, ⟨_, fun j hj => ?right, computes_load h (exec_lwr ..) rfl⟩⟩
  case left => exact (byteOf_mergeLeft va _ _ hj).trans (if_congr Iff.rfl (byteOf_readWord _ _ _ (by omega)) rfl)
  case right =>
    refine (byteOf_mergeRight va _ _ hj).trans ?_
    split
    · exact byteOf_readWord _ _ _ (by omega)
    · rfl

/-! ## Stores (R662 to R666) -/

section
variable {s : State} {va pa : Word} {size : Nat}

/-- An address has the same place in its word as the virtual address. -/
theorem Reaches.byteOffset {k : Access} (h : Reaches s va k size pa) :
    Sys2Proof.Machine.wordAddr pa + va.toNat % 4 = pa.toNat := by
  have hlow := h.low
  rw [wordAddr_eq]
  omega

/-- Data shifted up to the address, in n lanes from there: the n low bytes of v. -/
theorem read_storedUp {q : StoreReq} {v : Word} {n : Nat} (hm : MemoryLegal s) (hr : Reaches s va .store size pa)
    (hn : va.toNat % 4 + n ≤ 4) (hlanes : ∀ j, j < 4 → isSet q.lanes j = decide (va.toNat % 4 ≤ j ∧ j < va.toNat % 4 + n))
    (hdata : q.data = v <<< (8 * (va.toNat % 4))) (x : Nat) :
    Memory.read (Memory.writeLanes s.mem (wordAddr pa) q.lanes q.data) x =
      if pa.toNat ≤ x ∧ x < pa.toNat + n then v.extractLsb' (8 * (0 + (x - pa.toNat))) 8 else Memory.read s.mem x := by
  have hpa := hr.byteOffset
  refine Memory.read_lanes s.mem hm.1 _ _ _ v _ _ 0 (fun j hj => ?_) (by omega) x
  rw [hlanes j hj, decide_eq_true_iff]
  refine ⟨by omega, fun hset => ?_⟩
  rw [hdata, byteOf_shiftLeft v _ j hset.1 hj, show 0 + (wordAddr pa + j - pa.toNat) = j - va.toNat % 4 by omega]

/-- Data shifted down to the start of the word, in the lanes up to the address: the high bytes of v. -/
theorem read_storedDown {q : StoreReq} {v : Word} (hm : MemoryLegal s) (hr : Reaches s va .store size pa)
    (hlanes : ∀ j, j < 4 → isSet q.lanes j = decide (j ≤ va.toNat % 4)) (hdata : q.data = v >>> (8 * (3 - va.toNat % 4)))
    (x : Nat) :
    Memory.read (Memory.writeLanes s.mem (wordAddr pa) q.lanes q.data) x =
      if wordAddr pa ≤ x ∧ x < pa.toNat + 1 then v.extractLsb' (8 * (3 - va.toNat % 4 + (x - wordAddr pa))) 8
      else Memory.read s.mem x := by
  have hpa := hr.byteOffset
  refine Memory.read_lanes s.mem hm.1 _ _ _ v _ _ _ (fun j hj => ?_) (by omega) x
  rw [hlanes j hj, decide_eq_true_iff]
  refine ⟨by omega, fun _ => ?_⟩
  rw [hdata, byteOf_shiftRight, Nat.add_sub_cancel_left, Nat.add_comm j]

/-- A whole word. -/
theorem read_storedWord (hm : MemoryLegal s) (hr : Reaches s va .store 4 pa) (v : Word) (x : Nat) :
    Memory.read (Memory.writeLanes s.mem (wordAddr pa) 0xF v) x =
      if pa.toNat ≤ x ∧ x < pa.toNat + 4 then v.extractLsb' (8 * (0 + (x - pa.toNat))) 8 else Memory.read s.mem x := by
  have hzero : va.toNat % 4 = 0 := hr.1
  refine read_storedUp (q := .word v) hm hr (by omega) ?_ ?_ x
  · rw [hzero]
    exact (by decide : ∀ j, j < 4 → isSet (0xF#4) j = decide (0 ≤ j ∧ j < 0 + 4))
  · rw [hzero]; exact (BitVec.shiftLeft_zero v).symm

end

/-- Settles O17: the lanes of SB and SH, and the whole word of SW. -/
theorem storeValues : Obligations.StoreValues := by
  intro s base rt offset pa hm va
  refine ⟨fun h => storesBytes_of_write h (exec_sb ..) (read_storedUp hm h (by omega) (fun j hj => ?byte) rfl),
    fun h => ?half, fun h => storesBytes_of_write h (exec_sw ..) (read_storedWord hm h _)⟩
  case byte => exact (lane_byte (va.toNat % 4) j (by omega) hj).trans (decide_eq_decide.2 (by omega))
  case half =>
    have heven : va.toNat % 2 = 0 := h.1
    exact storesBytes_of_write h (exec_sh ..)
      (read_storedUp hm h (by omega) (fun j hj => lane_half (va.toNat % 4) j (by omega) hj) rfl)

/-- Settles O18: the lanes of SWL and SWR. -/
theorem unalignedStores : Obligations.UnalignedStores := by
  intro s base rt offset pa hm va h
  have hpa := h.byteOffset
  refine ⟨storesBytes_of_write h (exec_swl ..) (read_storedDown hm h (fun j hj => lane_left _ j (by omega) hj) rfl), ?right⟩
  case right =>
    rw [show wordAddr pa + 4 = pa.toNat + (4 - va.toNat % 4) by omega]
    exact storesBytes_of_write h (exec_swr ..) (read_storedUp hm h (by omega)
      (fun j hj => (lane_right (va.toNat % 4) j (by omega) hj).trans (decide_eq_decide.2 (by omega))) rfl)

/-! ## LL and SC (R668, R669) -/

section
variable {s : State} {va pa : Word}

/-- LL from plain memory. -/
theorem loadLinked_plain (rt : GprNum) (h : Reaches s va .load 4 pa) :
    loadLinked rt va s = .done ({ s with cp0 := { s.cp0 with llAddr := pa.extractLsb' 4 28 }, llbit := true }.putGpr rt
      (wordAt s pa.toNat)) := by
  have hword := h.wordAddr
  obtain ⟨ha, ⟨c, ht⟩, hp⟩ := h
  rw [loadLinked, if_neg (not_not.2 ha), ht, andThen_ok, busRead_plain hp, andThen_ok, hword]
  rfl

/-- SC with LLbit set, to plain memory. -/
theorem storeConditional_plain (rt : GprNum) (hl : s.llbit = true) (h : Reaches s va .store 4 pa) :
    storeConditional rt va s = .done ({ s with
      mem := Memory.writeLanes s.mem (wordAddr pa) 0xF (s.readGpr rt), llbit := false }.putGpr rt 1) := by
  obtain ⟨ha, ⟨c, ht⟩, hp⟩ := h
  have hbus : busWrite pa (.word (s.readGpr rt)) s =
      .done { s with mem := Memory.writeLanes s.mem (wordAddr pa) 0xF (s.readGpr rt) } := busWrite_plain hp _
  rw [storeConditional, if_neg (not_not.2 ha), ht, andThen_ok, if_pos hl, hbus, andThen_ok]

/-- SC with LLbit clear, to any address that is translated. -/
theorem storeConditional_clear (rt : GprNum) (hl : s.llbit = false) (ha : va.toNat % 4 = 0)
    (ht : ∃ c, translate va .store s = .ok (pa, c) s) : storeConditional rt va s = .done (s.putGpr rt 0) := by
  obtain ⟨c, ht⟩ := ht
  rw [storeConditional, if_neg (not_not.2 ha), ht, andThen_ok, hl]
  rfl

end

/-- Settles O22: a load linked, and a store conditional with LLbit set and with it clear. -/
theorem linkedAccess : Obligations.LinkedAccess := by
  intro s base rt offset pa va
  refine ⟨fun h => ?ll, fun hl hm h => ?set, fun hl ha ht => ?clear⟩
  case ll => exact ⟨_, congrArg finish (loadLinked_plain rt h), gpr_advance _ rt _⟩
  case set =>
    refine ⟨_, congrArg finish (storeConditional_plain rt hl h), ?_⟩
    obtain ⟨hgpr, hpc, ⟨hmem, hcheck⟩, honly⟩ := gpr_advance
      { s with mem := Memory.writeLanes s.mem (wordAddr pa) 0xF (s.readGpr rt), llbit := false } rt 1
    refine ⟨hgpr, hpc, ⟨fun x => (hmem x).trans (read_storedWord hm h _ x), hcheck⟩, ?_⟩
    rw [State.advance_mem, State.putGpr_mem]
    exact honly
  case clear => exact computes_of_ok (congrArg finish (storeConditional_clear rt hl ha ht))

end Sys2Proof.Machine
end

section
/-! SUPPORT. What loads and stores leave alone, whatever they reach: plain memory, a device, the DSP or nothing (R650, R651, R888). -/

namespace Sys2Proof.Machine

open Sys2Proof

/-! ## What an access can do -/

section
variable {s u : State} {va : Word} {size : Nat} {e : Exc}

/-- A load of a word that succeeds changes neither registers nor memory. -/
theorem memRead_ok {w : Word} (h : memRead va size s = .ok w u) : SameCore s u := by
  rw [memRead] at h
  split at h
  · cases h
  · obtain ⟨x, s', ht, hbus⟩ := andThen_eq_ok h
    obtain rfl := translate_ok_state ht
    exact (busRead_core x.1 s').1 w u hbus

/-- An exception of a load is taken in the state it started from. -/
theorem memRead_exc (h : memRead va size s = .exc e u) : u = s := by
  rw [memRead] at h
  split at h
  · cases h; rfl
  · rcases andThen_eq_exc h with ht | ⟨x, s', -, hbus⟩
    · exact translate_exc_state ht
    · exact absurd hbus ((busRead_core x.1 s').2 e u)

/-- A store that succeeds is one of the bus at the translated address. -/
theorem memWrite_ok {q : StoreReq} (h : memWrite va size q s = .ok () u) :
    ∃ pa c, translate va .store s = .ok (pa, c) s ∧ busWrite pa q s = .ok () u := by
  rw [memWrite] at h
  split at h
  · cases h
  · obtain ⟨⟨pa, c⟩, s', ht, hbus⟩ := andThen_eq_ok h
    obtain rfl := translate_ok_state ht
    exact ⟨pa, c, ht, hbus⟩

/-- An exception of a store is taken in the state it started from. -/
theorem memWrite_exc {q : StoreReq} (h : memWrite va size q s = .exc e u) : u = s := by
  rw [memWrite] at h
  split at h
  · cases h; rfl
  · rcases andThen_eq_exc h with ht | ⟨x, s', -, hbus⟩
    · exact translate_exc_state ht
    · exact absurd hbus ((busWrite_kept x.1 q s').2 e u)

end

/-! ## Control registers -/

section
variable {s u : State}

theorem SameCpu.control (h : SameCpu s u) : SameControl s u := ⟨h.hi, h.lo, h.cp0, h.fcsr, h.tlb, h.llbit, h.params⟩

theorem SameControl.advance (h : SameControl s u) : SameControl s u.advance := by simpa [SameControl] using h

theorem SameControl.putGpr (h : SameControl s u) (d : BitVec 5) (v : Word) : SameControl s (u.putGpr d v) := by
  simpa [SameControl] using h

end

/-! ## Loads -/

/-- A load that answers a next state took an exception in the state it started from, or wrote its register after a read. -/
theorem loadTo_next {s t : State} {rt : GprNum} {va : Word} {size : Nat} {f : Word → Word → Word}
    (h : loadTo rt va size f s = .next t) :
    (∃ e, t = takeException e s) ∨ ∃ u v, SameCore s u ∧ t = (u.putGpr rt v).advance := by
  rcases finish_next h with ⟨u', hok, rfl⟩ | ⟨e, u, hexc, rfl⟩
  · obtain ⟨w, u, hread, hput⟩ := andThen_eq_ok hok
    cases hput
    exact .inr ⟨u, _, memRead_ok hread, rfl⟩
  · rcases andThen_eq_exc hexc with hread | ⟨w, u', -, hput⟩
    · exact .inl ⟨e, by rw [memRead_exc hread]⟩
    · cases hput

/-- The loads of an integer register have one form. -/
theorem exec_load {i : Instr} {base rt : GprNum} {offset : BitVec 16} (s : State)
    (hi : i ∈ [.lb base rt offset, .lbu base rt offset, .lh base rt offset, .lhu base rt offset, .lw base rt offset,
      .lwl base rt offset, .lwr base rt offset]) :
    ∃ size f, exec i s = loadTo rt (s.effAddr base offset) size f s := by
  fin_cases hi
  exacts [⟨_, _, exec_lb ..⟩, ⟨_, _, exec_lbu ..⟩, ⟨_, _, exec_lh ..⟩, ⟨_, _, exec_lhu ..⟩, ⟨_, _, exec_lw ..⟩,
    ⟨_, _, exec_lwl ..⟩, ⟨_, _, exec_lwr ..⟩]

/-- Settles O19: the read leaves registers and memory alone, and one register is written after it. -/
theorem loadFrame : Obligations.LoadFrame := by
  intro s t base rt offset i hi ht
  obtain ⟨size, f, hexec⟩ := exec_load s hi
  rcases loadTo_next (hexec.symm.trans ht) with hexc | ⟨u, v, hcore, rfl⟩
  · exact .inl hexc
  · obtain ⟨⟨-, hzero, hother⟩, -, -, -⟩ := gpr_advance u rt v
    refine .inr ⟨(hcore.cpu.control.putGpr rt v).advance, .of_eq ?mem ?check, ?fgr, .of_same ?pc ?slot, hzero, fun n hn => ?gpr⟩
    case mem => rw [State.advance_mem, State.putGpr_mem, hcore.mem]
    case check => rw [State.advance_checkBits, State.putGpr_checkBits, hcore.checkBits]
    case fgr => rw [State.advance_fgr, State.putGpr_fgr, hcore.cpu.fgr]
    case pc => rw [State.putGpr_pc, hcore.cpu.pc]
    case slot => rw [State.putGpr_slot, hcore.cpu.slot]
    case gpr => exact (hother n hn).trans (SameGprs.of_eq hcore.cpu.gpr n)

/-! ## Stores -/

/-- A store that answers a next state took an exception in the state it started from, or stored at the translated address. -/
theorem finish_memWrite_next {s t : State} {va : Word} {size : Nat} {q : StoreReq}
    (h : finish (memWrite va size q s) = .next t) :
    (∃ e, t = takeException e s) ∨
      ∃ pa c u, translate va .store s = .ok (pa, c) s ∧ busWrite pa q s = .ok () u ∧ t = u.advance := by
  rcases finish_next h with ⟨u, hok, rfl⟩ | ⟨e, u, hexc, rfl⟩
  · obtain ⟨pa, c, htr, hbus⟩ := memWrite_ok hok
    exact .inr ⟨pa, c, u, htr, hbus, rfl⟩
  · exact .inl ⟨e, by rw [memWrite_exc hexc]⟩

/-- The stores of an integer register have one form. -/
theorem exec_store {i : Instr} {base rt : GprNum} {offset : BitVec 16} (s : State)
    (hi : i ∈ [.sb base rt offset, .sh base rt offset, .sw base rt offset, .swl base rt offset, .swr base rt offset]) :
    ∃ size q, exec i s = finish (memWrite (s.effAddr base offset) size q s) := by
  fin_cases hi
  exacts [⟨_, _, exec_sb ..⟩, ⟨_, _, exec_sh ..⟩, ⟨_, _, exec_sw ..⟩, ⟨_, _, exec_swl ..⟩, ⟨_, _, exec_swr ..⟩]

/-- The partner of a word is a word. -/
theorem xor_four_mod_four (a : Nat) : (a ^^^ 4) % 4 = a % 4 := by
  have h := Nat.xor_mod_two_pow (a := a) (b := 4) (n := 2)
  simpa using h

/-- The bytes a store may change lie in the word of its address, or in the partner word of a broadcast. -/
theorem storedBytes_div {s : State} {pa : Word} {x : Nat} (h : storedBytes s (wordAddr pa) x) :
    x / 4 = pa.toNat / 4 ∨
      (inDspData (wordAddr pa) = true ∧ isSet s.dsp.sr 12 = true ∧ x / 4 = (wordAddr pa ^^^ 4) / 4) := by
  rcases h with ⟨hlo, hhi⟩ | ⟨hdsp, hbc, hlo, hhi⟩
  · have hword := wordAddr_eq pa
    exact .inl (by omega)
  · have hmod := (xor_four_mod_four (wordAddr pa)).trans (wordAddr_mod pa)
    exact .inr ⟨hdsp, hbc, by omega⟩

/-- Settles O20: the bus leaves the registers alone, and memory outside the words of the store. -/
theorem storeFrame : Obligations.StoreFrame := by
  intro s t base rt offset i hm hi ht
  obtain ⟨size, q, hexec⟩ := exec_store s hi
  rcases finish_memWrite_next (hexec.symm.trans ht) with hexc | ⟨pa', c', u, htr', hbus, rfl⟩
  · exact .inl hexc
  · have hcpu := ((busWrite_kept pa' q s).1 () u hbus).cpu
    refine .inr ⟨hcpu.control.advance, .of_eq ?gpr, ?fgr, .of_same hcpu.pc hcpu.slot, fun pa c htr a hword hpartner => ?mem⟩
    case gpr => rw [State.advance_gpr, hcpu.gpr]
    case fgr => rw [State.advance_fgr, hcpu.fgr]
    case mem =>
      obtain ⟨rfl, rfl⟩ : pa' = pa ∧ c' = c := by simpa using htr'.symm.trans htr
      obtain ⟨-, houtside⟩ := (busWrite_outside pa' q s).1 () u hbus hm
      rw [State.advance_mem]
      refine houtside a fun hstored => ?_
      rcases storedBytes_div hstored with h | ⟨hdsp, hbc, h⟩
      · exact hword h
      · exact hpartner hdsp hbc h

end Sys2Proof.Machine
end

section
/-! SUPPORT. System instructions without the TLB and the cache: calls and traps (R701 to R715), MTC0 (R718), CP0 that may not be used
(R700), and WAIT (R731). -/

namespace Sys2Proof.Machine

open Sys2Proof

/-! ## SYSCALL, BREAK, traps (R701 to R715) -/

/-- A trap instruction whose test says what p says. -/
theorem trapsIf_of_trapIf {i : Instr} {s : State} {c : Bool} {p : Prop} (hc : c = true ↔ p) (h : exec i s = trapIf c s) :
    TrapsIf i s p := by
  rw [trapIf] at h
  refine ⟨fun hp => ?traps, fun hp => doesNothing_of_advance ?passes⟩
  case traps => rw [Raises, h, if_pos (hc.2 hp), finish_exc]
  case passes => rw [h, if_neg (mt hc.1 hp), finish_ok]

/-- A word is a sign-extended immediate when the two are the same integer. -/
theorem eq_sext_iff (a : Word) (imm : BitVec 16) : a = sext imm ↔ a.toInt = imm.toInt := by
  rw [← BitVec.toInt_inj, toInt_sext]

/-- Settles O27: each trap runs the shared form with the test its name says. -/
theorem callsAndTraps : Obligations.CallsAndTraps := by
  intro s rs rt imm code code20 a b
  have himm : (sext imm).toInt = imm.toInt := toInt_sext imm
  exact ⟨finish_exc .sys s, finish_exc .bp s,
    trapsIf_of_trapIf beq_iff_eq rfl, trapsIf_of_trapIf bne_iff_ne rfl,
    trapsIf_of_trapIf BitVec.sle_iff_toInt_le rfl, trapsIf_of_trapIf BitVec.ule_iff_toNat_le rfl,
    trapsIf_of_trapIf BitVec.slt_iff_toInt_lt rfl, trapsIf_of_trapIf BitVec.ult_iff_toNat_lt rfl,
    trapsIf_of_trapIf (beq_iff_eq.trans (eq_sext_iff a imm)) rfl,
    trapsIf_of_trapIf (bne_iff_ne.trans (eq_sext_iff a imm).not) rfl,
    trapsIf_of_trapIf (himm ▸ BitVec.sle_iff_toInt_le) rfl, trapsIf_of_trapIf BitVec.ule_iff_toNat_le rfl,
    trapsIf_of_trapIf (himm ▸ BitVec.slt_iff_toInt_lt) rfl, trapsIf_of_trapIf BitVec.ult_iff_toNat_lt rfl⟩

/-! ## The check of CP0 (R700) -/

theorem needCp0_privileged {α : Type} {s : State} (hp : Privileged s) (r : Res α) : needCp0 s r = r :=
  if_pos ((cp0Usable_iff s).2 hp)

theorem needCp0_unprivileged {α : Type} {s : State} (hp : ¬Privileged s) (r : Res α) : needCp0 s r = .exc .cpu s :=
  if_neg (mt (cp0Usable_iff s).1 hp)

/-- An instruction whose operation needs CP0. -/
theorem raises_cpu_of_needCp0 {i : Instr} {s : State} {r : Res Unit} (hp : ¬Privileged s) (h : exec i s = finish (needCp0 s r)) :
    Raises i s .cpu := by
  rw [Raises, h, needCp0_unprivileged hp, finish_exc]

/-- ERET checks CP0 before its delay slot. -/
theorem eret_raises_cpu {s : State} (hp : ¬Privileged s) : Raises .eret s .cpu := by
  have hunusable : s.cp0Usable = false := Bool.eq_false_iff.2 (mt (cp0Usable_iff s).1 hp)
  show execEret s = _
  rw [execEret, hunusable]
  rfl

/-- WAIT checks CP0 before its delay slot. -/
theorem wait_raises_cpu {s : State} (hp : ¬Privileged s) (code : BitVec 19) : Raises (.wait code) s .cpu :=
  congrArg finishControl (needCp0_unprivileged hp _)

/-- Settles O30: all but ERET and WAIT have one form. -/
theorem cp0Unusable : Obligations.Cp0Unusable := by
  intro s rt base rd op sel offset code hp i hi
  fin_cases hi
  exacts [raises_cpu_of_needCp0 hp rfl, raises_cpu_of_needCp0 hp rfl, eret_raises_cpu hp, raises_cpu_of_needCp0 hp rfl,
    raises_cpu_of_needCp0 hp rfl, raises_cpu_of_needCp0 hp rfl, raises_cpu_of_needCp0 hp rfl, raises_cpu_of_needCp0 hp rfl,
    wait_raises_cpu hp code]

/-! ## MTC0 (R718) -/

/-- MTC0 with CP0 usable writes what `Cp0.write` makes of the registers and moves on. -/
theorem mtc0_completes {s : State} {rt : GprNum} {rd : BitVec 5} {sel : BitVec 3} {c : Cp0} (hp : Privileged s)
    (hc : s.cp0.write s.fixedMapping rd sel (s.readGpr rt) = c) :
    Completes (.mtc0 rt rd sel) s fun t =>
      t.cp0 = c ∧ SameGprs s t ∧ MovesOn s t ∧ SameMemory s t ∧ t = { s with cp0 := t.cp0, pc := t.pc, slot := t.slot } := by
  have hexec : exec (.mtc0 rt rd sel) s = .next (s.writeCp0 rd sel (s.readGpr rt)).advance :=
    congrArg finish (needCp0_privileged hp _)
  refine ⟨_, hexec, ?cp0, .of_eq (by simp), .of_same rfl rfl, .of_eq (by simp) (by simp), ?only⟩
  case cp0 => rw [State.advance_cp0, State.writeCp0_cp0, hc]
  case only =>
    rw [State.advance_cp0]
    exact State.advance_eq _

/-- The read-only and reserved registers, and other selects, ignore the value (R718). -/
theorem Cp0.write_ignored (c : Cp0) (fm : Bool) {rd : BitVec 5} {sel : BitVec 3} (v : Word)
    (h : sel ≠ 0 ∨ rd ∈ [1, 7, 8, 15, 17, 18, 19, 20, 21, 22, 23, 24, 25, 26, 27, 28, 29, 31]) : c.write fm rd sel v = c := by
  by_cases hsel : sel = 0
  · subst hsel
    have hrd := h.resolve_left (not_not.2 rfl)
    fin_cases hrd <;> rfl
  · exact if_neg hsel

/-- A register with some writable bits, its kept bits first. -/
theorem mergeBits_comm_or {w : Nat} (mask new old : BitVec w) : mergeBits mask new old = (old &&& ~~~mask) ||| (new &&& mask) :=
  BitVec.or_comm ..

/-- Settles O29: each register is one case of `Cp0.write`. -/
theorem cp0Writes : Obligations.Cp0Writes := by
  intro s rt rd sel hp v c fm writes
  have hwrites {rd : BitVec 5} {sel : BitVec 3} {c' : Cp0} (hc : c.write fm rd sel v = c') : writes rd sel c' := mtc0_completes hp hc
  have hindex : mergeBits indexMask v c.index = (c.index &&& 0xFFFFFFF0) ||| (v &&& 0xF) := mergeBits_comm_or ..
  exact ⟨hwrites (congrArg (fun w => { c with index := w }) hindex), hwrites rfl, hwrites rfl, hwrites rfl, hwrites rfl, hwrites rfl,
    hwrites rfl, hwrites rfl, hwrites rfl, hwrites rfl, hwrites rfl, hwrites rfl, hwrites rfl, hwrites rfl,
    fun h => hwrites (c.write_ignored fm v h)⟩

/-! ## WAIT (R731, R990) -/

/-- An instruction that decides nothing, outside a delay slot. -/
theorem finishControl_nothing {s : State} (hslot : s.slot = .none) :
    finishControl (.ok .nothing s) = .next { s with pc := s.pc + 4 } := by
  rw [finishControl_none hslot, State.sequence_nothing hslot, ← hslot]

/-- WAIT with CP0 usable, outside a delay slot. -/
theorem exec_wait_next {s : State} (hp : Privileged s) (hslot : s.slot = .none) (code : BitVec 19) :
    exec (.wait code) s = .next { s with waiting := true, pc := s.pc + 4 } :=
  (congrArg finishControl (needCp0_privileged hp _)).trans (finishControl_nothing hslot)

/-- No request through the mask. -/
theorem maskedRequest_eq_false {s : State} (h : s.ip &&& s.cp0.status.extractLsb' 8 8 = 0) : s.maskedRequest = false := by
  rw [State.maskedRequest, fieldOf, h]
  rfl

/-- Settles O35: the instruction, and the step of a CPU that waits. -/
theorem waitForInterrupt : Obligations.WaitForInterrupt :=
  ⟨fun _ code hp hslot => exec_wait_next hp hslot code,
    fun _ hnext hwaiting hnmi hip => step_waits hnext hnmi hwaiting (maskedRequest_eq_false hip)⟩

end Sys2Proof.Machine
end

section
/-! SUPPORT. The TLB instructions: what TLBR and TLBP leave in CP0, and what TLBWI and TLBWR write or refuse to write (R720 to
R724). -/

namespace Sys2Proof.Machine

open Sys2Proof

/-! ## The shared end of the instructions -/

/-- What an instruction keeps that changes neither the general registers, PC, its slot, nor memory before it moves on. -/
theorem advance_frame {s u : State} (h : (u.gpr, u.pc, u.slot, u.mem, u.checkBits) = (s.gpr, s.pc, s.slot, s.mem, s.checkBits)) :
    SameGprs s u.advance ∧ MovesOn s u.advance ∧ SameMemory s u.advance := by
  simp only [Prod.mk.injEq] at h
  obtain ⟨hgpr, hpc, hslot, hmem, hcheck⟩ := h
  exact ⟨.of_eq ((State.advance_gpr u).trans hgpr), .of_same hpc hslot,
    .of_eq ((State.advance_mem u).trans hmem) ((State.advance_checkBits u).trans hcheck)⟩

/-- An instruction that leaves c in CP0, and may have drawn free values. -/
theorem completes_cp0 {i : Instr} {s : State} {c : Cp0} {n : Nat}
    (h : exec i s = .next (State.advance { s with cp0 := c, freeCtr := n })) :
    Completes i s fun t => t.cp0 = c ∧ SameGprs s t ∧ MovesOn s t ∧ SameMemory s t ∧ OnlyCp0 s t := by
  obtain ⟨hgpr, hpc, hmem⟩ := advance_frame (s := s) (u := { s with cp0 := c, freeCtr := n }) rfl
  refine ⟨_, h, State.advance_cp0 _, hgpr, hpc, hmem, ?_⟩
  rw [OnlyCp0, State.advance_gpr, State.advance_cp0, State.advance_freeCtr]
  exact State.advance_eq _

/-! ## TLBR (R721) -/

/-- PageMask as TLBR leaves it. -/
theorem zext_mask_shift (m : BitVec 12) : zext m <<< 13 = BitVec.ofNat 32 (m.toNat * 8192) := by
  rw [shiftLeft_eq_mul, zext, BitVec.toNat_setWidth, Nat.mod_eq_of_lt (by omega)]
  rfl

/-- A vector with another joined to its low end, as a number. -/
theorem toNat_append_eq_add {m n : Nat} (x : BitVec m) (y : BitVec n) : (x ++ y).toNat = x.toNat * 2 ^ n + y.toNat := by
  rw [BitVec.toNat_append, ← Nat.shiftLeft_add_eq_or_of_lt y.isLt, Nat.shiftLeft_eq]

theorem toNat_flag (b : Bool) : (flag b).toNat = b.toNat := by cases b <;> rfl

/-- EntryLo of a page, field by field (R30). -/
theorem entryLo_eq_ofNat (p : TlbPage) (g : Bool) :
    p.entryLo g =
      BitVec.ofNat 32 (p.pfn.toNat * 64 + p.c.toNat * 8 + p.d.toNat * 4 + p.v.toNat * 2 + g.toNat) := by
  have hword : (p.pfn ++ p.c ++ flag p.d ++ flag p.v ++ flag g).toNat =
      p.pfn.toNat * 64 + p.c.toNat * 8 + p.d.toNat * 4 + p.v.toNat * 2 + g.toNat := by
    simp only [toNat_append_eq_add, toNat_flag]
    omega
  rw [← hword, BitVec.ofNat_toNat]
  rfl

theorem exec_tlbr {s : State} (hp : Privileged s) (hfm : s.fixedMapping = false) :
    exec .tlbr s = .next (s.tlbRead s.indexEntry).advance := by
  show finish (needCp0 s _) = _
  rw [needCp0_privileged hp, hfm]
  rfl

/-- TLBR with fixed mapping (D54). -/
theorem tlbr_fixed {s : State} (hp : Privileged s) (hfm : s.fixedMapping = true) : DoesNothing .tlbr s := by
  refine doesNothing_of_advance ?_
  show finish (needCp0 s _) = _
  rw [needCp0_privileged hp, hfm]
  rfl

/-! ## TLBP (R720) -/

theorem exec_tlbp {s : State} (hp : Privileged s) (hfm : s.fixedMapping = false) : exec .tlbp s = finish (tlbProbe s) := by
  show finish (needCp0 s _) = _
  rw [needCp0_privileged hp, hfm]
  rfl

theorem exec_tlbp_fixed {s : State} (hp : Privileged s) (hfm : s.fixedMapping = true) :
    exec .tlbp s = .next (State.advance { s with cp0 := { s.cp0 with index := s.cp0.index ||| 0x80000000 } }) := by
  show finish (needCp0 s _) = _
  rw [needCp0_privileged hp, hfm]
  rfl

/-- A probe whose lowest match is entry j (D15). -/
theorem tlbProbe_first {s : State} {j : Fin 16} (hl : TlbMasksLegal s) (h : TlbFirst s j (vpn2Of s.cp0.entryHi)) :
    tlbProbe s = .done { s with cp0 := { s.cp0 with index := BitVec.ofNat 32 j.val } } := by
  rw [tlbProbe, tlbMasksLegal_of s hl, tlbFind_some s _ j h]
  rfl

/-- A probe without a match; Index.Index is any value (U59). -/
theorem tlbProbe_none {s : State} (hl : TlbMasksLegal s) (h : ∀ j, ¬TlbMatches s j (vpn2Of s.cp0.entryHi)) :
    tlbProbe s = .done { s with
      cp0 := { s.cp0 with index := bitAt true 31 ||| (s.freeWord &&& indexMask) }, freeCtr := s.freeCtr + 1 } := by
  rw [tlbProbe, tlbMasksLegal_of s hl, (tlbFind_none s _).2 h]
  rfl

/-- Index.P of a probe without a match. -/
theorem isSet_probeFailed (w : Word) : isSet (bitAt true 31 ||| w) 31 = true := by
  simp [isSet, bitAt]

/-- Settles O32: TLBR copies the fields of the entry, and TLBP takes the answer of the search. -/
theorem tlbReadAndProbe : Obligations.TlbReadAndProbe := by
  intro s hp i e lo changes fm
  refine ⟨fun hfm => ?read, fun hfm => ?readFixed, fun hfm hl => ⟨fun j hj => ?found, fun hnone => ?notFound⟩, fun hfm => ?probeFixed⟩
  case read =>
    have hlo (p : TlbPage) : p.entryLo e.g = lo p := entryLo_eq_ofNat p e.g
    obtain ⟨t, ht, hcp0, hrest⟩ := completes_cp0 (exec_tlbr hp hfm)
    refine ⟨t, ht, hcp0.trans ?_, hrest⟩
    rw [← hlo, ← hlo, ← zext_mask_shift]
    rfl
  case readFixed => exact tlbr_fixed hp hfm
  case found => exact completes_cp0 ((exec_tlbp hp hfm).trans (congrArg finish (tlbProbe_first hl hj)))
  case notFound =>
    obtain ⟨t, ht, hcp0, hrest⟩ := completes_cp0 ((exec_tlbp hp hfm).trans (congrArg finish (tlbProbe_none hl hnone)))
    refine ⟨t, ht, ?_, hrest⟩
    show isSet t.cp0.index 31 = true ∧ t.cp0 = { s.cp0 with index := t.cp0.index }
    rw [hcp0]
    exact ⟨isSet_probeFailed _, rfl⟩
  case probeFixed => exact completes_cp0 (exec_tlbp_fixed hp hfm)

/-! ## TLBWI and TLBWR (R722 to R724) -/

/-- Two page numbers agree outside a mask when their masked values are the same (R432). -/
theorem sameVpn_iff (mask : BitVec 12) (a b : BitVec 19) :
    sameVpn mask a b = true ↔ a &&& ~~~(mask.setWidth 19) = b &&& ~~~(mask.setWidth 19) := by
  have hxor : (a ^^^ b) &&& ~~~(mask.setWidth 19) = (a &&& ~~~(mask.setWidth 19)) ^^^ (b &&& ~~~(mask.setWidth 19)) := by
    ext k hk
    simp only [BitVec.getElem_and, BitVec.getElem_xor, Bool.and_xor_distrib_right]
  rw [sameVpn, beq_iff_eq, hxor]
  exact BitVec.xor_eq_zero_iff

/-- The model's conflict of two entries is R724's. -/
theorem conflicts_iff (new old : TlbEntry) : new.conflicts old = true ↔ TlbConflict new old := by
  simp only [TlbEntry.conflicts, TlbConflict, Bool.and_eq_true, Bool.or_eq_true, sameVpn_iff, beq_iff_eq, and_assoc, or_assoc]

/-- The entry that the registers describe conflicts with another one than entry i (R724, D53). -/
def ConflictsBut (s : State) (i : Fin 16) : Prop := ∃ j, j ≠ i ∧ TlbConflict s.cp0.newEntry s.tlb[j]

/-- The model's test for it. -/
theorem any_conflicts_iff (s : State) (i : Fin 16) :
    ((List.finRange 16).any fun j => j ≠ i && s.cp0.newEntry.conflicts s.tlb[j]) = true ↔ ConflictsBut s i := by
  simp only [List.any_eq_true, List.mem_finRange, true_and, Bool.and_eq_true, decide_eq_true_eq, conflicts_iff, ConflictsBut]

/-- A write that conflicts: Status.TS is set, Machine Check is raised, and nothing is written. -/
theorem tlbWrite_conflict {s : State} {i : Fin 16} (h : ConflictsBut s i) :
    tlbWrite i s = .exc .mcheck (s.putStatus (s.cp0.status ||| 0x00200000)) := if_pos ((any_conflicts_iff s i).2 h)

/-- A write without conflict. -/
theorem tlbWrite_done {s : State} {i : Fin 16} (h : ¬ConflictsBut s i) :
    tlbWrite i s = .done { s with tlb := s.tlb.set i s.cp0.newEntry } := if_neg (mt (any_conflicts_iff s i).1 h)

theorem exec_tlbwi {s : State} (hp : Privileged s) (hfm : s.fixedMapping = false) :
    exec .tlbwi s = finish (tlbWrite s.indexEntry s) := by
  show finish (needCp0 s _) = _
  rw [needCp0_privileged hp, hfm]
  rfl

theorem exec_tlbwr {s : State} (hp : Privileged s) (hfm : s.fixedMapping = false) :
    exec .tlbwr s = finish (tlbWrite s.randomUse.cp0.random.toFin s.randomUse) := by
  show finish (needCp0 s _) = _
  rw [needCp0_privileged hp, hfm]
  rfl

/-- A write of the TLB with fixed mapping (D54). -/
theorem doesNothing_tlbWrite_fixed {i : Instr} {s : State} {r : Res Unit} (hp : Privileged s) (hfm : s.fixedMapping = true)
    (h : exec i s = finish (needCp0 s (if s.fixedMapping then .done s else r))) : DoesNothing i s :=
  doesNothing_of_advance (by rw [h, needCp0_privileged hp, if_pos hfm, finish_ok])

/-- The entry TLBWR names lies from Wired up (R29, D17). -/
theorem wired_le_randomUse (s : State) : s.cp0.wired.toNat ≤ s.randomUse.cp0.random.toFin.val :=
  BitVec.le_def.1 (wired_le_randomAfter s.cp0 _)

/-- A write of entry i without conflict, from a state u that has the registers, PC and memory of s. -/
theorem completes_tlbWrite {j : Instr} {s u : State} {i : Fin 16} (hj : exec j s = finish (tlbWrite i u))
    (hu : (u.gpr, u.pc, u.slot, u.mem, u.checkBits) = (s.gpr, s.pc, s.slot, s.mem, s.checkBits)) (h : ¬ConflictsBut u i) :
    Completes j s fun t =>
      t.tlb = u.tlb.set i u.cp0.newEntry ∧ SameGprs s t ∧ MovesOn s t ∧ SameMemory s t ∧
        t = { u with tlb := t.tlb, pc := t.pc, slot := t.slot } := by
  obtain ⟨hgpr, hpc, hmem⟩ := advance_frame (s := s) (u := { u with tlb := u.tlb.set i u.cp0.newEntry }) hu
  refine ⟨_, hj.trans (congrArg finish (tlbWrite_done h)), State.advance_tlb _, hgpr, hpc, hmem, ?_⟩
  rw [State.advance_tlb]
  exact State.advance_eq _

/-- Settles O33: both write the entry of the registers, TLBWR to the entry that Random names when it is used. -/
theorem tlbWrites : Obligations.TlbWrites := by
  intro s hp page new conflict i check fm
  refine ⟨fun hfm hconf => ?conflict, fun hfm hfree => ?write, fun hfm => ?random, fun hfm hfree => ?anywhere, fun hfm => ?fixed⟩
  case conflict => exact (exec_tlbwi hp hfm).trans (congrArg finish (tlbWrite_conflict hconf))
  case write => exact completes_tlbWrite (exec_tlbwi hp hfm) rfl hfree
  case random =>
    exact ⟨_, s.randomUse, wired_le_randomUse s, rfl,
      fun hconf => (exec_tlbwr hp hfm).trans (congrArg finish (tlbWrite_conflict (s := s.randomUse) hconf)),
      fun hfree => completes_tlbWrite (exec_tlbwr hp hfm) rfl hfree⟩
  case anywhere =>
    obtain ⟨t, ht, htlb, hgpr, hpc, hmem, honly⟩ :=
      completes_tlbWrite (exec_tlbwr hp hfm) rfl (hfree _ (wired_le_randomUse s))
    refine ⟨t, ht, ⟨_, wired_le_randomUse s, htlb⟩, hgpr, hpc, hmem, ?_⟩
    rw [honly]
    rfl
  case fixed => exact ⟨doesNothing_tlbWrite_fixed hp hfm rfl, doesNothing_tlbWrite_fixed hp hfm rfl⟩

end Sys2Proof.Machine
end

section
/-! SUPPORT. CACHE on the instruction cache: a line dropped, and a line filled from plain memory (R283, R451, R730). -/

namespace Sys2Proof.Machine

open Sys2Proof

/-! ## Lines of the cache (R67) -/

/-- The line of an address, as a number (R451). -/
theorem lineOf_eq (va : Word) : lineOf va = va.toNat / 16 % 1024 := by
  rw [lineOf, fieldOf, BitVec.extractLsb'_toNat, Nat.shiftRight_eq_div_pow]

/-- A line is found under its number. -/
theorem cacheLine_line (s : State) (n : Nat) : (s.cacheLine n).line = n := by
  unfold State.cacheLine
  split
  · next l h => simpa using List.find?_some h
  · rfl

theorem cacheLine_congr {s t : State} (h : t.icache = s.icache) (n : Nat) : t.cacheLine n = s.cacheLine n := by
  unfold State.cacheLine
  rw [h]

/-- The search for a line, line by line. -/
theorem find_line_cons (y : CacheLine) (ls : List CacheLine) (n : Nat) :
    (y :: ls).find? (fun l => l.line == n) = if n = y.line then some y else ls.find? fun l => l.line == n := by
  split
  · next h => exact List.find?_cons_of_pos (by simp [h])
  · next h => exact List.find?_cons_of_neg (by simpa using Ne.symm h)

/-- A line that was put is found, and every other line as before. -/
theorem find_putCacheLine (ls : List CacheLine) (x : CacheLine) (n : Nat) :
    (putCacheLine ls x).find? (fun l => l.line == n) = if n = x.line then some x else ls.find? fun l => l.line == n := by
  induction ls with
  | nil => exact find_line_cons ..
  | cons y ls ih =>
    unfold putCacheLine
    split
    · exact find_line_cons ..
    · split
      · next heq =>
        rw [find_line_cons, find_line_cons, ← heq]
        by_cases hn : n = x.line
        · rw [if_pos hn, if_pos hn]
        · rw [if_neg hn, if_neg hn, if_neg hn]
      · next hne =>
        rw [find_line_cons, find_line_cons, ih]
        by_cases hn : n = x.line
        · have hy : n ≠ y.line := fun h => hne (hn.symm.trans h)
          rw [if_neg hy, if_pos hn, if_pos hn]
        · rw [if_neg hn, if_neg hn]

theorem cacheLine_putCacheLine {s t : State} {x : CacheLine} (h : t.icache = putCacheLine s.icache x) (n : Nat) :
    t.cacheLine n = if n = x.line then x else s.cacheLine n := by
  unfold State.cacheLine
  rw [h, find_putCacheLine]
  by_cases hn : n = x.line
  · rw [if_pos hn, if_pos hn]
  · rw [if_neg hn, if_neg hn]

/-- A dropped line is not valid, and every other line is as before. -/
theorem cacheLine_dropLine (s : State) (line n : Nat) :
    (s.dropLine line).cacheLine n = if n = line then { s.cacheLine n with valid := false } else s.cacheLine n := by
  have hfind : (s.dropLine line).icache.find? (fun l => l.line == n) =
      (s.icache.find? fun l => l.line == n).map fun l => if l.line = line then { l with valid := false } else l := by
    have hnumber : (fun l : CacheLine => l.line == n) ∘ (fun l => if l.line = line then { l with valid := false } else l) =
        fun l => l.line == n := by
      funext l
      by_cases hl : l.line = line <;> simp [hl]
    rw [State.dropLine, List.find?_map, hnumber]
  unfold State.cacheLine
  rw [hfind]
  cases hl : s.icache.find? (fun l => l.line == n) with
  | none => by_cases hn : n = line <;> simp [hn]
  | some l =>
    have hline : l.line = n := by simpa using List.find?_some hl
    simp [hline]

/-- A line holds the word of an address when it is valid and has its tag (R451). -/
theorem holds_iff (l : CacheLine) (pa : Word) : l.holds pa = true ↔ l.valid = true ∧ l.tag = pa.extractLsb' 14 18 := by
  simp [CacheLine.holds, fieldOf]

/-! ## The burst of a Fill (R451) -/

/-- The address of word k of the line of pa. -/
theorem wordAddr_lineWord (pa : Word) {k : Nat} (hk : k < 4) :
    wordAddr ((pa &&& (0xFFFFFFF0 : Word)) + BitVec.ofNat 32 (4 * k)) = pa.toNat / 16 * 16 + 4 * k := by
  have hbase : pa &&& (0xFFFFFFF0 : Word) = pa >>> 4 <<< 4 := by
    rw [BitVec.shiftLeft_ushiftRight]
    rfl
  have hnat : (pa &&& (0xFFFFFFF0 : Word)).toNat = pa.toNat / 16 * 16 := by
    rw [hbase, BitVec.toNat_shiftLeft, BitVec.toNat_ushiftRight, Nat.shiftRight_eq_div_pow, Nat.shiftLeft_eq]
    omega
  have hsum : ((pa &&& (0xFFFFFFF0 : Word)) + BitVec.ofNat 32 (4 * k)).toNat = pa.toNat / 16 * 16 + 4 * k := by
    rw [BitVec.toNat_add, hnat, BitVec.toNat_ofNat]
    omega
  rw [wordAddr, hsum]
  omega

/-- Word k of the line of pa, in memory. -/
def lineWord (s : State) (pa : Word) (k : Nat) : Word := wordAt s (pa.toNat / 16 * 16 + 4 * k)

/-- A read of the burst from plain memory. -/
theorem busRead_lineWord {s : State} {pa : Word} (h : ∀ k, k < 4 → PlainRam s (pa.toNat / 16 * 16 + 4 * k)) {k : Nat} (hk : k < 4) :
    busRead ((pa &&& (0xFFFFFFF0 : Word)) + BitVec.ofNat 32 (4 * k)) s = .ok (lineWord s pa k) s := by
  have hplain := h k hk
  rw [← wordAddr_lineWord pa hk] at hplain
  rw [busRead_plain hplain, wordAddr_lineWord pa hk]
  rfl

/-- The line that a burst of pa leaves where old was: its tag and its four words, and the check bits of old. -/
def filledLine (s : State) (pa : Word) (old : CacheLine) : CacheLine :=
  { old with
    valid := true, tag := pa.extractLsb' 14 18, d0 := lineWord s pa 0, d1 := lineWord s pa 1, d2 := lineWord s pa 2
    d3 := lineWord s pa 3 }

/-- The controllers without the injected errors of a line (R284). -/
def Ecc.withoutLine (e : Ecc) (line : Nat) : Ecc :=
  { e with cacheFaults := e.cacheFaults.filter fun f => f.index.toNat / 4 != line }

/-- The refill of a line from plain memory, by the mode of the cache's controller (R283). -/
theorem refill_plain {s : State} {pa : Word} (line : Nat) (h : ∀ k, k < 4 → PlainRam s (pa.toNat / 16 * 16 + 4 * k)) :
    let filled := filledLine s pa (s.cacheLine line)
    (s.ecc.icache.mode = 0 →
      refill line pa s = .done { s with icache := putCacheLine s.icache filled, ecc := s.ecc.withoutLine line }) ∧
    (s.ecc.icache.mode = 1 → refill line pa s = .done { s with
      icache := putCacheLine s.icache (filled.withChecks (s.freeAt 0) (s.freeAt 1) (s.freeAt 2) (s.freeAt 3))
      ecc := s.ecc.withoutLine line, freeCtr := s.freeCtr + 4 }) ∧
    (s.ecc.icache.mode = 2 → refill line pa s = .done { s with
      icache := putCacheLine s.icache
        ((s.cacheLine line).withChecks (lineWord s pa 0) (lineWord s pa 1) (lineWord s pa 2) (lineWord s pa 3)) }) ∧
    (s.ecc.icache.mode = 3 → refill line pa s = .fault .eccModeReserved) := by
  have h0 : busRead (pa &&& (0xFFFFFFF0 : Word)) s = .ok (lineWord s pa 0) s := by
    simpa using busRead_lineWord h (k := 0) (by decide)
  have h1 : busRead ((pa &&& (0xFFFFFFF0 : Word)) + 4) s = .ok (lineWord s pa 1) s := busRead_lineWord h (k := 1) (by decide)
  have h2 : busRead ((pa &&& (0xFFFFFFF0 : Word)) + 8) s = .ok (lineWord s pa 2) s := busRead_lineWord h (k := 2) (by decide)
  have h3 : busRead ((pa &&& (0xFFFFFFF0 : Word)) + 12) s = .ok (lineWord s pa 3) s := busRead_lineWord h (k := 3) (by decide)
  simp only [refill, h0, h1, h2, h3, andThen_ok]
  refine ⟨fun hm => ?_, fun hm => ?_, fun hm => ?_, fun hm => ?_⟩ <;> rw [hm] <;> rfl

/-! ## The instruction (R730, D6) -/

section
variable {s : State} {base : GprNum} {op : BitVec 5} {offset : BitVec 16}

theorem exec_cache (hp : Privileged s) :
    exec (.cache base op offset) s = finish (cacheOp op (s.effAddr base offset) s) := congrArg finish (needCp0_privileged hp _)

/-- An operation that drops the line of its address. -/
theorem completes_dropLine {i : Instr} {n : Nat} (h : exec i s = .next (s.dropLine n).advance) :
    Completes i s fun t =>
      (t.cacheLine n).valid = false ∧ (∀ m, m ≠ n → t.cacheLine m = s.cacheLine m) ∧ SameGprs s t ∧ MovesOn s t ∧
        SameMemory s t ∧ t = { s with icache := t.icache, pc := t.pc, slot := t.slot } := by
  have hline (m : Nat) : (s.dropLine n).advance.cacheLine m = _ :=
    (cacheLine_congr (State.advance_icache _) m).trans (cacheLine_dropLine s n m)
  obtain ⟨hgpr, hpc, hmem⟩ := advance_frame (s := s) (u := s.dropLine n) rfl
  refine ⟨_, h, ?dropped, fun m hm => (hline m).trans (if_neg hm), hgpr, hpc, hmem, ?only⟩
  case dropped => rw [hline n, if_pos rfl]
  case only =>
    rw [State.advance_icache]
    exact State.advance_eq _

/-- An operation that puts a line, in the place of that of its number. -/
theorem completes_putLine {i : Instr} {x : CacheLine} {e : Ecc} {line n : Nat}
    (h : exec i s = .next (State.advance { s with icache := putCacheLine s.icache x, ecc := e, freeCtr := n }))
    (hx : x.line = line) :
    Completes i s fun t =>
      t.cacheLine line = x ∧ (∀ m, m ≠ line → t.cacheLine m = s.cacheLine m) ∧ SameGprs s t ∧ MovesOn s t ∧ SameMemory s t ∧
        t = { s with icache := t.icache, pc := t.pc, slot := t.slot, freeCtr := t.freeCtr, ecc := e } := by
  subst hx
  have hline := cacheLine_putCacheLine (s := s) (State.advance_icache
    { s with icache := putCacheLine s.icache x, ecc := e, freeCtr := n })
  obtain ⟨hgpr, hpc, hmem⟩ := advance_frame (s := s)
    (u := { s with icache := putCacheLine s.icache x, ecc := e, freeCtr := n }) rfl
  refine ⟨_, h, (hline _).trans (if_pos rfl), fun m hm => (hline m).trans (if_neg hm), hgpr, hpc, hmem, ?_⟩
  rw [State.advance_icache, State.advance_freeCtr]
  exact State.advance_eq _

/-- Hit Invalidate where the translation answers. -/
theorem cacheOp_hitInvalidate {va pa : Word} {c : Bool} (ht : translate va .load s = .ok (pa, c) s) :
    cacheOp 0x10 va s = .done (if (s.cacheLine (lineOf va)).holds pa then s.dropLine (lineOf va) else s) := by
  show (translate va .load s).andThen _ = _
  rw [ht, andThen_ok]

/-- Fill where the translation answers. -/
theorem cacheOp_fill {va pa : Word} {c : Bool} (ht : translate va .load s = .ok (pa, c) s) :
    cacheOp 0x14 va s = refill (lineOf va) pa s := by
  show (translate va .load s).andThen _ = _
  rw [ht, andThen_ok]

/-- Hit Invalidate and Fill where the translation raises an exception. -/
theorem cacheOp_exc {va : Word} {e : Exc} (ht : translate va .load s = .exc e s) :
    cacheOp 0x10 va s = .exc e s ∧ cacheOp 0x14 va s = .exc e s := by
  constructor <;>
  · show (translate va .load s).andThen _ = _
    rw [ht, andThen_exc]

/-- Every other operation but Index Invalidate. -/
theorem cacheOp_other {va : Word} (h0 : op ≠ 0) (h10 : op ≠ 0x10) (h14 : op ≠ 0x14) : cacheOp op va s = .done s := by
  rw [cacheOp, if_neg h0, if_neg h10, if_neg h14]

end

/-- Settles O34: the line dropped or put by each operation, and Fill by the mode of the controller. -/
theorem cacheOperations : Obligations.CacheOperations := by
  intro s base op offset hp va line drops
  have hline : lineOf va = line := lineOf_eq va
  have hexec {op : BitVec 5} {r : Res Unit} (h : cacheOp op va s = r) : exec (.cache base op offset) s = finish r :=
    (exec_cache hp).trans (congrArg finish h)
  have hdrops {i : Instr} (h : exec i s = .next (s.dropLine (lineOf va)).advance) : Completes i s drops :=
    completes_dropLine (hline ▸ h)
  refine ⟨hdrops (hexec rfl), fun pa c ht => ⟨fun hvalid htag => ?hit, fun hmiss => ?miss, fun hplain => ?fill⟩,
    fun e ht => ?exception, fun h0 h10 h14 => doesNothing_of_advance (hexec (cacheOp_other h0 h10 h14))⟩
  case hit =>
    have hholds : (s.cacheLine (lineOf va)).holds pa = true := (holds_iff ..).2 (hline ▸ ⟨hvalid, htag⟩)
    exact hdrops ((hexec (cacheOp_hitInvalidate ht)).trans (by rw [if_pos hholds, finish_ok]))
  case miss =>
    have hholds : ¬(s.cacheLine (lineOf va)).holds pa = true := by
      rw [holds_iff, hline, not_and_or, Bool.not_eq_true]
      exact hmiss
    exact doesNothing_of_advance ((hexec (cacheOp_hitInvalidate ht)).trans (by rw [if_neg hholds, finish_ok]))
  case exception =>
    obtain ⟨hhit, hfill⟩ := cacheOp_exc ht
    exact ⟨hexec hhit, hexec hfill⟩
  case fill =>
    intro w old filled fills
    obtain ⟨hm0, hm1, hm2, hm3⟩ := refill_plain line hplain
    have hrefill : cacheOp 0x14 va s = refill line pa s := hline ▸ cacheOp_fill ht
    refine ⟨fun hm => ?mode0, fun hm => ?mode1, fun hm => hexec (hrefill.trans (hm3 hm)), fun hm => ?mode2⟩
    case mode0 => exact completes_putLine (hexec (hrefill.trans (hm0 hm))) (cacheLine_line s line)
    case mode1 =>
      obtain ⟨t, ht, hput, hrest⟩ := completes_putLine (hexec (hrefill.trans (hm1 hm))) (cacheLine_line s line)
      refine ⟨t, ht, ?_, hrest⟩
      rw [hput]
      rfl
    case mode2 => exact completes_putLine (hexec (hrefill.trans (hm2 hm))) (cacheLine_line s line)

end Sys2Proof.Machine
end

section
/-! SUPPORT. What every FPU instruction shares: its checks of Status.CU1 and of the register numbers (R750, R753), what writing FPU
registers leaves alone (R50, R51), and the branches on a condition code (R810 to R815). -/

namespace Sys2Proof.Machine

open Sys2Proof

/-! ## The checks (R750, R753) -/

theorem oddReg_iff (n : FprNum) : oddReg n = true ↔ ¬EvenReg n := by
  unfold oddReg isSet EvenReg
  rw [BitVec.getLsbD, Nat.testBit_zero, decide_eq_true_iff]
  omega

/-- The encoder's test of a register number is the model's. -/
theorem oddReg_eq_not_evenFpr (n : FprNum) : oddReg n = !evenFpr n := by
  revert n
  decide

/-- With the FPU off, an instruction that needs it raises Coprocessor Unusable. -/
theorem needFpu_of_off {α : Type} {s : State} (h : ¬FpuOn s) (r : Res α) : needFpu s r = .exc .cpu s :=
  if_neg (mt (fpuUsable_iff s).1 h)

theorem fpuOp_of_off {s : State} (h : ¬FpuOn s) (regs : List FprNum) (r : Res Unit) :
    fpuOp regs r s = .next (takeException .cpu s) := congrArg finish (needFpu_of_off h _)

/-- With the FPU on, an odd register number is refused. -/
theorem fpuOp_of_odd {s : State} (h : FpuOn s) {regs : List FprNum} (hodd : regs.any oddReg = true) (r : Res Unit) :
    fpuOp regs r s = .refused .oddFpr :=
  (congrArg finish (needFpu_of_on h _)).trans (congrArg finish (if_pos hodd))

/-- With the FPU on and even registers, an instruction runs its operation. -/
theorem fpuOp_of_even {s : State} (h : FpuOn s) {regs : List FprNum} (heven : ∀ n ∈ regs, EvenReg n) (r : Res Unit) :
    fpuOp regs r s = finish r := by
  have hnone : ¬regs.any oddReg = true := by
    rw [List.any_eq_true]
    rintro ⟨n, hn, hodd⟩
    exact (oddReg_iff n).1 hodd (heven n hn)
  exact (congrArg finish (needFpu_of_on h _)).trans (congrArg finish (if_neg hnone))

/-- With the FPU off, a branch on a condition code raises Coprocessor Unusable. -/
theorem branchFcc_of_off {s : State} (h : ¬FpuOn s) (cc : BitVec 3) (want likely : Bool) (offset : BitVec 16) :
    branchFcc cc want likely offset s = .next (takeException .cpu s) := if_neg (mt (fpuUsable_iff s).1 h)

/-! ## FPU registers (R50, R51) -/

theorem fgrHolds_putFgr (s : State) (d : FprNum) (v : Word) : FgrHolds d v s (s.putFgr d v) :=
  ⟨(State.readFgr_putFgr ..).trans (if_pos rfl), fun _ hn => (State.readFgr_putFgr ..).trans (if_neg hn)⟩

theorem fprHolds_putFpr (s : State) (d : FprNum) (v : Dword) : FprHolds d v s (s.putFpr d v) := by
  have hnext : d ≠ d + 1 := by bv_omega
  refine ⟨?_, fun n hd hd1 => ?_⟩
  · rw [State.readFpr, State.putFpr, State.readFgr_putFgr, if_pos rfl, State.readFgr_putFgr, if_neg hnext,
      State.readFgr_putFgr, if_pos rfl, halves_of_dword]
  · rw [State.putFpr, State.readFgr_putFgr, if_neg hd1, State.readFgr_putFgr, if_neg hd]

/-- What a register holds depends on the register file alone. -/
theorem FgrHolds.of_eq {s s' t t' : State} {d : FprNum} {v : Word} (h : FgrHolds d v s t) (hs : s'.fgr = s.fgr)
    (ht : t'.fgr = t.fgr) : FgrHolds d v s' t' := by
  simpa only [FgrHolds, State.readFgr, hs, ht] using h

theorem FprHolds.of_eq {s s' t t' : State} {d : FprNum} {v : Dword} (h : FprHolds d v s t) (hs : s'.fgr = s.fgr)
    (ht : t'.fgr = t.fgr) : FprHolds d v s' t' := by
  simpa only [FprHolds, State.readFpr, State.readFgr, hs, ht] using h

/-- Writing the value a register holds changes nothing. -/
theorem State.putFgr_self (s : State) (d : FprNum) : s.putFgr d (s.readFgr d) = s := by
  simp [State.putFgr, State.readFgr]

theorem State.putFpr_self (s : State) (d : FprNum) : s.putFpr d (s.readFpr d) = s := by
  rw [State.putFpr, State.readFpr, fieldOf_append_low, fieldOf_append_high, State.putFgr_self, State.putFgr_self]

/-! ## Branches (R810 to R815) -/

/-- A branch on a condition code with the FPU on, outside a delay slot. -/
theorem branchesIf_of_branchFcc {i : Instr} {s : State} {cc : BitVec 3} {want likely : Bool} {offset : BitVec 16}
    (hslot : s.slot = .none) (hon : FpuOn s) (h : exec i s = branchFcc cc want likely offset s) :
    BranchesIf i s (s.fcsr.getLsbD (fccPlace cc) = want) likely offset :=
  branchesIf_of_branchIf hslot beq_iff_eq (h.trans (if_pos ((fpuUsable_iff s).2 hon)))

/-- Settles O13: each branch is the shared form with the code it wants. -/
theorem fpuBranches : Obligations.FpuBranches := fun _ _ _ hslot hon =>
  ⟨branchesIf_of_branchFcc hslot hon rfl, branchesIf_of_branchFcc hslot hon rfl, branchesIf_of_branchFcc hslot hon rfl,
    branchesIf_of_branchFcc hslot hon rfl⟩

/-! ## The instructions that need the FPU (R750) -/

/-- An instruction answers Coprocessor Unusable with the FPU off, and with it on it refuses the operands that are not allowed. -/
def ChecksFpu (i : Instr) (s : State) : Prop :=
  (¬FpuOn s → Raises i s .cpu) ∧ (FpuOn s → i.wellFormed = false → exec i s = .refused .oddFpr)

theorem checksFpu_of_fpuOp {i : Instr} {s : State} {regs : List FprNum} {r : Res Unit} (h : exec i s = fpuOp regs r s)
    (hregs : i.wellFormed = !regs.any oddReg) : ChecksFpu i s := by
  refine ⟨fun hoff => h.trans (fpuOp_of_off hoff ..), fun hon hill => h.trans (fpuOp_of_odd hon ?_ _)⟩
  rwa [hregs, Bool.not_eq_false'] at hill

theorem any_oddReg_two (a b : FprNum) : (evenFpr a && evenFpr b) = !([a, b].any oddReg) := by
  simp [oddReg_eq_not_evenFpr]

theorem any_oddReg_three (a b c : FprNum) : (evenFpr a && evenFpr b && evenFpr c) = !([a, b, c].any oddReg) := by
  simp [oddReg_eq_not_evenFpr, Bool.and_assoc]

theorem any_oddReg_one (a : FprNum) : evenFpr a = !([a].any oddReg) := by
  simp [oddReg_eq_not_evenFpr]

/-- An instruction that allows every register number. -/
theorem checksFpu_of_needFpu {i : Instr} {s : State} {r : Res Unit} (h : exec i s = finish (needFpu s r))
    (hwf : i.wellFormed = true) : ChecksFpu i s :=
  ⟨fun hoff => h.trans (congrArg finish (needFpu_of_off hoff r)), fun _ hill => by simp [hwf] at hill⟩

theorem checksFpu_of_branchFcc {i : Instr} {s : State} {cc : BitVec 3} {want likely : Bool} {offset : BitVec 16}
    (h : exec i s = branchFcc cc want likely offset s) (hwf : i.wellFormed = true) : ChecksFpu i s :=
  ⟨fun hoff => h.trans (branchFcc_of_off hoff ..), fun _ hill => by simp [hwf] at hill⟩

/-- Settles O36: the instructions by the form of their check; the words of the others have another opcode. -/
theorem fpuAccess : Obligations.FpuAccess := by
  intro i s hneeds
  change ChecksFpu i s
  cases i with
  | addS | addD | subS | subD | mulS | mulD | divS | divD => exact checksFpu_of_fpuOp rfl (any_oddReg_three ..)
  | sqrtS | sqrtD | absS | absD | negS | negD | movS | movD | cvtSD | cvtSW | cvtDS | cvtDW | cvtWS | cvtWD | roundWS
  | roundWD | truncWS | truncWD | ceilWS | ceilWD | floorWS | floorWD | movfS | movfD | movtS | movtD | movnS | movnD | movzS
  | movzD | cFS | cFD | cUnS | cUnD | cEqS | cEqD | cUeqS | cUeqD | cOltS | cOltD | cUltS | cUltD | cOleS | cOleD | cUleS
  | cUleD | cSfS | cSfD | cNgleS | cNgleD | cSeqS | cSeqD | cNglS | cNglD | cLtS | cLtD | cNgeS | cNgeD | cLeS | cLeD | cNgtS
  | cNgtD => exact checksFpu_of_fpuOp rfl (any_oddReg_two ..)
  | ldc1 | sdc1 => exact checksFpu_of_fpuOp rfl (any_oddReg_one _)
  | mfc1 | mtc1 | cfc1 | ctc1 | lwc1 | swc1 | movf | movt => exact checksFpu_of_needFpu rfl rfl
  | bc1f | bc1t | bc1fl | bc1tl => exact checksFpu_of_branchFcc rfl rfl
  | _ => simp [NeedsFpu, encode] at hneeds

end Sys2Proof.Machine
end

section
/-! SUPPORT. FPU instructions that move words: register moves, moves to and from the general registers, and the control registers
(R757, R764, R779, R780, R799 to R802, R816 to R824). -/

namespace Sys2Proof.Machine

open Sys2Proof

/-! ## What a write of FPU registers leaves alone -/

/-- A state that differs in the FPU registers and FCSR, advanced. -/
theorem fpu_advance {s u : State} (h : u = { s with fgr := u.fgr, fcsr := u.fcsr }) :
    MovesOn s u.advance ∧ SameGprs s u.advance ∧ SameMemory s u.advance ∧ OnlyFpu s u.advance := by
  have hfield {α : Type} (f : State → α) (hf : ∀ g c, f { s with fgr := g, fcsr := c } = f s) : f u = f s :=
    (congrArg f h).trans (hf ..)
  refine ⟨.of_same (hfield State.pc fun _ _ => rfl) (hfield State.slot fun _ _ => rfl),
    .of_eq ((State.advance_gpr u).trans (hfield State.gpr fun _ _ => rfl)),
    .of_eq ((State.advance_mem u).trans (hfield State.mem fun _ _ => rfl))
      ((State.advance_checkBits u).trans (hfield State.checkBits fun _ _ => rfl)), ?_⟩
  unfold OnlyFpu
  rw [State.advance_fgr, State.advance_fcsr]
  exact (State.advance_eq u).trans (congrArg (fun t : State => { t with pc := u.advance.pc, slot := u.advance.slot }) h)

/-- A state that differs in the FPU registers, advanced. -/
theorem fgr_advance {s u : State} (h : u = { s with fgr := u.fgr }) :
    MovesOn s u.advance ∧ SameGprs s u.advance ∧ SameMemory s u.advance ∧ OnlyFgr s u.advance := by
  have hfcsr : u.fcsr = s.fcsr := by rw [h]
  obtain ⟨hpc, hgpr, hmem, honly⟩ := fpu_advance (h.trans (by rw [hfcsr]))
  refine ⟨hpc, hgpr, hmem, ?_⟩
  unfold OnlyFpu at honly
  rwa [State.advance_fcsr, hfcsr] at honly

/-- An instruction that writes FGR[d] moves its value. -/
theorem movesFgr_of_ok {i : Instr} {s : State} {d : FprNum} {v : Word} (h : exec i s = .next (s.putFgr d v).advance) :
    MovesFgr i s d v :=
  ⟨_, h, (fgrHolds_putFgr s d v).of_eq rfl (State.advance_fgr _), fgr_advance rfl⟩

theorem movesFpr_of_ok {i : Instr} {s : State} {d : FprNum} {v : Dword} (h : exec i s = .next (s.putFpr d v).advance) :
    MovesFpr i s d v :=
  ⟨_, h, (fprHolds_putFpr s d v).of_eq rfl (State.advance_fgr _), fgr_advance rfl⟩

/-! ## Moves between FPU registers (R757, R779, R780, R816 to R824) -/

theorem forall_even_two {a b : FprNum} (ha : EvenReg a) (hb : EvenReg b) : ∀ n ∈ [a, b], EvenReg n := by simp [ha, hb]

section
variable {i : Instr} {s : State} {fs fd : FprNum} {c : Bool}

/-- A conditional copy moves its source, or the value the destination has. -/
theorem movesFgr_of_copyS (hon : FpuOn s) (hs : EvenReg fs) (hd : EvenReg fd) {n : FprNum} (hc : (if c then fs else fd) = n)
    (h : exec i s = fpuOp [fs, fd] (copyS c fs fd s) s) : MovesFgr i s fd (s.readFgr n) := by
  refine movesFgr_of_ok ((h.trans (fpuOp_of_even hon (forall_even_two hs hd) _)).trans ?_)
  rw [copyS, finish_ok, ← hc]
  cases c with
  | true => rfl
  | false => rw [if_neg Bool.false_ne_true, if_neg Bool.false_ne_true, State.putFgr_self]

theorem movesFpr_of_copyD (hon : FpuOn s) (hs : EvenReg fs) (hd : EvenReg fd) {n : FprNum} (hc : (if c then fs else fd) = n)
    (h : exec i s = fpuOp [fs, fd] (copyD c fs fd s) s) : MovesFpr i s fd (s.readFpr n) := by
  refine movesFpr_of_ok ((h.trans (fpuOp_of_even hon (forall_even_two hs hd) _)).trans ?_)
  rw [copyD, finish_ok, ← hc]
  cases c with
  | true => rfl
  | false => rw [if_neg Bool.false_ne_true, if_neg Bool.false_ne_true, State.putFpr_self]

end

/-- Settles O38: every move is a copy under its condition. -/
theorem fpuMoves : Obligations.FpuMoves := by
  intro s rt fs fd cc hon hs hd code zero
  have hclear : (if !s.fcc cc then fs else fd) = if code = false then fs else fd := if_congr (Bool.not_eq_true' _ ▸ .rfl) rfl rfl
  have hset : (if s.fcc cc then fs else fd) = if code = true then fs else fd := rfl
  refine ⟨movesFgr_of_copyS hon hs hd rfl rfl, movesFpr_of_copyD hon hs hd rfl rfl, movesFgr_of_copyS hon hs hd hclear rfl,
    movesFpr_of_copyD hon hs hd hclear rfl, movesFgr_of_copyS hon hs hd hset rfl, movesFpr_of_copyD hon hs hd hset rfl,
    fun hz => ?zero, fun hz => ?nonzero⟩
  case zero =>
    have hne : (if s.readGpr rt != 0 then fs else fd) = fd := if_neg (mt bne_iff_ne.1 (not_not.2 hz))
    have heq : (if s.readGpr rt == 0 then fs else fd) = fs := if_pos (beq_iff_eq.2 hz)
    exact ⟨movesFgr_of_copyS hon hs hd hne rfl, movesFpr_of_copyD hon hs hd hne rfl, movesFgr_of_copyS hon hs hd heq rfl,
      movesFpr_of_copyD hon hs hd heq rfl⟩
  case nonzero =>
    have hne : (if s.readGpr rt != 0 then fs else fd) = fs := if_pos (bne_iff_ne.2 hz)
    have heq : (if s.readGpr rt == 0 then fs else fd) = fd := if_neg (mt beq_iff_eq.1 hz)
    exact ⟨movesFgr_of_copyS hon hs hd hne rfl, movesFpr_of_copyD hon hs hd hne rfl, movesFgr_of_copyS hon hs hd heq rfl,
      movesFpr_of_copyD hon hs hd heq rfl⟩

/-! ## FCSR by its bits (R55 to R61) -/

@[simp] theorem isSet_not {w : Nat} (x : BitVec w) {k : Nat} (hk : k < w) : isSet (~~~x) k = !isSet x k := by
  simp [isSet, hk]

/-- A bit of a word with a field replaced. -/
theorem isSet_putField {w : Nat} (x : BitVec w) (lo : Nat) {len : Nat} (v : BitVec len) {k : Nat} (hk : k < w) :
    isSet (putField x lo v) k = if lo ≤ k ∧ k < lo + len then isSet v (k - lo) else isSet x k := by
  have hsub : k - lo < w := by omega
  unfold putField
  rw [isSet_or, isSet_and, isSet_not _ hk, isSet_shiftLeft, isSet_shiftLeft]
  simp only [isSet, BitVec.getLsbD_setWidth, BitVec.getLsbD_allOnes, hk, hsub, decide_true, Bool.true_and]
  by_cases hlo : k < lo
  · simp [hlo]
  · by_cases hlen : k - lo < len
    · simp [hlo, hlen, show lo ≤ k ∧ k < lo + len by omega]
    · simp [hlo, hlen, BitVec.getLsbD_of_ge v _ (not_lt.1 hlen), show ¬k < lo + len by omega]

theorem bne_zero_iff {w : Nat} (x : BitVec w) : (x != 0) = true ↔ ∃ k, k < w ∧ isSet x k = true := by
  rw [← not_iff_not, bne_iff_ne, ne_eq, not_not]
  simp only [not_exists, not_and, Bool.not_eq_true]
  exact ⟨fun h k _ => h ▸ isSet_zero .., fun h => BitVec.eq_of_getLsbD_eq fun k hk => (h k hk).trans BitVec.getLsbD_zero.symm⟩

/-- Conditions trap: E, or one that is enabled (R760, R764). -/
theorem condsTrap_iff (conds : BitVec 6) (enables : BitVec 5) :
    condsTrap conds enables = true ↔ isSet conds 5 = true ∨ ∃ k, k < 5 ∧ isSet conds k = true ∧ isSet enables k = true := by
  unfold condsTrap
  rw [Bool.or_eq_true, bne_zero_iff]
  refine or_congr_right (exists_congr fun k => and_congr_right fun hk => ?_)
  simp [hk]

/-- The condition of R764 for the value CTC1 leaves in FCSR. -/
theorem cause_trap_iff (w : Word) :
    condsTrap (fcsrCause w) (fcsrEnables w) = true ↔
      isSet w 17 = true ∨ ∃ k, k < 5 ∧ isSet w (12 + k) = true ∧ isSet w (7 + k) = true := by
  have hbits (k : Nat) : k < 5 ∧ isSet (fcsrCause w) k = true ∧ isSet (fcsrEnables w) k = true ↔
      k < 5 ∧ isSet w (12 + k) = true ∧ isSet w (7 + k) = true := by
    refine and_congr_right fun hk => ?_
    simp [fcsrCause, fcsrEnables, hk, show k < 6 by omega]
  have hE : isSet (fcsrCause w) 5 = isSet w 17 := by simp [fcsrCause]
  rw [condsTrap_iff, hE]
  simp only [hbits]

/-! The views of FCSR and the writes through them, as the masks and shifts of R58 to R61, bit by bit. -/

/-- Words are equal when their bits are. -/
theorem eq_of_isSet {x y : Word} (h : ∀ k, k < 32 → isSet x k = isSet y k) : x = y := BitVec.eq_of_getLsbD_eq h

theorem fccrView_eq (f : Word) : fccrView f = ((f >>> 24) &&& 0xFE) ||| ((f >>> 23) &&& 1) := by
  refine eq_of_isSet fun k hk => ?_
  rw [fccrView, isSet_zext, isSet_append]
  interval_cases k <;> simp [isSet, fieldOf]

theorem fenrView_eq (f : Word) : fenrView f = (f &&& 0x00000F83) ||| ((f >>> 22) &&& 4) := by
  refine eq_of_isSet fun k hk => ?_
  rw [fenrView, isSet_or, isSet_bitAt]
  interval_cases k <;> simp [isSet]

theorem writeFccr_eq (v f : Word) :
    writeFccr v f = (f &&& 0x017FFFFF) ||| ((v &&& 0xFE) <<< 24) ||| ((v &&& 1) <<< 23) := by
  refine eq_of_isSet fun k hk => ?_
  rw [writeFccr, isSet_putField _ _ _ hk, isSet_putField _ _ _ hk]
  interval_cases k <;> simp [isSet, fieldOf]

theorem writeFexr_eq (v f : Word) : writeFexr v f = (f &&& 0xFFFC0F83) ||| (v &&& 0x0003F07C) := by
  rw [writeFexr, mergeBits, BitVec.or_comm]
  rfl

theorem writeFenr_eq (v f : Word) :
    writeFenr v f = (f &&& 0xFEFFF07C) ||| (v &&& 0x00000F83) ||| ((v &&& 4) <<< 22) := by
  refine eq_of_isSet fun k hk => ?_
  rw [writeFenr, isSet_putBit _ _ _ hk, isSet_mergeBits _ _ _ hk]
  interval_cases k <;> simp [isSet]

/-! ## Moves between CPU and FPU (R799 to R802) -/

section
variable {s : State} {rt : GprNum} {n : BitVec 5}

/-- CFC1 of a number that names a register (R801). -/
theorem computes_cfc1 {v w : Word} (hon : FpuOn s) (hv : v = w) (h : readFcr n s = .ok v s) : Computes (.cfc1 rt n) s rt w := by
  subst hv
  refine computes_of_ok ((congrArg finish (needFpu_of_on hon _)).trans ?_)
  rw [h, andThen_ok, finish_ok]

/-- A read of a control register changes at most the model's counter of free values (U9). -/
theorem readFcr_ok (n : BitVec 5) (s : State) : ∃ v c, readFcr n s = .ok v { s with freeCtr := c } := by
  unfold readFcr
  split <;> exact ⟨_, _, rfl⟩

/-- CFC1 of any number changes the general register alone. -/
theorem cfc1_frame (hon : FpuOn s) (rt : GprNum) (n : BitVec 5) :
    Completes (.cfc1 rt n) s fun t =>
      (∀ m, m ≠ rt → t.readGpr m = s.readGpr m) ∧ t.cp0 = s.cp0 ∧ MovesOn s t ∧ SameMemory s t ∧ OnlyCp0 s t := by
  obtain ⟨v, c, hread⟩ := readFcr_ok n s
  have hexec : exec (.cfc1 rt n) s = .next (({ s with freeCtr := c } : State).putGpr rt v).advance :=
    (congrArg finish (needFpu_of_on hon _)).trans (by rw [hread, andThen_ok, finish_ok])
  obtain ⟨⟨-, -, hother⟩, hpc, hmem, honly⟩ := gpr_advance { s with freeCtr := c } rt v
  refine ⟨_, hexec, hother, by simp, hpc, hmem, ?_⟩
  rw [OnlyCp0, State.advance_cp0, State.putGpr_cp0, State.advance_freeCtr, State.putGpr_freeCtr]
  exact honly

/-- CTC1 leaves its value in FCSR, and traps where that has a trapping Cause bit (R764). -/
theorem ctc1_writes {w : Word} (hon : FpuOn s) (hw : s.writeFcr n (s.readGpr rt) = { s with fcsr := w }) :
    ((isSet w 17 = true ∨ ∃ k, k < 5 ∧ isSet w (12 + k) = true ∧ isSet w (7 + k) = true) →
      exec (.ctc1 rt n) s = .next (takeException .fpe { s with fcsr := w })) ∧
    (isSet w 17 = false → (∀ k, k < 5 → isSet w (12 + k) = true → isSet w (7 + k) = false) →
      Completes (.ctc1 rt n) s fun t =>
        t.fcsr = w ∧ t.fgr = s.fgr ∧ SameGprs s t ∧ MovesOn s t ∧ SameMemory s t ∧ OnlyFpu s t) := by
  have hexec : exec (.ctc1 rt n) s = finish (moveTrap { s with fcsr := w }) :=
    (congrArg finish (needFpu_of_on hon _)).trans (congrArg (finish ∘ moveTrap) hw)
  refine ⟨fun htrap => hexec.trans (congrArg finish (if_pos ((cause_trap_iff w).2 htrap))), fun hE hcause => ?_⟩
  have hquiet : ¬condsTrap (fcsrCause w) (fcsrEnables w) = true := by
    rw [cause_trap_iff]
    rintro (hset | ⟨k, hk, hset, henabled⟩)
    · exact absurd (hE.symm.trans hset) Bool.false_ne_true
    · exact absurd ((hcause k hk hset).symm.trans henabled) Bool.false_ne_true
  obtain ⟨hpc, hgpr, hmem, honly⟩ := fpu_advance (s := s) (u := { s with fcsr := w }) rfl
  exact ⟨_, hexec.trans (congrArg finish (if_neg hquiet)), State.advance_fcsr _, State.advance_fgr _, hgpr, hpc, hmem, honly⟩

/-- CTC1 of a number that names no register, or FIR, writes nothing (R802, U9). -/
theorem writeFcr_other (h25 : n ≠ 25) (h26 : n ≠ 26) (h28 : n ≠ 28) (h31 : n ≠ 31) (v : Word) : s.writeFcr n v = s := by
  unfold State.writeFcr
  split
  · next h => exact absurd (BitVec.eq_of_toNat_eq h) h25
  · next h => exact absurd (BitVec.eq_of_toNat_eq h) h26
  · next h => exact absurd (BitVec.eq_of_toNat_eq h) h28
  · next h => exact absurd (BitVec.eq_of_toNat_eq h) h31
  · rfl

end

/-- Settles O39: the moves, the views by their bits, and what each number writes. -/
theorem fpuTransfers : Obligations.FpuTransfers := by
  intro s rt fs hon v f writes
  have hset {w w' : Word} (h : w = w') : ({ s with fcsr := w } : State) = { s with fcsr := w' } := h ▸ rfl
  exact ⟨computes_of_ok (congrArg finish (needFpu_of_on hon _)), movesFgr_of_ok (congrArg finish (needFpu_of_on hon _)),
    computes_cfc1 hon rfl rfl, computes_cfc1 hon (fccrView_eq f) rfl, computes_cfc1 hon rfl rfl,
    computes_cfc1 hon (fenrView_eq f) rfl, computes_cfc1 hon rfl rfl, cfc1_frame hon rt fs,
    ctc1_writes hon rfl, ctc1_writes hon (hset (writeFccr_eq v f)), ctc1_writes hon (hset (writeFexr_eq v f)),
    ctc1_writes hon (hset (writeFenr_eq v f)),
    fun h25 h26 h28 h31 => ctc1_writes hon (writeFcr_other h25 h26 h28 h31 v)⟩

end Sys2Proof.Machine
end

section
/-! SUPPORT. FPU instructions that complete as R760 says: arithmetic, conversions and compares (R754, R760, R765 to R778,
R781 to R798, R825 to R841). -/

namespace Sys2Proof.Machine

open Sys2Proof

/-! ## Completion (R760) -/

theorem trapped_iff (conds : BitVec 6) (f : Word) : condsTrap conds (fcsrEnables f) = true ↔ Trapped conds f := by
  rw [condsTrap_iff]
  refine or_congr_right (exists_congr fun k => and_congr_right fun hk => ?_)
  simp [fcsrEnables, isSet, fieldOf, hk]

/-- Cause holds the conditions after a rewrite of Cause, and the other bits are as before. -/
theorem withCause_spec (f : Word) (conds : BitVec 6) :
    (∀ k, k < 6 → (withCause f conds).getLsbD (12 + k) = conds.getLsbD k) ∧
      withCause f conds &&& 0xFFFC0FFF = f &&& 0xFFFC0FFF := by
  refine ⟨fun k hk => ?_, putField_and (by decide)⟩
  have hbit := isSet_putField f 12 conds (show 12 + k < 32 by omega)
  rwa [if_pos (by omega), Nat.add_sub_cancel_left] at hbit

/-- FCSR after an untrapped completion. -/
theorem fcsrAfter_withFlags (f : Word) (conds : BitVec 6) :
    FcsrAfter conds fcsrRest f (withFlags (withCause f conds) conds) := by
  have hcause (k : Nat) (hk : k < 32) :
      isSet (withCause f conds) k = if 12 ≤ k ∧ k < 12 + 6 then isSet conds (k - 12) else isSet f k :=
    isSet_putField f 12 conds hk
  have hflags (k : Nat) (hk : k < 32) : isSet (withFlags (withCause f conds) conds) k =
      if 2 ≤ k ∧ k < 2 + 5 then isSet (fcsrFlags (withCause f conds) ||| fieldOf conds 0 5) (k - 2)
      else isSet (withCause f conds) k := isSet_putField _ 2 _ hk
  refine ⟨fun k hk => ?_, fun k hk => ?_, (putField_and (by decide)).trans (putField_and (by decide))⟩
  · have hbit := hflags (12 + k) (by omega)
    rwa [if_neg (by omega), hcause _ (by omega), if_pos (by omega), Nat.add_sub_cancel_left] at hbit
  · have hbit := hflags (2 + k) (by omega)
    rw [if_pos (by omega), Nat.add_sub_cancel_left, fcsrFlags, isSet_or, isSet_fieldOf, isSet_fieldOf, hcause _ (by omega),
      if_neg (by omega)] at hbit
    simpa [hk, isSet] using hbit

/-- The condition codes lie above Cause (R55). -/
theorem fccBit_bounds (cc : BitVec 3) : 23 ≤ fccBit cc ∧ fccBit cc < 32 := by revert cc; decide

/-- Setting a condition code afterwards changes no other bit. -/
theorem FcsrAfter.putFcc {conds : BitVec 6} {keep f w : Word} (h : FcsrAfter conds keep f w) (cc : BitVec 3) (b : Bool) :
    FcsrAfter conds (keep &&& ~~~((1 : Word) <<< fccPlace cc)) f (putBit w (fccBit cc) b) := by
  obtain ⟨hcause, hflags, hkeep⟩ := h
  have hplace := (fccBit_bounds cc).1
  have hother (k : Nat) (hk : k < 23) : (putBit w (fccBit cc) b).getLsbD k = w.getLsbD k :=
    (isSet_putBit w _ b (by omega)).trans (if_neg (by omega))
  have hmask : ∀ cc, ~~~((1 : Word) <<< fccPlace cc) &&& BitVec.twoPow 32 (fccBit cc) = 0#32 := by decide
  refine ⟨fun k hk => (hother _ (by omega)).trans (hcause k hk), fun k hk => (hother _ (by omega)).trans (hflags k hk), ?_⟩
  rw [putBit_and (by rw [BitVec.and_assoc, hmask]; exact BitVec.and_zero), ← BitVec.and_assoc, hkeep, BitVec.and_assoc]

/-- An instruction that completes as R760 says, with a result that is written to FPU registers or FCSR. -/
theorem fpuFinishes_of_completeFpu {i : Instr} {s t : State} {conds : BitVec 6} {keep : Word} {write : State → State}
    {W : State → Prop} (h : exec i s = finish (completeFpu conds write s))
    (hwrite : write { s with fcsr := withFlags (withCause s.fcsr conds) conds } = t)
    (ht : t = { s with fgr := t.fgr, fcsr := t.fcsr }) (hfcsr : FcsrAfter conds keep s.fcsr t.fcsr) (hW : W t.advance) :
    FpuFinishes i s conds keep W := by
  obtain ⟨hcause, hrest⟩ := withCause_spec s.fcsr conds
  obtain ⟨hpc, hgpr, hmem, honly⟩ := fpu_advance ht
  refine ⟨fun htrap => ⟨_, hcause, hrest, h.trans (congrArg finish (if_pos ((trapped_iff ..).2 htrap)))⟩, fun hquiet => ?_⟩
  refine ⟨_, h.trans (congrArg finish ((if_neg (mt (trapped_iff ..).1 hquiet)).trans (congrArg Res.done hwrite))), ?_⟩
  exact ⟨(State.advance_fcsr t).symm ▸ hfcsr, hW, hpc, hgpr, hmem, honly⟩

section
variable {i : Instr} {s : State} {regs : List FprNum} {fd : FprNum} {r r' : FpResult}

theorem finishesS_of_completeS (hon : FpuOn s) (heven : ∀ n ∈ regs, EvenReg n) (hr : r = r')
    (h : exec i s = fpuOp regs (completeS fd r s) s) : FinishesS i s fd r' := by
  subst hr
  exact fpuFinishes_of_completeFpu (h.trans (fpuOp_of_even hon heven _)) rfl rfl (fcsrAfter_withFlags ..)
    ((fgrHolds_putFgr _ fd _).of_eq rfl (State.advance_fgr _))

theorem finishesD_of_completeD (hon : FpuOn s) (heven : ∀ n ∈ regs, EvenReg n) (hr : r = r')
    (h : exec i s = fpuOp regs (completeD fd r s) s) : FinishesD i s fd r' := by
  subst hr
  exact fpuFinishes_of_completeFpu (h.trans (fpuOp_of_even hon heven _)) rfl rfl (fcsrAfter_withFlags ..)
    ((fprHolds_putFpr _ fd _).of_eq rfl (State.advance_fgr _))

end

/-! ## ABS and NEG (R754, R775 to R778) -/

theorem FpFmt.qnan_eq_quietNan {f : FpFmt} (hf : f ∈ fpFormats) (n : NanEncoding) : f.qnan n = quietNan f n := by
  simp only [fpFormats, List.mem_cons, List.mem_nil_iff, or_false] at hf
  rcases hf with rfl | rfl <;> cases n <;> decide

/-- A pattern with another sign bit, or the default QNaN. -/
theorem FpFmt.resign_eq {f : FpFmt} (hf : f ∈ fpFormats) (v : FpEnv) {x y : Nat} {neg : Bool}
    (hy : f.signOf neg + x % 2 ^ f.signBit = y) : f.resign v x neg = signResult f v.nanEncoding x y := by
  subst hy
  unfold FpFmt.resign signResult
  cases f.unpack v.nanEncoding x with
  | nan signalling => simp [FpFmt.nanResult, FpFmt.qnan_eq_quietNan hf]
  | inf neg => rfl
  | fin neg m e => rfl

/-- The top bit of a number inverted. -/
theorem xor_topBit {n x : Nat} (hx : x < 2 ^ (n + 1)) : x ^^^ 2 ^ n = (if !x.testBit n then 2 ^ n else 0) + x % 2 ^ n := by
  have hlow : x % 2 ^ n < 2 ^ n := Nat.mod_lt _ (by positivity)
  have hpow : 2 ^ (n + 1) = 2 * 2 ^ n := by rw [pow_succ']
  refine Nat.eq_of_testBit_eq fun j => ?_
  rw [Nat.testBit_xor, Nat.testBit_two_pow]
  rcases lt_trichotomy j n with hj | rfl | hj
  · have hne : ¬n = j := by omega
    cases x.testBit n <;> simp [hne, hj, Nat.testBit_two_pow_add_gt hj]
  · cases hb : x.testBit j <;> simp [Nat.testBit_two_pow_add_eq]
  · have hxj : x.testBit j = false := Nat.testBit_lt_two_pow (hx.trans_le (Nat.pow_le_pow_right (by omega) hj))
    have hsum : (if !x.testBit n then 2 ^ n else 0) + x % 2 ^ n < 2 ^ j := by
      refine lt_of_lt_of_le ?_ (Nat.pow_le_pow_right (by omega) hj : 2 ^ (n + 1) ≤ 2 ^ j)
      split <;> omega
    rw [hxj, Nat.testBit_lt_two_pow hsum, decide_eq_false (by omega)]
    rfl

section
variable (w : Word) (d : Dword)

theorem single_abs_bits : FpFmt.single.signOf false + w.toNat % 2 ^ FpFmt.single.signBit = (w &&& 0x7FFFFFFF).toNat :=
  (Nat.zero_add _).trans ((BitVec.toNat_and ..).trans (Nat.and_two_pow_sub_one_eq_mod w.toNat 31)).symm

theorem double_abs_bits :
    FpFmt.double.signOf false + d.toNat % 2 ^ FpFmt.double.signBit = (d &&& 0x7FFFFFFFFFFFFFFF).toNat :=
  (Nat.zero_add _).trans ((BitVec.toNat_and ..).trans (Nat.and_two_pow_sub_one_eq_mod d.toNat 63)).symm

theorem single_neg_bits :
    FpFmt.single.signOf (!FpFmt.single.neg w.toNat) + w.toNat % 2 ^ FpFmt.single.signBit = (w ^^^ 0x80000000).toNat :=
  ((BitVec.toNat_xor ..).trans (xor_topBit (n := 31) w.isLt)).symm

theorem double_neg_bits :
    FpFmt.double.signOf (!FpFmt.double.neg d.toNat) + d.toNat % 2 ^ FpFmt.double.signBit =
      (d ^^^ 0x8000000000000000).toNat :=
  ((BitVec.toNat_xor ..).trans (xor_topBit (n := 63) d.isLt)).symm

end

/-- Settles O40: every instruction completes with the result of its operation; ABS and NEG replace the sign bit. -/
theorem fpuArithmetic : Obligations.FpuArithmetic := by
  intro s ft fs fd hon ht hs hd v a b x y
  have hthree : ∀ n ∈ [ft, fs, fd], EvenReg n := by simp [ht, hs, hd]
  have htwo := forall_even_two hs hd
  have hsingle : FpFmt.single ∈ fpFormats := List.mem_cons_self
  have hdouble : FpFmt.double ∈ fpFormats := List.mem_cons_of_mem _ List.mem_cons_self
  exact ⟨finishesS_of_completeS hon hthree rfl rfl, finishesD_of_completeD hon hthree rfl rfl,
    finishesS_of_completeS hon hthree rfl rfl,
    finishesD_of_completeD hon hthree rfl rfl, finishesS_of_completeS hon hthree rfl rfl, finishesD_of_completeD hon hthree rfl rfl,
    finishesS_of_completeS hon hthree rfl rfl, finishesD_of_completeD hon hthree rfl rfl, finishesS_of_completeS hon htwo rfl rfl,
    finishesD_of_completeD hon htwo rfl rfl,
    finishesS_of_completeS hon htwo (FpFmt.resign_eq hsingle v (single_abs_bits _)) rfl,
    finishesD_of_completeD hon htwo (FpFmt.resign_eq hdouble v (double_abs_bits _)) rfl,
    finishesS_of_completeS hon htwo (FpFmt.resign_eq hsingle v (single_neg_bits _)) rfl,
    finishesD_of_completeD hon htwo (FpFmt.resign_eq hdouble v (double_neg_bits _)) rfl⟩

/-! ## Conversions (R781 to R798) -/

/-- Settles O44: every conversion completes with the result of its operation. -/
theorem fpuConversions : Obligations.FpuConversions := by
  intro s fs fd hon hs hd v a x rm
  have htwo := forall_even_two hs hd
  exact ⟨finishesS_of_completeS hon htwo rfl rfl, finishesS_of_completeS hon htwo rfl rfl, finishesD_of_completeD hon htwo rfl rfl,
    finishesD_of_completeD hon htwo rfl rfl, finishesS_of_completeS hon htwo rfl rfl, finishesS_of_completeS hon htwo rfl rfl,
    finishesS_of_completeS hon htwo rfl rfl, finishesS_of_completeS hon htwo rfl rfl, finishesS_of_completeS hon htwo rfl rfl,
    finishesS_of_completeS hon htwo rfl rfl, finishesS_of_completeS hon htwo rfl rfl, finishesS_of_completeS hon htwo rfl rfl,
    finishesS_of_completeS hon htwo rfl rfl, finishesS_of_completeS hon htwo rfl rfl⟩

/-! ## Compares (R825 to R841) -/

theorem FpVal.isSnan_iff (a : FpVal) : a.isSnan = true ↔ a = .nan true := by
  cases a <;> simp [FpVal.isSnan]

section
variable (f : FpFmt) (n : NanEncoding) (cond : BitVec 4) (x y : Nat)

/-- A compare holds as its condition says of the order of the two numbers. -/
theorem FpFmt.compare_holds_iff :
    (f.compare n cond x y).1 = true ↔
      (cond.getLsbD 2 = true ∧
        ∃ p q, (f.unpack n x).number = some p ∧ (f.unpack n y).number = some q ∧ p < q) ∨
      (cond.getLsbD 1 = true ∧ ∃ p, (f.unpack n x).number = some p ∧ (f.unpack n y).number = some p) ∨
      (cond.getLsbD 0 = true ∧ ((f.unpack n x).number = none ∨ (f.unpack n y).number = none)) := by
  rw [← FpVal.lt_iff, ← FpVal.equal_iff, FpVal.number_none, FpVal.number_none, ← Bool.or_eq_true (f.unpack n x).isNan,
    ← Bool.and_eq_true, ← Bool.and_eq_true, ← Bool.and_eq_true, ← Bool.or_eq_true, ← Bool.or_eq_true, ← Bool.or_assoc]
  rfl

/-- A compare signals V for signalling NaNs, and with the upper eight conditions for any NaN. -/
theorem FpFmt.compare_signals_iff :
    (f.compare n cond x y).2 = true ↔
      f.unpack n x = .nan true ∨ f.unpack n y = .nan true ∨
        (cond.getLsbD 3 = true ∧ ((f.unpack n x).number = none ∨ (f.unpack n y).number = none)) := by
  rw [← FpVal.isSnan_iff, ← FpVal.isSnan_iff, FpVal.number_none, FpVal.number_none,
    ← Bool.or_eq_true (f.unpack n x).isNan, ← Bool.and_eq_true, ← Bool.or_eq_true, ← Bool.or_eq_true, ← Bool.or_assoc]
  rfl

end

/-- An instruction that compares two patterns. -/
theorem comparesAs_of_compare {i : Instr} {s : State} {ft fs : FprNum} {cc : BitVec 3} {f : FpFmt} {n : NanEncoding}
    {cond : BitVec 4} {x y : Nat} (hon : FpuOn s) (ht : EvenReg ft) (hs : EvenReg fs)
    (h : exec i s = fpuOp [ft, fs] (completeFpu (if (f.compare n cond x y).2 then condV else 0)
      (fun t => t.putFcc cc (f.compare n cond x y).1) s) s) :
    ComparesAs i s cond cc (f.unpack n x) (f.unpack n y) := by
  intro conds hsignal hquiet
  have hconds : (if (f.compare n cond x y).2 then condV else 0) = conds := by
    by_cases hv : (f.compare n cond x y).2 = true
    · exact (if_pos hv).trans (hsignal ((f.compare_signals_iff ..).1 hv)).symm
    · exact (if_neg hv).trans (hquiet (mt (f.compare_signals_iff ..).2 hv)).symm
  rw [hconds] at h
  refine fpuFinishes_of_completeFpu (h.trans (fpuOp_of_even hon (forall_even_two ht hs) _)) rfl rfl
    ((fcsrAfter_withFlags ..).putFcc cc _) ⟨?_, State.advance_fgr _⟩
  have hcode := isSet_putBit (withFlags (withCause s.fcsr conds) conds) (fccBit cc) (f.compare n cond x y).1 (fccBit_bounds cc).2
  rw [if_pos rfl] at hcode
  rw [State.advance_fcsr, ← f.compare_holds_iff]
  exact iff_of_eq (congrArg (· = true) hcode)

/-- Settles O45: every compare is the comparison of the two patterns under the condition its number says. -/
theorem fpuCompares : Obligations.FpuCompares := by
  intro s ft fs cc hon ht hs a b x y
  have hcmp {i : Instr} {f : FpFmt} {n : NanEncoding} {cond : BitVec 4} {p q : Nat} (h) :=
    comparesAs_of_compare (i := i) (cc := cc) (f := f) (n := n) (cond := cond) (x := p) (y := q) hon ht hs h
  exact ⟨⟨hcmp rfl, hcmp rfl, hcmp rfl, hcmp rfl, hcmp rfl, hcmp rfl, hcmp rfl, hcmp rfl, hcmp rfl, hcmp rfl, hcmp rfl, hcmp rfl,
    hcmp rfl, hcmp rfl, hcmp rfl, hcmp rfl⟩, hcmp rfl, hcmp rfl, hcmp rfl, hcmp rfl, hcmp rfl, hcmp rfl, hcmp rfl, hcmp rfl,
    hcmp rfl, hcmp rfl, hcmp rfl, hcmp rfl, hcmp rfl, hcmp rfl, hcmp rfl, hcmp rfl⟩

end Sys2Proof.Machine
end

section
/-! SUPPORT. Loads and stores of FPU registers that reach plain memory, with the moves of DMA channels between the two accesses of a
doubleword (R806 to R809, R1055). -/

namespace Sys2Proof.Machine

open Sys2Proof

/-! ## Bytes of doublewords (R400) -/

theorem byteOf_fieldOf (v : Dword) (lo : Nat) {j : Nat} (hj : j < 4) :
    byteOf (fieldOf v lo 32) j = v.extractLsb' (lo + 8 * j) 8 := by
  refine BitVec.eq_of_getLsbD_eq fun k hk => ?_
  have hin : 8 * j + k < 32 := by omega
  simp [byteOf, fieldOf, hk, hin, Nat.add_assoc]

/-- A whole word stored changes its four bytes. -/
theorem Memory.read_writeWord {m : List Cell} (hm : Memory.wf m) (a : Nat) (w : Word) (x : Nat) :
    Memory.read (Memory.writeLanes m a 0xF w) x = if a ≤ x ∧ x < a + 4 then byteOf w (x - a) else Memory.read m x := by
  have hlanes : ∀ j, j < 4 → isSet (0xF#4) j = true := by decide
  rw [Memory.read_lanes m hm a 0xF w w a (a + 4) 0 (fun j hj => ⟨by simp [hlanes j hj, hj], fun _ => ?_⟩) ⟨le_rfl, le_rfl⟩ x]
  · rw [Nat.zero_add, byteOf]
  · rw [Nat.zero_add, Nat.add_sub_cancel_left, byteOf]

/-! ## Doubleword accesses (R401, R804, R1055) -/

section
variable {s u : State} {va pa : Word} {k : Access}

/-- The two words of a doubleword lie at its address and four bytes above. -/
theorem reaches_doubleword (h : Reaches s va k 8 pa) :
    wordAddr pa = pa.toNat ∧ (pa + 4).toNat = pa.toNat + 4 ∧ wordAddr (pa + 4) = pa.toNat + 4 := by
  have hlow := h.low
  have haligned : va.toNat % 8 = 0 := h.1
  have hnext : (pa + 4).toNat = pa.toNat + 4 := by bv_omega
  rw [wordAddr_eq, wordAddr_eq, hnext]
  omega

/-- A doubleword load: the low word from the state before the moves, the high word from the state after them. -/
theorem memRead64_plain (h : Reaches s va .load 8 pa) (hu : runBetween (pa + 4) s = .ok () u)
    (hp : PlainRam u (pa.toNat + 4)) : memRead64 va s = .ok (wordAt u (pa.toNat + 4) ++ wordAt s pa.toNat) u := by
  obtain ⟨hlo, -, hhi⟩ := reaches_doubleword h
  obtain ⟨ha, ⟨c, ht⟩, hplain⟩ := h
  rw [memRead64, if_neg (not_not.2 ha), ht, andThen_ok, busRead_plain hplain, andThen_ok, hu, andThen_ok,
    busRead_plain (hhi.symm ▸ hp), hlo, hhi]
  rfl

/-- A doubleword store: the low word before the moves, the high word after them. -/
theorem memWrite64_plain {v : Dword} (h : Reaches s va .store 8 pa)
    (hu : runBetween (pa + 4) { s with mem := Memory.writeLanes s.mem pa.toNat 0xF (v.extractLsb' 0 32) } = .ok () u)
    (hp : PlainRam u (pa.toNat + 4)) :
    memWrite64 va v s = .done { u with mem := Memory.writeLanes u.mem (pa.toNat + 4) 0xF (fieldOf v 32 32) } := by
  obtain ⟨hlo, -, hhi⟩ := reaches_doubleword h
  obtain ⟨ha, ⟨c, ht⟩, hplain⟩ := h
  have hfirst : busWrite pa (.word (fieldOf v 0 32)) s =
      .done { s with mem := Memory.writeLanes s.mem pa.toNat 0xF (v.extractLsb' 0 32) } := by
    rw [busWrite_plain hplain, hlo]
    rfl
  rw [memWrite64, if_neg (not_not.2 ha), ht, andThen_ok, hfirst, andThen_ok, hu, andThen_ok, busWrite_plain (hhi.symm ▸ hp), hhi]
  rfl

end

/-! ## The instructions -/

section
variable {s u : State} {base : GprNum} {ft : FprNum} {offset : BitVec 16} {pa : Word}

theorem forall_even_one {a : FprNum} (ha : EvenReg a) : ∀ n ∈ [a], EvenReg n := by simp [ha]

/-- LWC1 from plain memory. -/
theorem exec_lwc1 (hon : FpuOn s) (h : Reaches s (s.effAddr base offset) .load 4 pa) :
    exec (.lwc1 base ft offset) s = .next (s.putFgr ft (wordAt s pa.toNat)).advance := by
  refine (congrArg finish (needFpu_of_on hon _)).trans ?_
  rw [memRead_plain h, andThen_ok, finish_ok, h.wordAddr]
  rfl

/-- LDC1 from plain memory, u the state at its second access. -/
theorem exec_ldc1 (hon : FpuOn s) (hft : EvenReg ft) (h : Reaches s (s.effAddr base offset) .load 8 pa)
    (hu : runBetween (pa + 4) s = .ok () u) (hp : PlainRam u (pa.toNat + 4)) :
    exec (.ldc1 base ft offset) s =
      .next (u.putFpr ft (wordAt u (pa.toNat + 4) ++ wordAt s pa.toNat)).advance := by
  refine (fpuOp_of_even hon (forall_even_one hft) _).trans ?_
  rw [memRead64_plain h hu hp, andThen_ok, finish_ok]

/-- LDC1 with moves between its accesses, which leave the CPU alone. -/
theorem ldc1_between (hon : FpuOn s) (hft : EvenReg ft) (h : Reaches s (s.effAddr base offset) .load 8 pa)
    (hu : runBetween (pa + 4) s = .ok () u) (hp : PlainRam u (pa.toNat + 4)) :
    Completes (.ldc1 base ft offset) s fun t =>
      FprHolds ft (wordAt u (pa.toNat + 4) ++ wordAt s pa.toNat) s t ∧ MovesOn s t ∧ OnlyFgr u t := by
  have hcpu := ((runBetween_kept ..).1 _ _ hu).cpu
  obtain ⟨-, -, -, honly⟩ := fgr_advance (s := u) (u := u.putFpr ft (wordAt u (pa.toNat + 4) ++ wordAt s pa.toNat)) rfl
  exact ⟨_, exec_ldc1 hon hft h hu hp, (fprHolds_putFpr ..).of_eq hcpu.fgr.symm (State.advance_fgr _),
    .of_same hcpu.pc hcpu.slot, honly⟩

/-- SDC1 with moves between its accesses: the state u at the second one holds the low word already. -/
theorem sdc1_between (hon : FpuOn s) (hft : EvenReg ft) (hm : MemoryLegal s)
    (h : Reaches s (s.effAddr base offset) .store 8 pa)
    (hu : runBetween (pa + 4) { s with mem := Memory.writeLanes s.mem pa.toNat 0xF ((s.readFpr ft).extractLsb' 0 32) } = .ok () u)
    (hp : PlainRam u (pa.toNat + 4)) :
    Completes (.sdc1 base ft offset) s fun t =>
      (∀ a, Memory.read t.mem a =
        if pa.toNat + 4 ≤ a ∧ a < pa.toNat + 8 then (s.readFpr ft).extractLsb' (8 * (a - pa.toNat)) 8
        else Memory.read u.mem a) ∧
      SameGprs s t ∧ MovesOn s t ∧ OnlyMemory u t := by
  obtain ⟨hcpu, hlegal⟩ := (runBetween_kept ..).1 _ _ hu
  have hexec := (fpuOp_of_even hon (forall_even_one hft) _).trans (congrArg finish (memWrite64_plain h hu hp))
  refine ⟨_, hexec, fun a => ?_, .of_eq ((State.advance_gpr _).trans hcpu.gpr), .of_same hcpu.pc hcpu.slot, ?_⟩
  · have hfirst := Memory.wf_writeLanes hm.1 pa.toNat 0xF ((s.readFpr ft).extractLsb' 0 32)
    obtain ⟨hwf, -⟩ := hlegal ⟨hfirst, hm.2⟩
    refine (congrArg (Memory.read · a) (State.advance_mem _)).trans ((Memory.read_writeWord hwf ..).trans ?_)
    by_cases ha : pa.toNat + 4 ≤ a ∧ a < pa.toNat + 8
    · have hoffset : 32 + 8 * (a - (pa.toNat + 4)) = 8 * (a - pa.toNat) := by omega
      exact (if_pos ha).trans ((byteOf_fieldOf _ _ (by omega)).trans (hoffset ▸ (if_pos ha).symm))
    · exact (if_neg ha).trans (if_neg ha).symm
  · rw [OnlyMemory, State.advance_mem]
    exact State.advance_eq _

/-- SDC1 without moves between its accesses stores the eight bytes. -/
theorem sdc1_plain (hon : FpuOn s) (hft : EvenReg ft) (hm : MemoryLegal s)
    (h : Reaches s (s.effAddr base offset) .store 8 pa) (hp : PlainRam s (pa.toNat + 4)) (hb : s.between = []) :
    Completes (.sdc1 base ft offset) s fun t =>
      (∀ a, Memory.read t.mem a =
        if pa.toNat ≤ a ∧ a < pa.toNat + 8 then (s.readFpr ft).extractLsb' (8 * (a - pa.toNat)) 8
        else Memory.read s.mem a) ∧
      SameGprs s t ∧ MovesOn s t ∧ OnlyMemory s t := by
  obtain ⟨t, hexec, hmem, hgpr, hpc, honly⟩ := sdc1_between hon hft hm h (runBetween_none (pa + 4) hb) hp
  refine ⟨t, hexec, fun a => (hmem a).trans ?_, hgpr, hpc, honly⟩
  by_cases hhigh : pa.toNat + 4 ≤ a ∧ a < pa.toNat + 8
  · rw [if_pos hhigh, if_pos (by omega)]
  · rw [if_neg hhigh]
    refine (Memory.read_writeWord hm.1 ..).trans ?_
    split
    · next ha =>
      rw [if_pos (by omega)]
      exact (byteOf_fieldOf _ 0 (by omega)).trans (by rw [Nat.zero_add])
    · next ha => rw [if_neg (by omega)]

end

/-- Settles O24: words, doublewords without moves between their accesses, and doublewords with them. -/
theorem fpuLoadsStores : Obligations.FpuLoadsStores := by
  intro s base ft offset pa hon va
  refine ⟨fun h => movesFgr_of_ok (exec_lwc1 hon h), fun hm h => ?swc1, fun hft h hp hb => ?ldc1, fun hft hm h hp hb => ?sdc1,
    fun u hft h hu hp => ldc1_between hon hft h hu hp, fun u hft hm h hu hp => sdc1_between hon hft hm h hu hp⟩
  case swc1 => exact storesBytes_of_write h (congrArg finish (needFpu_of_on hon _)) (read_storedWord hm h _)
  case ldc1 => exact movesFpr_of_ok (exec_ldc1 hon hft h (runBetween_none (pa + 4) hb) hp)
  case sdc1 => exact sdc1_plain hon hft hm h hp hb

end Sys2Proof.Machine
end

section
/-! SUPPORT. Operations on special operands: NaNs, infinities, zeros, and sums that are exactly zero (R754, R755, R761, R762, R781 to
R784). -/

namespace Sys2Proof.Machine

open Sys2Proof

section
variable {f : FpFmt} {v : FpEnv} {x y : Nat}

/-! ## NaNs (R754) -/

/-- The default QNaN, with V when one of two values is signalling. -/
theorem FpFmt.nanResult_eq (hf : f ∈ fpFormats) (a b : FpVal) :
    f.nanResult v (a.isSnan || b.isSnan) =
      { conds := if a = .nan true ∨ b = .nan true then condV else 0, bits := quietNan f v.nanEncoding } := by
  rw [FpFmt.nanResult, FpFmt.qnan_eq_quietNan hf]
  simp only [Bool.or_eq_true, FpVal.isSnan_iff]

theorem FpFmt.nanResult_one (hf : f ∈ fpFormats) (a : FpVal) :
    f.nanResult v a.isSnan = { conds := if a = .nan true then condV else 0, bits := quietNan f v.nanEncoding } := by
  rw [FpFmt.nanResult, FpFmt.qnan_eq_quietNan hf]
  simp only [FpVal.isSnan_iff]

theorem FpFmt.invalid_eq (hf : f ∈ fpFormats) : f.invalid v = { conds := condV, bits := quietNan f v.nanEncoding } := by
  rw [FpFmt.invalid, FpFmt.qnan_eq_quietNan hf]

theorem FpVal.isNan_iff (a : FpVal) : a.isNan = true ↔ a = .nan true ∨ a = .nan false := by
  cases a with
  | nan signalling => cases signalling <;> simp [FpVal.isNan]
  | inf neg => simp [FpVal.isNan]
  | fin neg m e => simp [FpVal.isNan]

/-- The operations of two operands give the NaN result as soon as one of them is a NaN. -/
theorem FpFmt.nan_operand (hx : f.stopsOn v x = false) (hy : f.stopsOn v y = false)
    (h : (f.operand v x).isNan = true ∨ (f.operand v y).isNan = true) (sub : Bool) :
    let r := f.nanResult v ((f.operand v x).isSnan || (f.operand v y).isSnan)
    f.add v sub x y = r ∧ f.mul v x y = r ∧ f.div v x y = r := by
  simp only [FpFmt.add, FpFmt.mul, FpFmt.div, hx, hy, Bool.or_self, Bool.false_eq_true, if_false]
  cases ha : f.operand v x with
  | nan s => exact ⟨rfl, rfl, rfl⟩
  | inf na =>
    cases hb : f.operand v y with
    | nan t => simp [FpVal.isSnan]
    | inf nb => simp [ha, hb, FpVal.isNan] at h
    | fin nb m e => simp [ha, hb, FpVal.isNan] at h
  | fin na m e =>
    cases hb : f.operand v y with
    | nan t => simp [FpVal.isSnan]
    | inf nb => simp [ha, hb, FpVal.isNan] at h
    | fin nb m e => simp [ha, hb, FpVal.isNan] at h

/-- So do those of one operand. -/
theorem FpFmt.nan_single (hx : f.stopsOn v x = false) (h : (f.operand v x).isNan = true) (g : FpFmt) :
    f.sqrt v x = f.nanResult v (f.operand v x).isSnan ∧ f.convert g v x = g.nanResult v (f.operand v x).isSnan := by
  simp only [FpFmt.sqrt, FpFmt.convert, hx, Bool.false_eq_true, if_false]
  cases ha : f.operand v x with
  | nan s => exact ⟨rfl, rfl⟩
  | inf na => simp [ha, FpVal.isNan] at h
  | fin na m e => simp [ha, FpVal.isNan] at h

/-! ## Infinities and zeros (R755, R761, R762) -/

theorem FpFmt.inf_inf (hx : f.stopsOn v x = false) (hy : f.stopsOn v y = false) {na nb : Bool}
    (ha : f.operand v x = .inf na) (hb : f.operand v y = .inf nb) :
    (∀ sub, f.add v sub x y = if na = (nb ^^ sub) then .exact (f.infinity na) else f.invalid v) ∧
      f.mul v x y = .exact (f.infinity (na ^^ nb)) ∧ f.div v x y = f.invalid v := by
  simp [FpFmt.add, FpFmt.mul, FpFmt.div, hx, hy, ha, hb]

theorem FpFmt.inf_fin (hx : f.stopsOn v x = false) (hy : f.stopsOn v y = false) {na nb : Bool} {m : Nat} {e : Int}
    (ha : f.operand v x = .inf na) (hb : f.operand v y = .fin nb m e) :
    (∀ sub, f.add v sub x y = .exact (f.infinity na)) ∧
      f.mul v x y = (if m = 0 then f.invalid v else .exact (f.infinity (na ^^ nb))) ∧
      f.div v x y = .exact (f.infinity (na ^^ nb)) := by
  simp [FpFmt.add, FpFmt.mul, FpFmt.div, hx, hy, ha, hb]

theorem FpFmt.fin_inf (hx : f.stopsOn v x = false) (hy : f.stopsOn v y = false) {na nb : Bool} {m : Nat} {e : Int}
    (ha : f.operand v x = .fin na m e) (hb : f.operand v y = .inf nb) :
    (∀ sub, f.add v sub x y = .exact (f.infinity (nb ^^ sub))) ∧
      f.mul v x y = (if m = 0 then f.invalid v else .exact (f.infinity (na ^^ nb))) ∧
      f.div v x y = .exact (f.zero (na ^^ nb)) := by
  simp [FpFmt.add, FpFmt.mul, FpFmt.div, hx, hy, ha, hb]

section
variable {na nb : Bool} {m n : Nat} {e k : Int}

/-- Two finite operands: each operation by its finite part. -/
theorem FpFmt.fin_fin (hx : f.stopsOn v x = false) (hy : f.stopsOn v y = false) (ha : f.operand v x = .fin na m e)
    (hb : f.operand v y = .fin nb n k) :
    (∀ sub, f.add v sub x y = f.addFinite v na m e (nb ^^ sub) n k) ∧
      f.mul v x y = (if m = 0 ∨ n = 0 then .exact (f.zero (na ^^ nb)) else f.round v (na ^^ nb) (m * n) (e + k) false) ∧
      f.div v x y =
        (if n = 0 then if m = 0 then f.invalid v else { conds := condZ, bits := f.infinity (na ^^ nb) }
        else if m = 0 then .exact (f.zero (na ^^ nb)) else f.divFinite v (na ^^ nb) m n (e - k)) := by
  simp [FpFmt.add, FpFmt.mul, FpFmt.div, hx, hy, ha, hb]

/-- A sum that is exactly zero. -/
theorem FpFmt.addFinite_zero (h : (FpVal.fin na m e).rat + (FpVal.fin nb n k).rat = 0) :
    f.addFinite v na m e nb n k = .exact (f.zero (if na = nb then na else v.rm == 3)) := by
  rw [← scale_signed na m (min_le_left e k), ← scale_signed nb n (min_le_right e k), ← add_mul, ← Int.cast_add,
    mul_eq_zero, or_iff_left (zpow_ne_zero _ two_ne_zero), Int.cast_eq_zero] at h
  exact if_pos h

end

/-! Square roots and conversions -/

theorem FpFmt.sqrt_inf (hx : f.stopsOn v x = false) {neg : Bool} (ha : f.operand v x = .inf neg) :
    f.sqrt v x = if neg then f.invalid v else .exact (f.infinity false) := by
  simp [FpFmt.sqrt, hx, ha]

theorem FpFmt.sqrt_zero (hx : f.stopsOn v x = false) {neg : Bool} {e : Int} (ha : f.operand v x = .fin neg 0 e) :
    f.sqrt v x = .exact (f.zero neg) := by
  simp [FpFmt.sqrt, hx, ha]

theorem FpFmt.sqrt_negative (hx : f.stopsOn v x = false) {m : Nat} {e : Int} (ha : f.operand v x = .fin true m e)
    (hm : m ≠ 0) : f.sqrt v x = f.invalid v := by
  simp [FpFmt.sqrt, hx, ha, hm]

theorem FpFmt.convert_inf (hx : f.stopsOn v x = false) {neg : Bool} (ha : f.operand v x = .inf neg) (g : FpFmt) :
    f.convert g v x = .exact (g.infinity neg) := by
  simp [FpFmt.convert, hx, ha]

theorem FpFmt.convert_zero (hx : f.stopsOn v x = false) {neg : Bool} {e : Int} (ha : f.operand v x = .fin neg 0 e)
    (g : FpFmt) : f.convert g v x = .exact (g.zero neg) := by
  simp [FpFmt.convert, hx, ha]

end

/-- Settles O42, by the kinds of the operands. -/
theorem fpuSpecialOperands : Obligations.FpuSpecialOperands := by
  intro f v x y hf hx hy a b quiet invalid exact' isNan
  have hinv : f.invalid v = invalid := FpFmt.invalid_eq hf
  have hsnan : ∀ z : FpVal, isNan z → z.isNan = true := fun z => (FpVal.isNan_iff z).2
  refine ⟨fun h => ?nan, fun h => ?sqrtNan, fun na nb ha hb => ?infInf, fun na nb m e ha hb => ?infFin,
    fun na nb m e ha hb => ?finInf, fun na nb m e k ha hb => ?byZero, fun na nb m n e k ha hb hzero => ?zero,
    fun na nb m n e k ha hb hsum => ?sum, fun na nb m n e k ha hb hdiff => ?difference,
    fun g hg => ⟨fun h => ?convertNan, fun neg ha => FpFmt.convert_inf hx ha g, fun neg e ha => FpFmt.convert_zero hx ha g⟩, rfl,
    fun neg ha => ?sqrtInf, fun neg m e ha => ⟨?sqrtZero, ?sqrtNegative⟩⟩
  case nan =>
    have hres := FpFmt.nan_operand hx hy (h.imp (hsnan a) (hsnan b))
    rw [FpFmt.nanResult_eq hf] at hres
    exact ⟨(hres false).1, (hres true).1, (hres false).2⟩
  case sqrtNan => exact (FpFmt.nan_single hx (hsnan a h) f).1.trans (FpFmt.nanResult_one hf a)
  case infInf =>
    obtain ⟨hadd, hmul, hdiv⟩ := FpFmt.inf_inf hx hy ha hb
    rw [hinv] at hadd hdiv
    refine ⟨(hadd false).trans (by rw [Bool.xor_false]; rfl), (hadd true).trans ?_, hmul, hdiv⟩
    cases na <;> cases nb <;> rfl
  case infFin =>
    obtain ⟨hadd, hmul, hdiv⟩ := FpFmt.inf_fin hx hy ha hb
    exact ⟨hadd false, hadd true, hinv ▸ hmul, hdiv⟩
  case finInf =>
    obtain ⟨hadd, hmul, hdiv⟩ := FpFmt.fin_inf hx hy ha hb
    exact ⟨(hadd false).trans (by rw [Bool.xor_false]; rfl), (hadd true).trans (by rw [Bool.xor_true]; rfl), hinv ▸ hmul, hdiv⟩
  case byZero => exact (FpFmt.fin_fin hx hy ha hb).2.2.trans ((if_pos rfl).trans (by rw [hinv]))
  case zero =>
    obtain ⟨-, hmul, hdiv⟩ := FpFmt.fin_fin hx hy ha hb
    refine ⟨hmul.trans (if_pos hzero), fun hn => hdiv.trans ((if_neg hn).trans (if_pos (hzero.resolve_right hn)))⟩
  case sum =>
    rw [ha, hb] at hsum
    rw [(FpFmt.fin_fin hx hy ha hb).1 false, Bool.xor_false]
    exact FpFmt.addFinite_zero hsum
  case difference =>
    rw [ha, hb, sub_eq_add_neg, ← FpVal.rat_not] at hdiff
    rw [(FpFmt.fin_fin hx hy ha hb).1 true, Bool.xor_true]
    refine (FpFmt.addFinite_zero hdiff).trans ?_
    cases na <;> cases nb <;> rfl
  case convertNan => exact (FpFmt.nan_single hx (hsnan a h) g).2.trans (FpFmt.nanResult_one hg a)
  case sqrtInf => exact (FpFmt.sqrt_inf hx ha).trans (by rw [hinv]; rfl)
  case sqrtZero =>
    rintro rfl
    exact FpFmt.sqrt_zero hx ha
  case sqrtNegative =>
    rintro hm rfl
    exact (FpFmt.sqrt_negative hx ha hm).trans hinv

end Sys2Proof.Machine
end

section
/-! SUPPORT. Every nonzero result of finite operands is Round of one exact value, given by its sign and a bounded magnitude (R755,
R765 to R774, R781 to R784). -/

namespace Sys2Proof.Machine

open Sys2Proof

/-! ## The magnitude an operation rounds -/

/-- The magnitude R is m * 2^e, or a little more when sticky; then m has more than b bits. -/
structure Magnitude (b : Nat) (R : ℝ) (m : Nat) (e : Int) (sticky : Bool) : Prop where
  ne : m ≠ 0
  lo : (m : ℝ) * (2 : ℝ) ^ e ≤ R
  hi : R < (m + 1) * (2 : ℝ) ^ e
  exact : sticky = false ↔ R = (m : ℝ) * (2 : ℝ) ^ e
  bits : sticky = true → b < Nat.log2 m + 1

theorem Magnitude.of_exact {b m : Nat} {e : Int} (hm : m ≠ 0) : Magnitude b (m * (2 : ℝ) ^ e) m e false :=
  ⟨hm, le_rfl, mul_lt_mul_of_pos_right (lt_add_one _) (by positivity), by simp, by simp⟩

/-- A magnitude from the integer part of its multiple of a power of two, which has enough bits. -/
theorem Magnitude.of_integerPart {b q : Nat} {e : Int} {sticky : Bool} {Q : ℝ} (hq : 2 ^ b ≤ q) (hlo : (q : ℝ) ≤ Q)
    (hhi : Q < q + 1) (hst : sticky = false ↔ Q = q) : Magnitude b (Q * (2 : ℝ) ^ e) q e sticky := by
  have hE : (0 : ℝ) < (2 : ℝ) ^ e := by positivity
  have hq0 : q ≠ 0 := (lt_of_lt_of_le (by positivity) hq).ne'
  exact ⟨hq0, mul_le_mul_of_nonneg_right hlo hE.le, mul_lt_mul_of_pos_right hhi hE,
    hst.trans (mul_left_inj' hE.ne').symm, fun _ => Nat.lt_succ_of_le ((Nat.le_log2 hq0).2 hq)⟩

theorem Magnitude.pos {b m : Nat} {R : ℝ} {e : Int} {sticky : Bool} (h : Magnitude b R m e sticky) : 0 < R := by
  have hm : (0 : ℝ) < m := by exact_mod_cast Nat.pos_of_ne_zero h.ne
  exact lt_of_lt_of_le (by positivity) h.lo

/-- A quotient and the integer part that the model rounds (R771). -/
theorem quotient_magnitude (b : Nat) {ma mb : Nat} (e : Int) (ha : ma ≠ 0) (hb : mb ≠ 0) {k : Nat}
    (hk : b + Nat.log2 mb + 1 ≤ k) :
    Magnitude b ((ma : ℝ) / mb * (2 : ℝ) ^ e) (ma * 2 ^ k / mb) (e - k) (ma * 2 ^ k % mb != 0) := by
  have hb0 : (mb : ℝ) ≠ 0 := by exact_mod_cast hb
  have hscale : (ma : ℝ) / mb * (2 : ℝ) ^ e = ((ma * 2 ^ k : Nat) : ℝ) / mb * (2 : ℝ) ^ (e - k) := by
    rw [zpow_sub₀ two_ne_zero, zpow_natCast]
    push_cast
    field_simp
  have hbits : 2 ^ b * mb ≤ ma * 2 ^ k :=
    calc 2 ^ b * mb ≤ 2 ^ b * 2 ^ (Nat.log2 mb + 1) := Nat.mul_le_mul_left _ Nat.lt_log2_self.le
      _ = 2 ^ (b + Nat.log2 mb + 1) := by rw [← pow_add, Nat.add_assoc]
      _ ≤ 2 ^ k := Nat.pow_le_pow_right two_pos hk
      _ ≤ ma * 2 ^ k := Nat.le_mul_of_pos_left _ (Nat.pos_of_ne_zero ha)
  rw [hscale]
  refine .of_integerPart ((Nat.le_div_iff_mul_le (Nat.pos_of_ne_zero hb)).2 hbits) Nat.cast_div_le ?_ ?_
  · have := Nat.lt_floor_add_one (((ma * 2 ^ k : Nat) : ℝ) / mb)
    rwa [Nat.floor_div_eq_div] at this
  · rw [bne_eq_false_iff_eq, ← Nat.dvd_iff_mod_eq_zero, div_eq_iff hb0]
    exact ⟨fun hd => by exact_mod_cast (Nat.div_mul_cancel hd).symm, fun hc => Dvd.intro_left _ (by exact_mod_cast hc.symm)⟩

/-- A root and the integer root that the model rounds (R773). -/
theorem root_magnitude (b : Nat) {m k : Nat} {e : Int} (hm : m ≠ 0) (hk : 2 * b ≤ k) (heven : (e - k) % 2 = 0) :
    Magnitude b (Real.sqrt (m * (2 : ℝ) ^ e)) (isqrt (m * 2 ^ k)) ((e - k) / 2)
      (isqrt (m * 2 ^ k) * isqrt (m * 2 ^ k) != m * 2 ^ k) := by
  obtain ⟨d, hd⟩ := Int.dvd_of_emod_eq_zero heven
  have hroot : Real.sqrt (m * (2 : ℝ) ^ e) = Real.sqrt (m * 2 ^ k : Nat) * (2 : ℝ) ^ d := by
    have hpos : (0 : ℝ) < (2 : ℝ) ^ d := by positivity
    have hsq : (m : ℝ) * (2 : ℝ) ^ e = (m * 2 ^ k : Nat) * ((2 : ℝ) ^ d * (2 : ℝ) ^ d) := by
      rw [← zpow_add₀ two_ne_zero, show d + d = e - k by omega, zpow_sub₀ two_ne_zero, zpow_natCast]
      push_cast
      field_simp
    rw [hsq, Real.sqrt_mul (Nat.cast_nonneg _), Real.sqrt_mul_self hpos.le]
  have hbits : 2 ^ b * 2 ^ b ≤ m * 2 ^ k :=
    calc 2 ^ b * 2 ^ b = 2 ^ (2 * b) := by rw [← pow_add, two_mul]
      _ ≤ 2 ^ k := Nat.pow_le_pow_right two_pos hk
      _ ≤ m * 2 ^ k := Nat.le_mul_of_pos_left _ (Nat.pos_of_ne_zero hm)
  rw [isqrt_eq_sqrt, show (e - k) / 2 = d by omega, hroot]
  refine .of_integerPart (Nat.le_sqrt.2 hbits) Real.nat_sqrt_le_real_sqrt Real.real_sqrt_lt_nat_sqrt_succ ?_
  rw [bne_eq_false_iff_eq, Real.sqrt_eq_iff_mul_self_eq (Nat.cast_nonneg _) (Nat.cast_nonneg _)]
  exact_mod_cast eq_comm

/-- x is what Round delivers for the exact value r: from its sign and its magnitude. -/
def FpFmt.RoundOf (f : FpFmt) (v : FpEnv) (r : ℝ) (x : FpResult) : Prop :=
  ∃ neg R m e sticky, r = (if neg then -R else R) ∧ Magnitude (f.fracBits + 1) R m e sticky ∧ x = f.round v neg m e sticky

section
variable {f : FpFmt} {v : FpEnv}

theorem FpFmt.roundOf_exact (neg : Bool) {m : Nat} (e : Int) (hm : m ≠ 0) :
    f.RoundOf v (FpVal.fin neg m e).rat (f.round v neg m e false) := by
  refine ⟨neg, _, m, e, false, ?_, .of_exact hm, rfl⟩
  rw [FpVal.real_fin]
  cases neg <;> simp

/-- The sum of two finite numbers: both scaled to the smaller exponent, where the sum is an integer (R765). -/
theorem FpFmt.addFinite_roundOf {na nb : Bool} {ma mb : Nat} {ea eb : Int}
    (h : (FpVal.fin na ma ea).rat + (FpVal.fin nb mb eb).rat ≠ 0) :
    f.RoundOf v (((FpVal.fin na ma ea).rat + (FpVal.fin nb mb eb).rat : ℚ) : ℝ) (f.addFinite v na ma ea nb mb eb) := by
  unfold FpFmt.addFinite
  rw [← scale_signed na ma (min_le_left ea eb), ← scale_signed nb mb (min_le_right ea eb), ← add_mul, ← Int.cast_add] at h ⊢
  dsimp only
  rw [mul_ne_zero_iff, Int.cast_ne_zero] at h
  obtain ⟨hsum, -⟩ := h
  rw [if_neg hsum, ← FpVal.rat_ofInt]
  exact FpFmt.roundOf_exact _ _ (Int.natAbs_ne_zero.2 hsum)

theorem FpFmt.divFinite_roundOf (neg : Bool) {ma mb : Nat} (e : Int) (ha : ma ≠ 0) (hb : mb ≠ 0) :
    f.RoundOf v (if neg then -((ma : ℝ) / mb * (2 : ℝ) ^ e) else (ma : ℝ) / mb * (2 : ℝ) ^ e)
      (f.divFinite v neg ma mb e) :=
  ⟨neg, _, _, _, _, rfl, quotient_magnitude (f.fracBits + 1) e ha hb (by omega), rfl⟩

/-- A finite value is zero exactly when its magnitude is. -/
theorem FpVal.rat_eq_zero_iff (neg : Bool) (m : Nat) (e : Int) : (FpVal.fin neg m e).rat = 0 ↔ m = 0 := by
  rw [FpVal.rat_fin, mul_eq_zero, or_iff_left (zpow_ne_zero _ two_ne_zero), mul_eq_zero, Nat.cast_eq_zero]
  cases neg <;> simp

/-- Every nonzero result of finite operands is Round of its exact value. -/
theorem FpFmt.gives_roundOf {r : ℝ} {x : FpResult} (h : f.Gives v r x) (hr : r ≠ 0) : f.RoundOf v r x := by
  cases h with
  | sum x y hx hy =>
    obtain ⟨hsx, na, ma, ea, hvx⟩ := hx
    obtain ⟨hsy, nb, mb, eb, hvy⟩ := hy
    rw [(FpFmt.fin_fin hsx hsy hvx hvy).1 false, Bool.xor_false]
    rw [hvx, hvy] at hr ⊢
    exact_mod_cast FpFmt.addFinite_roundOf (by exact_mod_cast hr)
  | difference x y hx hy =>
    obtain ⟨hsx, na, ma, ea, hvx⟩ := hx
    obtain ⟨hsy, nb, mb, eb, hvy⟩ := hy
    rw [(FpFmt.fin_fin hsx hsy hvx hvy).1 true, Bool.xor_true]
    rw [hvx, hvy, ← Rat.cast_sub, sub_eq_add_neg, ← FpVal.rat_not] at hr ⊢
    exact FpFmt.addFinite_roundOf (by exact_mod_cast hr)
  | product x y hx hy =>
    obtain ⟨hsx, na, ma, ea, hvx⟩ := hx
    obtain ⟨hsy, nb, mb, eb, hvy⟩ := hy
    rw [(FpFmt.fin_fin hsx hsy hvx hvy).2.1]
    rw [hvx, hvy, ← Rat.cast_mul, FpVal.rat_mul] at hr ⊢
    have hm : ma * mb ≠ 0 := by
      rw [Rat.cast_ne_zero] at hr
      exact mt (FpVal.rat_eq_zero_iff ..).2 hr
    rw [if_neg (mt Nat.mul_eq_zero.2 hm)]
    exact FpFmt.roundOf_exact _ _ hm
  | quotient x y hx hy hy0 =>
    obtain ⟨hsx, na, ma, ea, hvx⟩ := hx
    obtain ⟨hsy, nb, mb, eb, hvy⟩ := hy
    rw [(FpFmt.fin_fin hsx hsy hvx hvy).2.2]
    rw [hvx, hvy] at hr ⊢
    rw [hvy] at hy0
    have hb : mb ≠ 0 := mt (FpVal.rat_eq_zero_iff ..).2 hy0
    have ha : ma ≠ 0 := by
      rw [div_ne_zero_iff, Rat.cast_ne_zero] at hr
      exact mt (FpVal.rat_eq_zero_iff ..).2 hr.1
    rw [if_neg hb, if_neg ha, FpVal.rat_div]
    exact FpFmt.divFinite_roundOf _ _ ha hb
  | root x hx hpos =>
    obtain ⟨hsx, neg, m, e, hvx⟩ := hx
    rw [hvx] at hpos ⊢
    have hm : m ≠ 0 := mt (FpVal.rat_eq_zero_iff ..).2 hpos.ne'
    have hneg : neg = false := by
      by_contra hc
      have hmag : (0 : ℚ) ≤ (m : ℚ) * (2 : ℚ) ^ e := by positivity
      rw [FpVal.rat_fin, if_pos (Bool.not_eq_false _ ▸ hc), mul_assoc] at hpos
      linarith
    subst hneg
    simp only [FpFmt.sqrt, hsx, hvx, Bool.false_eq_true, if_false, hm, FpVal.real_fin, one_mul]
    refine ⟨false, _, _, _, _, rfl, ?_, rfl⟩
    split
    · next heven => exact root_magnitude _ hm (by omega) (by exact_mod_cast heven)
    · next hodd => exact root_magnitude _ hm (by omega) (by push_cast at hodd ⊢; omega)
  | conversion g x hg hx =>
    obtain ⟨hsx, neg, m, e, hvx⟩ := hx
    rw [hvx, Rat.cast_ne_zero] at hr
    have hm : m ≠ 0 := mt (FpVal.rat_eq_zero_iff ..).2 hr
    simp only [FpFmt.convert, hsx, hvx, Bool.false_eq_true, if_false, hm]
    exact FpFmt.roundOf_exact _ _ hm
  | word n =>
    have hint : n.toInt ≠ 0 := by exact_mod_cast hr
    have hn : n ≠ 0 := fun hc => hint (hc ▸ rfl)
    have hval : ((FpVal.fin (decide (n.toInt < 0)) n.toInt.natAbs 0).rat : ℝ) = n.toInt := by rw [FpVal.rat_ofInt]; simp
    rw [FpFmt.ofWord, if_neg hn, ← hval]
    exact FpFmt.roundOf_exact _ _ (Int.natAbs_ne_zero.2 hint)

end

end Sys2Proof.Machine
end

section
/-! SUPPORT. The size of exact results: far inside the range of the formats that Round uses before it looks at the range (R752,
R755). -/

namespace Sys2Proof.Machine

open Sys2Proof

/-! ## Operands -/

/-- A number on the grid of the smallest double denormal and below the double overflow. -/
def OnGrid (a : ℝ) : Prop := (∃ n : ℤ, a = n * (2 : ℝ) ^ (-1074 : ℤ)) ∧ |a| < (2 : ℝ) ^ (1024 : ℤ)

/-- A nonzero multiple of a positive unit is no smaller than the unit. -/
theorem le_abs_of_multiple {n : ℤ} {u : ℝ} (hu : 0 < u) (h : n * u ≠ 0) : u ≤ |n * u| := by
  have hn : (1 : ℝ) ≤ |(n : ℝ)| := by exact_mod_cast Int.one_le_abs (by rintro rfl; simp at h)
  rw [abs_mul, abs_of_pos hu]
  exact le_mul_of_one_le_left hu.le hn

theorem OnGrid.le_abs {a : ℝ} (h : OnGrid a) (ha : a ≠ 0) : (2 : ℝ) ^ (-1074 : ℤ) ≤ |a| := by
  obtain ⟨⟨n, rfl⟩, -⟩ := h
  exact le_abs_of_multiple (by positivity) ha

theorem onGrid_fin {m : Nat} {e : Int} (neg : Bool) (hm : m < 2 ^ 53) (hlo : -1074 ≤ e) (hhi : e ≤ 971) :
    OnGrid (FpVal.fin neg m e).rat := by
  refine ⟨?_, ?_⟩
  · rw [← scale_signed neg m hlo, Rat.cast_mul, Rat.cast_intCast, Rat.cast_zpow, Rat.cast_ofNat]
    exact ⟨_, rfl⟩
  have habs : |((FpVal.fin neg m e).rat : ℝ)| = m * (2 : ℝ) ^ e := by
    have hmag : (0 : ℝ) ≤ m * (2 : ℝ) ^ e := by positivity
    rw [FpVal.real_fin]
    cases neg <;> simp [abs_of_nonneg hmag]
  have hmR : (m : ℝ) < 2 ^ (53 : ℤ) := by exact_mod_cast hm
  calc |((FpVal.fin neg m e).rat : ℝ)| = m * (2 : ℝ) ^ e := habs
    _ < 2 ^ (53 : ℤ) * (2 : ℝ) ^ e := mul_lt_mul_of_pos_right hmR (by positivity)
    _ = (2 : ℝ) ^ (53 + e) := (zpow_add₀ two_ne_zero _ _).symm
    _ ≤ (2 : ℝ) ^ (1024 : ℤ) := zpow_le_zpow_right₀ one_le_two (by omega)

/-- A finite pattern of the formats S and D. -/
theorem FpFmt.unpack_bounds {g : FpFmt} (hg : g ∈ fpFormats) {n : NanEncoding} {x : Nat} {neg : Bool} {m : Nat} {e : Int}
    (h : g.unpack n x = .fin neg m e) : m < 2 ^ 53 ∧ -1074 ≤ e ∧ e ≤ 971 := by
  have hformat : g.fracBits ≤ 52 ∧ g.eMin - g.fracBits ≥ -1074 ∧ g.eMin - g.fracBits + (g.expMax - 1 - 1 : Nat) ≤ 971 ∧
      g.expMax = 2 ^ g.expBits - 1 := by
    simp only [fpFormats, List.mem_cons, List.mem_nil_iff, or_false] at hg
    rcases hg with rfl | rfl <;> decide
  obtain ⟨hfb, hmin, hmax, hexpMax⟩ := hformat
  have hfrac : g.frac x < 2 ^ g.fracBits := Nat.mod_lt _ (by positivity)
  have hexp : g.exp x < 2 ^ g.expBits := Nat.mod_lt _ (by positivity)
  have hpow : 2 ^ g.fracBits ≤ 2 ^ 52 := Nat.pow_le_pow_right two_pos hfb
  unfold FpFmt.unpack at h
  split at h
  · split at h <;> cases h
  · split at h
    · cases h
      omega
    · cases h
      omega

/-- Every number the operations take lies on the grid. -/
theorem FpFmt.Takes.onGrid {g : FpFmt} (hg : g ∈ fpFormats) {v : FpEnv} {x : Nat} (h : g.Takes v x) :
    OnGrid (g.operand v x).rat := by
  obtain ⟨-, neg, m, e, hval⟩ := h
  rw [hval]
  unfold FpFmt.operand at hval
  split at hval
  · cases hval
    exact onGrid_fin _ (by norm_num) (by norm_num) (by norm_num)
  · obtain ⟨hm, hlo, hhi⟩ := FpFmt.unpack_bounds hg hval
    exact onGrid_fin neg hm hlo hhi

/-! ## Results -/

/-- No exact result reaches the ends of the range without limits. -/
def Moderate (r : ℝ) : Prop := (2 : ℝ) ^ (-2200 : ℤ) ≤ |r| ∧ |r| < (2 : ℝ) ^ (2200 : ℤ)

theorem Moderate.of_bounds {r : ℝ} {a b : ℤ} (hlo : (2 : ℝ) ^ a ≤ |r|) (hhi : |r| < (2 : ℝ) ^ b) (ha : -2200 ≤ a)
    (hb : b ≤ 2200) : Moderate r :=
  ⟨(zpow_le_zpow_right₀ one_le_two ha).trans hlo, hhi.trans_le (zpow_le_zpow_right₀ one_le_two hb)⟩

theorem OnGrid.moderate {a : ℝ} (h : OnGrid a) (ha : a ≠ 0) : Moderate a :=
  .of_bounds (h.le_abs ha) h.2 (by norm_num) (by norm_num)

theorem OnGrid.neg {a : ℝ} (h : OnGrid a) : OnGrid (-a) := by
  obtain ⟨⟨n, rfl⟩, hhi⟩ := h
  exact ⟨⟨-n, by push_cast; ring⟩, by rwa [abs_neg]⟩

theorem OnGrid.add_moderate {a b : ℝ} (ha : OnGrid a) (hb : OnGrid b) (h : a + b ≠ 0) : Moderate (a + b) := by
  obtain ⟨⟨n, rfl⟩, hna⟩ := ha
  obtain ⟨⟨k, rfl⟩, hkb⟩ := hb
  refine .of_bounds (a := -1074) (b := 1025) ?_ ?_ (by norm_num) (by norm_num)
  · rw [← add_mul, ← Int.cast_add] at h ⊢
    exact le_abs_of_multiple (by positivity) h
  · calc |(n : ℝ) * 2 ^ (-1074 : ℤ) + k * 2 ^ (-1074 : ℤ)| ≤ _ := abs_add_le ..
      _ < 2 ^ (1024 : ℤ) + 2 ^ (1024 : ℤ) := add_lt_add hna hkb
      _ = (2 : ℝ) ^ (1025 : ℤ) := by rw [← two_mul, ← zpow_one_add₀ two_ne_zero]; norm_num

theorem OnGrid.mul_moderate {a b : ℝ} (ha : OnGrid a) (hb : OnGrid b) (ha0 : a ≠ 0) (hb0 : b ≠ 0) : Moderate (a * b) := by
  refine .of_bounds (a := -1074 + -1074) (b := 1024 + 1024) ?_ ?_ (by norm_num) (by norm_num)
  · rw [zpow_add₀ two_ne_zero, abs_mul]
    exact mul_le_mul (ha.le_abs ha0) (hb.le_abs hb0) (by positivity) (abs_nonneg a)
  · rw [zpow_add₀ two_ne_zero, abs_mul]
    exact mul_lt_mul'' ha.2 hb.2 (abs_nonneg a) (abs_nonneg b)

theorem OnGrid.div_moderate {a b : ℝ} (ha : OnGrid a) (hb : OnGrid b) (ha0 : a ≠ 0) (hb0 : b ≠ 0) : Moderate (a / b) := by
  have hbpos : 0 < |b| := abs_pos.2 hb0
  refine .of_bounds (a := -1074 - 1024) (b := 1024 - -1074) ?_ ?_ (by norm_num) (by norm_num)
  · rw [zpow_sub₀ two_ne_zero, abs_div]
    exact div_le_div₀ (abs_nonneg a) (ha.le_abs ha0) hbpos hb.2.le
  · rw [zpow_sub₀ two_ne_zero, abs_div]
    exact div_lt_div₀ ha.2 (hb.le_abs hb0) (by positivity) (by positivity)

theorem OnGrid.sqrt_moderate {a : ℝ} (ha : OnGrid a) (hpos : 0 < a) : Moderate (Real.sqrt a) := by
  have hlo := ha.le_abs hpos.ne'
  have hhi := ha.2
  rw [abs_of_pos hpos] at hlo hhi
  refine .of_bounds (a := -537) (b := 512) ?_ ?_ (by norm_num) (by norm_num)
  · rw [abs_of_nonneg (Real.sqrt_nonneg a), Real.le_sqrt (by positivity) hpos.le, sq, ← zpow_add₀ two_ne_zero]
    exact hlo
  · rw [abs_of_nonneg (Real.sqrt_nonneg a), Real.sqrt_lt' (by positivity), sq, ← zpow_add₀ two_ne_zero]
    exact hhi

/-- Every nonzero result of finite operands of the formats S and D. -/
theorem FpFmt.gives_moderate {f : FpFmt} (hf : f ∈ fpFormats) {v : FpEnv} {r : ℝ} {x : FpResult} (h : f.Gives v r x)
    (hr : r ≠ 0) : Moderate r := by
  cases h with
  | sum x y hx hy => exact (hx.onGrid hf).add_moderate (hy.onGrid hf) hr
  | difference x y hx hy =>
    rw [sub_eq_add_neg] at hr ⊢
    exact (hx.onGrid hf).add_moderate (hy.onGrid hf).neg hr
  | product x y hx hy =>
    obtain ⟨ha, hb⟩ := mul_ne_zero_iff.1 hr
    exact (hx.onGrid hf).mul_moderate (hy.onGrid hf) ha hb
  | quotient x y hx hy =>
    obtain ⟨ha, hb⟩ := div_ne_zero_iff.1 hr
    exact (hx.onGrid hf).div_moderate (hy.onGrid hf) ha hb
  | root x hx hpos => exact (hx.onGrid hf).sqrt_moderate (by exact_mod_cast hpos)
  | conversion g x hg hx => exact (hx.onGrid hg).moderate hr
  | word n =>
    refine .of_bounds (a := 0) (b := 32) ?_ ?_ (by norm_num) (by norm_num)
    · have hn : n.toInt ≠ 0 := by exact_mod_cast hr
      exact_mod_cast Int.one_le_abs hn
    · have hlt : |n.toInt| < 2 ^ 32 := by
        rw [abs_lt]
        exact ⟨by have := n.le_toInt; omega, by have := n.toInt_lt; omega⟩
      exact_mod_cast hlt

end Sys2Proof.Machine
end

section
/-! SUPPORT. Rounding has one answer (R57): the magnitude of every pattern that is a number rounded. -/

namespace Sys2Proof.Machine

open Sys2Proof

/-! ## Patterns and their parity -/

/-- A number is even exactly when its pattern is. -/
theorem FpFmt.unpack_parity {g : FpFmt} (h : g.Proper) {n : NanEncoding} {y : Nat} {neg : Bool} {m : Nat} {e : Int}
    (hy : g.unpack n y = .fin neg m e) : y % 2 = m % 2 := by
  obtain ⟨-, hfb⟩ := h
  have hpow : 2 ^ g.fracBits = 2 * 2 ^ (g.fracBits - 1) := by rw [← pow_succ']; congr 1; omega
  have hfrac : g.frac y % 2 = y % 2 := Nat.mod_mod_of_dvd y ⟨_, hpow⟩
  unfold FpFmt.unpack at hy
  split at hy
  · split at hy <;> cases hy
  · split at hy <;> cases hy <;> omega

/-- A number of the format with all its bits, or with a carry out of them. -/
theorem FpFmt.has_normal {g : FpFmt} (h : g.Proper) (neg : Bool) {q : Nat} {e : Int} (hlo : 2 ^ g.fracBits ≤ q)
    (hhi : q ≤ 2 ^ (g.fracBits + 1)) (hmin : g.eMin - g.fracBits ≤ e) (hmax : e + g.fracBits + 1 ≤ g.bias) :
    g.Has (if neg then -(q * (2 : ℝ) ^ e) else q * (2 : ℝ) ^ e) := by
  have hpow : 2 ^ (g.fracBits + 1) = 2 * 2 ^ g.fracBits := pow_succ' ..
  have hpos : 0 < 2 ^ g.fracBits := by positivity
  have hpacked {k : Nat} {d : Int} (hk : 2 ^ g.fracBits ≤ k) (hk' : k < 2 ^ (g.fracBits + 1)) (hd : g.eMin - g.fracBits ≤ d)
      (hd' : d + g.fracBits ≤ g.bias) : g.Has (if neg then -(k * (2 : ℝ) ^ d) else k * (2 : ℝ) ^ d) := by
    obtain ⟨hun, -⟩ := FpFmt.unpack_pack h .legacy neg hk hk' hd hd'
    refine ⟨_, ⟨neg, k, d, hun⟩, ?_⟩
    rw [FpFmt.value, hun, FpVal.real_fin]
    cases neg <;> simp
  rcases hhi.lt_or_eq with hlt | rfl
  · exact hpacked hlo hlt hmin (by omega)
  · have hcarry := hpacked (k := 2 ^ g.fracBits) (d := e + 1) le_rfl (by omega) (by omega) (by omega)
    rwa [zpow_add_one₀ two_ne_zero, mul_comm ((2 : ℝ) ^ e), ← mul_assoc, ← Nat.cast_ofNat (R := ℝ), ← Nat.cast_mul,
      ← pow_succ] at hcarry

/-- A finite pattern: its magnitude fits the format, and is short at the smallest exponent only. -/
theorem FpFmt.unpack_form {g : FpFmt} {n : NanEncoding} {y : Nat} {neg : Bool} {m : Nat} {e : Int}
    (hy : g.unpack n y = .fin neg m e) :
    m < 2 ^ (g.fracBits + 1) ∧ g.eMin - g.fracBits ≤ e ∧ (m < 2 ^ g.fracBits → e = g.eMin - g.fracBits) := by
  have hpow : 2 ^ (g.fracBits + 1) = 2 * 2 ^ g.fracBits := pow_succ' ..
  have hfrac : g.frac y < 2 ^ g.fracBits := Nat.mod_lt _ (by positivity)
  unfold FpFmt.unpack at hy
  split at hy
  · split at hy <;> cases hy
  · split at hy <;> cases hy <;> omega

theorem FpFmt.abs_value {g : FpFmt} {y : Nat} {neg : Bool} {m : Nat} {e : Int} (hy : g.unpack .legacy y = .fin neg m e) :
    |(g.value y : ℝ)| = m * (2 : ℝ) ^ e := by
  have hmag : (0 : ℝ) ≤ m * (2 : ℝ) ^ e := by positivity
  rw [FpFmt.value, hy, FpVal.real_fin]
  cases neg <;> simp [abs_of_nonneg hmag]

/-- Equal magnitudes at two exponents: the one at the larger exponent is the shorter. -/
theorem eq_mul_of_scaled {m q : Nat} {d e : Int} (h : (m : ℝ) * (2 : ℝ) ^ d = q * (2 : ℝ) ^ e) (hde : d ≤ e) :
    m = q * 2 ^ (e - d).toNat := by
  have hpos : (2 : ℝ) ^ d ≠ 0 := by positivity
  rw [← scale_real q hde] at h
  exact_mod_cast mul_right_cancel₀ hpos h

/-- A pattern whose value has all the bits of the format at an exponent in range is even exactly when they are. -/
theorem FpFmt.parity_of_abs_value {g : FpFmt} (h : g.Proper) {y q : Nat} {e : Int} (hy : (g.unpack .legacy y).IsFinite)
    (hval : |(g.value y : ℝ)| = q * (2 : ℝ) ^ e) (hlo : 2 ^ g.fracBits ≤ q) (hhi : q < 2 ^ (g.fracBits + 1))
    (hmin : g.eMin - g.fracBits ≤ e) : y % 2 = q % 2 := by
  obtain ⟨neg, m, d, hun⟩ := hy
  obtain ⟨hm, hd, hshort⟩ := FpFmt.unpack_form hun
  rw [FpFmt.abs_value hun] at hval
  have hpow : 2 ^ (g.fracBits + 1) = 2 ^ g.fracBits * 2 := pow_succ ..
  have hdouble {k : Int} (hk : 0 < k) : 2 ≤ 2 ^ k.toNat := Nat.le_self_pow (by omega) 2
  have hde : d = e := by
    rcases lt_trichotomy d e with hlt | heq | hgt
    · have hmq := eq_mul_of_scaled hval hlt.le
      have := Nat.mul_le_mul hlo (hdouble (sub_pos.2 hlt))
      omega
    · exact heq
    · have hqm := eq_mul_of_scaled hval.symm hgt.le
      have hlong : 2 ^ g.fracBits ≤ m := by
        by_contra hc
        have := hshort (not_le.1 hc)
        omega
      have := Nat.mul_le_mul hlong (hdouble (sub_pos.2 hgt))
      omega
  have hmq := eq_mul_of_scaled hval hde.le
  rw [hde, sub_self] at hmq
  rw [FpFmt.unpack_parity h hun, hmq]
  simp

/-! ## From a gap to a magnitude

A and B are the neighbours of the magnitude R, w the rounded value. -/

section
variable {w R A B : ℝ}

/-- A magnitude rounded toward zero. -/
theorem abs_eq_lower (gap : |w| ≤ A ∨ B ≤ |w|) (hRB : R < B) (hlo : A ≤ |w|) (hhi : |w| ≤ R) : |w| = A := by
  rcases gap with hle | hge <;> linarith

/-- A magnitude rounded away from zero. -/
theorem abs_eq_upper {up : Bool} (gap : |w| ≤ A ∨ B ≤ |w|) (hAR : A ≤ R) (hup : up = true ↔ R ≠ A) (hlo : R ≤ |w|)
    (hhi : |w| ≤ B) (hexact : R = A → |w| ≤ A) : |w| = if up then B else A := by
  by_cases hRA : R = A
  · rw [if_neg (fun hc => hup.1 hc hRA)]
    exact le_antisymm (hexact hRA) (hRA ▸ hlo)
  · rw [if_pos (hup.2 hRA)]
    have hlt : A < R := lt_of_le_of_ne hAR (Ne.symm hRA)
    rcases gap with hle | hge <;> linarith

/-- A number rounded up: away from zero where it is positive, toward zero where it is negative. -/
theorem abs_eq_of_roundedUp {P : ℝ → Prop} {neg up : Bool} (gap : |w| ≤ A ∨ B ≤ |w|) (hA : 0 ≤ A) (hAR : A ≤ R)
    (hRB : R < B) (hlower : P (if neg then -A else A)) (hupper : P (if neg then -B else B)) (hge : (if neg then -R else R) ≤ w)
    (hleast : ∀ q, P q → (if neg then -R else R) ≤ q → w ≤ q) (hup : up = true ↔ neg = false ∧ R ≠ A) :
    |w| = if up then B else A := by
  cases neg
  · simp only [Bool.false_eq_true, if_false, true_and] at *
    rw [abs_of_nonneg ((hA.trans hAR).trans hge)] at gap ⊢
    have hw : |w| = w := abs_of_nonneg ((hA.trans hAR).trans hge)
    have hres := abs_eq_upper (hw.symm ▸ gap) hAR hup (hw.symm ▸ hge) (hw.symm ▸ hleast B hupper hRB.le)
      fun hRA => hw.symm ▸ hleast A hlower hRA.le
    rwa [hw] at hres
  · simp only [if_true, Bool.true_eq_false, false_and, iff_false, Bool.not_eq_true] at *
    have hwA := hleast (-A) hlower (neg_le_neg hAR)
    have hw : |w| = -w := abs_of_nonpos (by linarith)
    rw [hup, if_neg Bool.false_ne_true]
    exact abs_eq_lower gap hRB (by linarith) (by linarith)

/-- A magnitude rounded to nearest, D its distance; on a tie it is the even neighbour. -/
theorem abs_eq_nearest {D : ℝ} {even odd : Prop} {up : Bool} (gap : |w| ≤ A ∨ B ≤ |w|) (hAB : A < B)
    (hdist : |(|w| - R)| ≤ D) (hDA : D ≤ R - A) (hDB : D ≤ B - R) (htieA : D = R - A → |w| ≠ A → even)
    (htieB : D = B - R → |w| ≠ B → even) (hevenA : |w| = A → even → ¬odd) (hevenB : |w| = B → even → odd)
    (hup : up = true ↔ (B - A) / 2 < R - A ∨ (R - A = (B - A) / 2 ∧ odd)) : |w| = if up then B else A := by
  obtain ⟨hlow, hhigh⟩ := abs_le.1 hdist
  cases up
  · simp only [Bool.false_eq_true, false_iff, not_or, not_lt, not_and, if_false] at hup ⊢
    obtain ⟨hhalf, hnotOdd⟩ := hup
    rcases gap with hle | hge
    · linarith
    · have hw : |w| = B := by linarith
      exact absurd (hevenB hw (htieA (by linarith) (by linarith))) (hnotOdd (by linarith))
  · simp only [true_iff, if_true] at hup ⊢
    rcases gap with hle | hge
    · have hhalf : (B - A) / 2 ≤ R - A := by rcases hup with hlt | ⟨heq, -⟩ <;> linarith
      have hw : |w| = A := by linarith
      have hodd : odd := (hup.resolve_left (by linarith)).2
      exact absurd hodd (hevenA hw (htieB (by linarith) (by linarith)))
    · linarith

/-- A number rounded to nearest. -/
theorem abs_eq_of_roundedNearest {even odd : Prop} {neg up : Bool} (gap : |w| ≤ A ∨ B ≤ |w|) (hA : 0 ≤ A) (hAR : A ≤ R)
    (hRB : R < B)
    (hlower : |w - if neg then -R else R| ≤ |(if neg then -A else A) - if neg then -R else R| ∧
      (|w - if neg then -R else R| = |(if neg then -A else A) - if neg then -R else R| → (if neg then -A else A) ≠ w → even))
    (hupper : |w - if neg then -R else R| ≤ |(if neg then -B else B) - if neg then -R else R| ∧
      (|w - if neg then -R else R| = |(if neg then -B else B) - if neg then -R else R| → (if neg then -B else B) ≠ w → even))
    (hevenA : |w| = A → even → ¬odd) (hevenB : |w| = B → even → odd)
    (hup : up = true ↔ (B - A) / 2 < R - A ∨ (R - A = (B - A) / 2 ∧ odd)) : |w| = if up then B else A := by
  have habs {x : ℝ} (hx : 0 ≤ x) : |if neg then -x else x| = x := by cases neg <;> simp [abs_of_nonneg hx]
  have hdiff (x : ℝ) : |(if neg then -x else x) - if neg then -R else R| = |x - R| := by
    cases neg
    · rfl
    · rw [if_pos rfl, if_pos rfl, neg_sub_neg, abs_sub_comm]
  have hdist : |(|w| - R)| ≤ |w - if neg then -R else R| := by
    have := abs_abs_sub_abs_le w (if neg then -R else R)
    rwa [habs (hA.trans hAR)] at this
  rw [hdiff, abs_sub_comm A, abs_of_nonneg (sub_nonneg.2 hAR)] at hlower
  rw [hdiff, abs_of_pos (sub_pos.2 hRB)] at hupper
  exact abs_eq_nearest gap (hAR.trans_lt hRB) hdist hlower.1 hupper.1
    (fun hD hw => hlower.2 hD fun hc => hw (hc ▸ habs hA))
    (fun hD hw => hupper.2 hD fun hc => hw (hc ▸ habs ((hA.trans hAR).trans hRB.le))) hevenA hevenB hup

end

/-! ## The answer -/

/-- Rounding has one answer: the magnitude of a rounded pattern is the neighbour that the mode chooses. -/
theorem Between.abs_value {g : FpFmt} (h : g.Proper) {rm : BitVec 2} {neg up inexact : Bool} {R : ℝ} {e : Int} {q0 y : Nat}
    (hb : Between R ((2 : ℝ) ^ e) q0 rm neg up inexact) (hlo : 2 ^ g.fracBits ≤ q0) (hhi : q0 < 2 ^ (g.fracBits + 1))
    (hmin : g.eMin - g.fracBits ≤ e) (hmax : e + g.fracBits + 1 ≤ g.bias) (hy : g.Rounds rm (if neg then -R else R) y) :
    |(g.value y : ℝ)| = if up then (q0 + 1) * (2 : ℝ) ^ e else q0 * (2 : ℝ) ^ e := by
  obtain ⟨hAR, hRB, -, hup⟩ := hb
  obtain ⟨hfin, hy⟩ := hy
  have hlower := FpFmt.has_normal h neg hlo hhi.le hmin hmax
  have hupper := FpFmt.has_normal h neg (q := q0 + 1) (by omega) hhi hmin hmax
  rw [Nat.cast_add, Nat.cast_one] at hupper
  have gap := FpFmt.gap h hlo (e := e) (g.value y : ℝ) ⟨y, hfin, rfl⟩
  have hA : (0 : ℝ) ≤ q0 * (2 : ℝ) ^ e := by positivity
  have habs {x : ℝ} (hx : 0 ≤ x) : |if neg then -x else x| = x := by cases neg <;> simp [abs_of_nonneg hx]
  rcases roundingMode_cases rm with rfl | rfl | rfl | rfl
  · -- to nearest
    have hstep : (((q0 : ℝ) + 1) * (2 : ℝ) ^ e - q0 * (2 : ℝ) ^ e) = (2 : ℝ) ^ e := by ring
    have heven : ∃ k, 2 ^ (g.fracBits + 1) = 2 * k := ⟨2 ^ g.fracBits, pow_succ' ..⟩
    refine abs_eq_of_roundedNearest (odd := q0 % 2 = 1) gap hA hAR hRB (hy _ hlower) (hy _ hupper) (fun hval hy0 => ?_)
      (fun hval hy0 => ?_) (hstep.symm ▸ hup)
    · have := FpFmt.parity_of_abs_value h hfin hval hlo hhi hmin
      omega
    · rcases Nat.lt_or_ge (q0 + 1) (2 ^ (g.fracBits + 1)) with hlt | hge
      · have := FpFmt.parity_of_abs_value h (q := q0 + 1) hfin (by exact_mod_cast hval) (by omega) hlt hmin
        omega
      · omega
  · -- toward zero
    obtain ⟨-, hle, hmost⟩ := hy
    have hleast := hmost _ hlower
    rw [habs (hA.trans hAR), habs hA] at hleast
    rw [habs (hA.trans hAR)] at hle
    rw [show up = false from hup, if_neg Bool.false_ne_true]
    exact abs_eq_lower gap hRB (hleast hAR) hle
  · -- up
    exact abs_eq_of_roundedUp (P := g.Has) gap hA hAR hRB hlower hupper hy.1 hy.2 hup
  · -- down: up among the negated numbers
    obtain ⟨hle, hmost⟩ : _ ≤ (if neg then -R else R) ∧ ∀ q, g.Has q → q ≤ _ → q ≤ _ := hy
    have hflip (x : ℝ) : (if !neg then -x else x) = -(if neg then -x else x) := by cases neg <;> simp
    have hmirror := abs_eq_of_roundedUp (P := fun q => g.Has (-q)) (neg := !neg) (up := up) (w := -(g.value y : ℝ))
      (by rwa [abs_neg]) hA hAR hRB (by rwa [hflip, neg_neg]) (by rwa [hflip, neg_neg]) (by rw [hflip]; exact neg_le_neg hle)
      (fun q hq hrq => by rw [hflip] at hrq; have := hmost (-q) hq (neg_le.1 hrq); exact neg_le.1 this)
      (by rw [Bool.not_eq_false']; exact hup)
    rwa [abs_neg] at hmirror

end Sys2Proof.Machine
end

section
/-! SUPPORT. Results outside the normal range: overflow and tiny results by the place of the leading bit, and denormal operands
(R755, R756, R763, R764). -/

namespace Sys2Proof.Machine

open Sys2Proof

/-! ## Round below the normal range (R756, R763) -/

theorem Between.of_exact {R u : ℝ} {q0 : Nat} (rm : BitVec 2) (neg : Bool) (hu : 0 < u) (h : R = q0 * u) :
    Between R u q0 rm neg false false := by
  refine ⟨h.ge, by rw [h]; nlinarith, by simp [h], ?_⟩
  rw [h, sub_self]
  rcases roundingMode_cases rm with rfl | rfl | rfl | rfl
  · exact iff_of_false Bool.false_ne_true (by rintro (hlt | ⟨heq, -⟩) <;> linarith)
  · rfl
  · exact iff_of_false Bool.false_ne_true fun hc => hc.2 rfl
  · exact iff_of_false Bool.false_ne_true fun hc => hc.2 rfl

/-- Rounding is inexact exactly when it changed the magnitude. -/
theorem Between.exact_iff {R u : ℝ} {q0 : Nat} {rm : BitVec 2} {neg up inexact : Bool} (h : Between R u q0 rm neg up inexact)
    (hu : 0 < u) : inexact = false ↔ ((if up then q0 + 1 else q0 : Nat) : ℝ) * u = R := by
  rw [h.exact]
  constructor
  · intro hR
    rw [h.up_eq_false hu hR]
    exact hR.symm
  · intro hR
    cases up
    · exact hR.symm
    · have hhi := h.hi
      rw [if_pos rfl, Nat.cast_add, Nat.cast_one] at hR
      exact absurd hR.symm hhi.ne

theorem roundShift_zero (rm : BitVec 2) (neg : Bool) (m : Nat) : roundShift rm neg m 0 false = (m, false) := by
  rcases roundingMode_cases rm with rfl | rfl | rfl | rfl <;> simp [roundShift, roundsUp, Nat.mod_one]

/-- A magnitude of at most b bits above 2^d, rounded to a multiple of 2^d. -/
theorem Magnitude.rounded {b m : Nat} {R : ℝ} {e d : Int} {sticky : Bool} (h : Magnitude b R m e sticky) (rm : BitVec 2)
    (neg : Bool) (hR : R < 2 ^ b * (2 : ℝ) ^ d) :
    ∃ q up inexact, (if 0 ≤ d - e then roundShift rm neg m (d - e).toNat sticky else (m * 2 ^ (-(d - e)).toNat, sticky)) =
      (if up then q + 1 else q, inexact) ∧ Between R ((2 : ℝ) ^ d) q rm neg up inexact := by
  rcases lt_or_ge 0 (d - e) with hpos | hneg
  · obtain ⟨up, hround, hbetween⟩ :=
      between_roundShift rm neg m (d - e).toNat e sticky R (by omega) h.lo h.hi h.exact
    rw [show e + (d - e).toNat = d by omega] at hbetween
    exact ⟨_, up, _, (if_pos hpos.le).trans hround, hbetween⟩
  · have hst : sticky = false := by
      by_contra hc
      have hlong : 2 ^ b ≤ m := (Nat.le_log2 h.ne).1 (Nat.le_of_lt_succ (h.bits (Bool.not_eq_false _ ▸ hc)))
      have : (2 : ℝ) ^ b * (2 : ℝ) ^ d ≤ m * (2 : ℝ) ^ e :=
        mul_le_mul (by exact_mod_cast hlong) (zpow_le_zpow_right₀ one_le_two (by omega)) (by positivity) (Nat.cast_nonneg m)
      exact absurd (hR.trans_le (this.trans h.lo)) (lt_irrefl R)
    subst hst
    have hexact : R = ((m * 2 ^ (e - d).toNat : Nat) : ℝ) * (2 : ℝ) ^ d := (h.exact.1 rfl).trans (scale_real m (by omega)).symm
    refine ⟨m * 2 ^ (e - d).toNat, false, false, ?_, .of_exact rm neg (by positivity) hexact⟩
    split
    · next hz =>
      have hzero : d - e = 0 := le_antisymm hneg hz
      rw [hzero, show e - d = 0 by omega, Int.toNat_zero, roundShift_zero]
      simp
    · rw [neg_sub]
      rfl

section
variable {f : FpFmt}

/-- A denormal magnitude, a zero or the smallest normal one packed and unpacked. -/
theorem FpFmt.unpack_pack_min (h : f.Proper) (n : NanEncoding) (neg : Bool) {q : Nat} (hq : q ≤ 2 ^ f.fracBits) :
    f.unpack n (f.pack neg q (f.eMin - f.fracBits)) = .fin neg q (f.eMin - f.fracBits) := by
  obtain ⟨hrange, hbias⟩ := f.expRange h
  have hpos : 0 < 2 ^ f.fracBits := by positivity
  have hpow : 2 ^ (f.fracBits + 1) = 2 * 2 ^ f.fracBits := pow_succ' ..
  rcases hq.lt_or_eq with hlt | rfl
  · have hpack : f.pack neg q (f.eMin - f.fracBits) = q + 2 ^ f.fracBits * (2 ^ f.expBits * neg.toNat) := by
      rw [FpFmt.pack, if_pos hlt, FpFmt.signOf, FpFmt.signBit, pow_add]
      cases neg
      · simp
      · simp only [if_true, Bool.toNat_true]
        ring
    have hfrac : f.frac (f.pack neg q (f.eMin - f.fracBits)) = q := by
      rw [hpack, FpFmt.frac, Nat.add_mul_mod_self_left, Nat.mod_eq_of_lt hlt]
    have hexp : f.exp (f.pack neg q (f.eMin - f.fracBits)) = 0 := by
      rw [hpack, FpFmt.exp, Nat.add_mul_div_left _ _ hpos, Nat.div_eq_of_lt hlt, Nat.zero_add, Nat.mul_mod_right]
    have hsign : f.neg (f.pack neg q (f.eMin - f.fracBits)) = neg := by
      have hsmall : q < 2 ^ f.signBit := hlt.trans_le (Nat.pow_le_pow_right two_pos (Nat.le_add_left ..))
      rw [FpFmt.neg, FpFmt.pack, if_pos hlt, FpFmt.signOf]
      cases neg
      · simpa using Nat.testBit_lt_two_pow hsmall
      · simp [Nat.testBit_two_pow_add_eq, Nat.testBit_lt_two_pow hsmall]
    rw [FpFmt.unpack, hexp, hfrac, hsign, if_neg (by unfold FpFmt.expMax; omega), if_pos rfl]
  · exact (FpFmt.unpack_pack h n neg le_rfl (by omega) le_rfl (by unfold FpFmt.eMin; omega)).1

/-- Every number of the format is a multiple of the smallest one. -/
theorem FpFmt.gap_min (h : f.Proper) (q0 : Nat) {q : ℝ} (hq : f.Has q) :
    |q| ≤ q0 * (2 : ℝ) ^ (f.eMin - f.fracBits) ∨ (q0 + 1) * (2 : ℝ) ^ (f.eMin - f.fracBits) ≤ |q| := by
  obtain ⟨m, e, hm, -, he, -⟩ := FpFmt.has_form h hq
  have hu : (0 : ℝ) ≤ (2 : ℝ) ^ (f.eMin - f.fracBits) := by positivity
  rw [hm, ← scale_real m he]
  rcases Nat.lt_or_ge q0 (m * 2 ^ (e - (f.eMin - f.fracBits)).toNat) with hlt | hge
  · exact .inr (mul_le_mul_of_nonneg_right (by exact_mod_cast hlt) hu)
  · exact .inl (mul_le_mul_of_nonneg_right (by exact_mod_cast hge) hu)

variable {v : FpEnv} {neg sticky : Bool} {m : Nat} {e : Int} {R : ℝ}

/-- A tiny result as IEEE 754 delivers it: rounded to a multiple of the smallest number, U when inexact or enabled. -/
theorem FpFmt.tiny_ieee (h : f.Proper) (hfs : v.fs = false) (hres : v.denormalResult = .ieee)
    (hmag : Magnitude (f.fracBits + 1) R m e sticky) (hR : R < (2 : ℝ) ^ f.eMin) :
    let x := f.tiny v neg m e sticky
    f.Rounds v.rm (if neg then -R else R) x.bits ∧
      ((f.value x.bits : ℝ) = (if neg then -R else R) → x.conds = if v.enableU then condU else 0) ∧
      ((f.value x.bits : ℝ) ≠ (if neg then -R else R) → x.conds = condU ||| condI) := by
  have hu : (0 : ℝ) < (2 : ℝ) ^ (f.eMin - f.fracBits) := by positivity
  have hmin : (2 : ℝ) ^ f.eMin = 2 ^ f.fracBits * (2 : ℝ) ^ (f.eMin - f.fracBits) := by
    rw [← zpow_natCast, ← zpow_add₀ two_ne_zero]; congr 1; omega
  have hwide : R < 2 ^ (f.fracBits + 1) * (2 : ℝ) ^ (f.eMin - f.fracBits) := by
    rw [pow_succ, mul_right_comm, ← hmin]
    linarith [hmag.pos]
  obtain ⟨q, up, inexact, hround, hbetween⟩ := hmag.rounded v.rm neg hwide
  have hq : (if up then q + 1 else q) ≤ 2 ^ f.fracBits := by
    have hlt : (q : ℝ) < 2 ^ f.fracBits := lt_of_mul_lt_mul_right ((hbetween.lo.trans_lt hR).trans_eq hmin) hu.le
    have hltN : q < 2 ^ f.fracBits := by exact_mod_cast hlt
    split <;> omega
  have hx : f.tiny v neg m e sticky =
      { conds := (if inexact then condI else 0) ||| (if inexact || v.enableU then condU else 0)
        bits := f.pack neg (if up then q + 1 else q) (f.eMin - f.fracBits) } := by
    simp only [FpFmt.tiny, hfs, hres, hround, Bool.false_eq_true, if_false]
  have hun := FpFmt.unpack_pack_min h .legacy neg hq
  have hval : (f.value (f.pack neg (if up then q + 1 else q) (f.eMin - f.fracBits)) : ℝ) = (if neg then -R else R) ↔
      inexact = false := by
    rw [hbetween.exact_iff hu, FpFmt.value, hun, FpVal.real_fin]
    cases neg
    · simp only [Bool.false_eq_true, if_false, one_mul]
    · simp only [if_true, neg_one_mul, neg_inj]
  rw [hx]
  refine ⟨FpFmt.rounds_of_gap hu hbetween.lo hbetween.hi hmag.pos (fun y hy => FpFmt.gap_min h q hy) hun rfl
    (FpFmt.unpack_parity h hun) hbetween.up, fun heq => ?_, fun hne => ?_⟩
  · rw [hval.1 heq]
    cases v.enableU <;> rfl
  · rw [Bool.eq_true_of_not_eq_false (mt hval.2 hne)]
    cases v.enableU <;> rfl

/-! ## Round by the magnitude without limits of range (R755) -/

theorem FpFmt.overflowResult_eq (rm : BitVec 2) (neg : Bool) :
    f.overflowResult rm neg =
      if rm = 0 ∨ (rm = 2 ∧ neg = false) ∨ (rm = 3 ∧ neg = true) then f.infinity neg else f.largest neg := by
  rcases roundingMode_cases rm with rfl | rfl | rfl | rfl <;> cases neg <;> rfl

/-- The range of the formats without limits. -/
theorem FpFmt.unbounded_range (hf : f ∈ fpFormats) : f.fracBits ≤ 52 ∧ 4000 ≤ f.unbounded.bias := by
  simp only [fpFormats, List.mem_cons, List.mem_nil_iff, or_false] at hf
  rcases hf with rfl | rfl <;> decide

/-- What Round does with the leading bits q of a magnitude: they are normalised after a carry, and the place of their first bit
decides. -/
theorem FpFmt.round_of_leading (v : FpEnv) (neg : Bool) {q : Nat} {inexact : Bool}
    (hq : (if Nat.log2 m + 1 ≤ f.fracBits + 1 then (m * 2 ^ (f.fracBits + 1 - (Nat.log2 m + 1)), sticky)
      else roundShift v.rm neg m (Nat.log2 m + 1 - (f.fracBits + 1)) sticky) = (q, inexact))
    (hlo : 2 ^ f.fracBits ≤ q) (hhi : q ≤ 2 ^ (f.fracBits + 1)) :
    ∃ (n : Nat) (d : Int) (x : FpResult), 2 ^ f.fracBits ≤ n ∧ n < 2 ^ (f.fracBits + 1) ∧
      e + (Nat.log2 m + 1 : Nat) - (f.fracBits + 1 : Nat) ≤ d ∧
      (n : ℝ) * (2 : ℝ) ^ d = q * (2 : ℝ) ^ (e + (Nat.log2 m + 1 : Nat) - (f.fracBits + 1 : Nat)) ∧
      f.round v neg m e sticky =
        if (f.bias : Int) < d + f.fracBits then
          { conds := if v.enableO then condO else condO ||| condI, bits := f.overflowResult v.rm neg }
        else if d + f.fracBits < f.eMin then f.tiny v neg m e sticky else x := by
  have hpow : 2 ^ (f.fracBits + 1) = 2 ^ f.fracBits * 2 := pow_succ ..
  have hpos : 0 < 2 ^ f.fracBits := by positivity
  have hround (n : Nat) (d : Int) (hn : (if q = 2 ^ (f.fracBits + 1) then 2 ^ f.fracBits else q) = n)
      (hd : (if q = 2 ^ (f.fracBits + 1) then e + (Nat.log2 m + 1 : Nat) - (f.fracBits + 1 : Nat) + 1
        else e + (Nat.log2 m + 1 : Nat) - (f.fracBits + 1 : Nat)) = d) :
      f.round v neg m e sticky =
        if (f.bias : Int) < d + f.fracBits then
          { conds := if v.enableO then condO else condO ||| condI, bits := f.overflowResult v.rm neg }
        else if d + f.fracBits < f.eMin then f.tiny v neg m e sticky
        else { conds := if inexact then condI else 0, bits := f.pack neg n d } := by
    unfold FpFmt.round
    simp only [hq, hn, hd]
    cases v.enableO <;> rfl
  by_cases hcarry : q = 2 ^ (f.fracBits + 1)
  · refine ⟨_, _, _, le_rfl, by omega, by omega, ?_, hround _ _ (if_pos hcarry) (if_pos hcarry)⟩
    rw [hcarry, hpow, zpow_add_one₀ two_ne_zero]
    push_cast
    ring
  · exact ⟨_, _, _, hlo, by omega, le_rfl, rfl, hround _ _ (if_neg hcarry) (if_neg hcarry)⟩

/-- A magnitude between neighbours with all the bits of a format has its first bit inside the range without limits. -/
theorem leading_bounds {b q0 : Nat} {d : Int} (hmod : Moderate R) (hpos : 0 < R) (hlo : 2 ^ b ≤ q0) (hhi : q0 < 2 ^ (b + 1))
    (hA : q0 * (2 : ℝ) ^ d ≤ R) (hB : R < (q0 + 1) * (2 : ℝ) ^ d) :
    R < (2 : ℝ) ^ (d + b + 1) ∧ -2201 < d + b ∧ d + b < 2200 := by
  have hu : (0 : ℝ) < (2 : ℝ) ^ d := by positivity
  have hloR : (2 : ℝ) ^ b ≤ q0 := by exact_mod_cast hlo
  have hhiR : (q0 : ℝ) + 1 ≤ 2 ^ (b + 1) := by exact_mod_cast hhi
  obtain ⟨hmin, hmax⟩ := hmod
  rw [abs_of_pos hpos] at hmin hmax
  have hlower : (2 : ℝ) ^ (d + b) ≤ R := by
    rw [zpow_add₀ two_ne_zero, zpow_natCast, mul_comm]
    exact (mul_le_mul_of_nonneg_right hloR hu.le).trans hA
  have hupper : R < (2 : ℝ) ^ (d + b + 1) := by
    rw [add_assoc, zpow_add₀ two_ne_zero, ← Nat.cast_succ, zpow_natCast, mul_comm]
    exact hB.trans_le (mul_le_mul_of_nonneg_right hhiR hu.le)
  have hfirst := (zpow_lt_zpow_iff_right₀ one_lt_two).1 (hmin.trans_lt hupper)
  have hlast := (zpow_lt_zpow_iff_right₀ one_lt_two).1 (hlower.trans_lt hmax)
  exact ⟨hupper, by omega, by omega⟩

/-- What Round does is decided by the leading bit of the magnitude of the pattern without limits of range. -/
theorem FpFmt.round_by_unbounded (hf : f ∈ fpFormats) (hmag : Magnitude (f.fracBits + 1) R m e sticky) (hmod : Moderate R)
    {y : Nat} (hy : f.unbounded.Rounds v.rm (if neg then -R else R) y) :
    ∃ (top : Int) (x : FpResult), (2 : ℝ) ^ top ≤ |(f.unbounded.value y : ℝ)| ∧
      |(f.unbounded.value y : ℝ)| ≤ (2 ^ (f.fracBits + 1) - 1 : Nat) * (2 : ℝ) ^ (top - f.fracBits) ∧
      R < (2 : ℝ) ^ (top + 1) ∧
      f.round v neg m e sticky =
        if (f.bias : Int) < top then
          { conds := if v.enableO then condO else condO ||| condI, bits := f.overflowResult v.rm neg }
        else if top < f.eMin then f.tiny v neg m e sticky else x := by
  obtain ⟨hfrac, hbias⟩ := FpFmt.unbounded_range hf
  have hproper : f.unbounded.Proper := ⟨(FpFmt.proper_of_mem hf).1.trans (Nat.le_add_right _ 8), (FpFmt.proper_of_mem hf).2⟩
  have hmin : f.unbounded.eMin = 1 - (f.unbounded.bias : Int) := rfl
  obtain ⟨q0, up, inexact, hq, hbetween, hlo, hhi⟩ := FpFmt.leading f v.rm neg hmag.ne hmag.lo hmag.hi hmag.exact hmag.bits
  have hq0 : 2 ^ f.fracBits ≤ (if up then q0 + 1 else q0) ∧ (if up then q0 + 1 else q0) ≤ 2 ^ (f.fracBits + 1) := by
    cases up
    · exact ⟨hlo, hhi.le⟩
    · exact ⟨hlo.trans (Nat.le_succ q0), hhi⟩
  obtain ⟨n, d, x, hn, hn', hd, hval, hround⟩ := FpFmt.round_of_leading (e := e) v neg hq hq0.1 hq0.2
  obtain ⟨hR, hlow, hhigh⟩ := leading_bounds hmod hmag.pos hlo hhi hbetween.lo hbetween.hi
  have habs := hbetween.abs_value hproper hlo hhi (by rw [hmin]; change _ - (f.fracBits : Int) ≤ _; omega)
    (by change _ + (f.fracBits : Int) + 1 ≤ _; omega) hy
  have habs' : |(f.unbounded.value y : ℝ)| = n * (2 : ℝ) ^ d := by
    rw [habs, hval]
    cases up <;> simp
  have hu : (0 : ℝ) < (2 : ℝ) ^ d := by positivity
  refine ⟨d + f.fracBits, x, ?_, ?_, hR.trans_le (zpow_le_zpow_right₀ one_le_two (by omega)), hround⟩
  · rw [habs', zpow_add₀ two_ne_zero, zpow_natCast, mul_comm]
    exact mul_le_mul_of_nonneg_right (by exact_mod_cast hn) hu.le
  · rw [habs', add_sub_cancel_right]
    exact mul_le_mul_of_nonneg_right (by exact_mod_cast Nat.le_sub_one_of_lt hn') hu.le

end

/-! ## The statement -/

section
variable {f : FpFmt} {v : FpEnv} {x : Nat}

/-- A denormal operand that the parameters turn away stops every operation with condition E (R756). -/
theorem FpFmt.denormal_stops (hv : v.denormalOperand = .unimplemented) (hexp : x / 2 ^ f.fracBits % 2 ^ f.expBits = 0)
    (hfrac : x % 2 ^ f.fracBits ≠ 0) (g : FpFmt) (rm : BitVec 2) (sub : Bool) (y : Nat) :
    ∀ r ∈ [f.add v sub x y, f.add v sub y x, f.mul v x y, f.mul v y x, f.div v x y, f.div v y x, f.sqrt v x, f.convert g v x,
      f.toWord v rm x], r.conds = condE := by
  have hstop : f.stopsOn v x = true := by
    simp [FpFmt.stopsOn, FpFmt.isDenormal, FpFmt.exp, FpFmt.frac, hv, hexp, hfrac]
  simp [FpFmt.add, FpFmt.mul, FpFmt.div, FpFmt.sqrt, FpFmt.convert, FpFmt.toWord, hstop, FpResult.unimplemented]

end

/-- Settles O5: the place of the leading bit decides between overflow, a tiny result and a normal one. -/
theorem fpuRangeLimits : Obligations.FpuRangeLimits := by
  refine ⟨?_, fun f g v x y rm sub hf hv hexp hfrac _ => FpFmt.denormal_stops hv hexp hfrac g rm sub y⟩
  intro f v r x y neg hf hgives hr hy hneg w
  have hproper := FpFmt.proper_of_mem hf
  obtain ⟨hrange, hbias⟩ := f.expRange hproper
  obtain ⟨sign, R, m, e, sticky, rfl, hmag, rfl⟩ := FpFmt.gives_roundOf hgives hr
  have hR := hmag.pos
  have hsign : neg = sign := by
    rw [Bool.eq_iff_iff, hneg]
    cases sign
    · simpa using hR.le
    · simpa using hR
  subst hsign
  have hmod : Moderate R := by
    have hmod := FpFmt.gives_moderate hf hgives hr
    cases neg
    · exact hmod
    · simpa [Moderate] using hmod
  obtain ⟨top, z, hlow, hhigh, hRtop, hround⟩ := FpFmt.round_by_unbounded hf hmag hmod hy
  refine ⟨fun hover => ?overflow, fun htiny => ?tiny⟩
  case overflow =>
    have hover' : (f.value (f.largest false) : ℝ) < |(w : ℝ)| := by exact_mod_cast hover
    have htop : (f.bias : Int) < top := by
      by_contra hc
      rw [FpFmt.rat_largest hproper] at hover'
      refine absurd (hover'.trans_le hhigh) (not_lt.2 (mul_le_mul_of_nonneg_left ?_ (Nat.cast_nonneg _)))
      exact zpow_le_zpow_right₀ one_le_two (by omega)
    rw [hround, if_pos htop]
    exact ⟨fun hen => by rw [hen]; rfl, fun hen => ⟨by rw [hen]; rfl, FpFmt.overflowResult_eq v.rm neg⟩⟩
  case tiny =>
    have htiny' : |(w : ℝ)| < (2 : ℝ) ^ f.eMin := by
      rwa [← Rat.cast_lt (K := ℝ), Rat.cast_abs, Rat.cast_zpow, Rat.cast_ofNat] at htiny
    have htop : top < f.eMin := (zpow_lt_zpow_iff_right₀ one_lt_two).1 (hlow.trans_lt htiny')
    have hsmall : R < (2 : ℝ) ^ f.eMin := hRtop.trans_le (zpow_le_zpow_right₀ one_le_two (by omega))
    rw [hround, if_neg (by unfold FpFmt.eMin at htop; omega), if_pos htop]
    refine ⟨fun hfs => if_pos hfs, fun hfs hres => ?_, fun hfs hres => FpFmt.tiny_ieee hproper hfs hres hmag hsmall⟩
    simp only [FpFmt.tiny, hfs, hres, Bool.false_eq_true, if_false]

end Sys2Proof.Machine
end

section
/-! SUPPORT. The entries of exceptions, of NMI and of interrupts: what each writes and where it goes (R956, R957, R960 to R972,
R990). -/

namespace Sys2Proof.Machine

open Sys2Proof

/-! ## The return information and the code (R951, R960) -/

theorem State.noteReturn_of_exl {s : State} (h : isSet s.cp0.status 1 = true) : s.noteReturn = s := if_pos h

theorem State.noteReturn_of_not_exl {s : State} (h : isSet s.cp0.status 1 = false) :
    s.noteReturn =
      { s with cp0 := { s.cp0 with epc := s.restartPc, cause := putBit s.cp0.cause 31 (s.slot != .none) } } :=
  if_neg (Bool.eq_false_iff.1 h)

@[simp] theorem State.noteReturn_badVAddr (s : State) : s.noteReturn.cp0.badVAddr = s.cp0.badVAddr := by
  unfold State.noteReturn; split <;> rfl
@[simp] theorem State.noteReturn_context (s : State) : s.noteReturn.cp0.context = s.cp0.context := by
  unfold State.noteReturn; split <;> rfl
@[simp] theorem State.noteReturn_entryHi (s : State) : s.noteReturn.cp0.entryHi = s.cp0.entryHi := by
  unfold State.noteReturn; split <;> rfl
@[simp] theorem State.noteReturn_entryLo0 (s : State) : s.noteReturn.cp0.entryLo0 = s.cp0.entryLo0 := by
  unfold State.noteReturn; split <;> rfl
@[simp] theorem State.noteReturn_entryLo1 (s : State) : s.noteReturn.cp0.entryLo1 = s.cp0.entryLo1 := by
  unfold State.noteReturn; split <;> rfl

/-- The return information takes BD alone of Cause. -/
theorem State.noteReturn_cause_and (s : State) : s.noteReturn.cp0.cause &&& 0x7FFFFF83 = s.cp0.cause &&& 0x7FFFFF83 := by
  unfold State.noteReturn
  split
  · rfl
  · exact (cause_putBd ..).1

/-- Cause after an entry: the code, the bits besides it and BD, and BD. -/
theorem takeException_cause (e : Exc) (s : State) :
    (takeException e s).cp0.cause.extractLsb' 2 5 = e.code ∧
      (takeException e s).cp0.cause &&& 0x7FFFFF83 = s.cp0.cause &&& 0x7FFFFF83 ∧
      isSet (takeException e s).cp0.cause 31 = isSet s.noteReturn.cp0.cause 31 := by
  obtain ⟨-, hcause, -⟩ := takeException_epc e s
  obtain ⟨hcode, hrest, hbd⟩ := cause_putCode s.noteReturn.cp0.cause e.code
  rw [hcause]
  exact ⟨hcode, hrest.trans s.noteReturn_cause_and, hbd⟩

/-- At normal level an entry saves where to resume. -/
theorem takeException_saves (e : Exc) {s : State} (h : isSet s.cp0.status 1 = false) :
    (takeException e s).cp0.epc = s.restartPc ∧ isSet (takeException e s).cp0.cause 31 = (s.slot != .none) := by
  obtain ⟨-, -, hbd⟩ := takeException_cause e s
  rw [State.noteReturn_of_not_exl h] at hbd
  exact ⟨takeException_epc_restart e h, hbd.trans (cause_putBd ..).2⟩

/-- At exception level an entry leaves what is saved. -/
theorem takeException_keeps_saved (e : Exc) {s : State} (h : isSet s.cp0.status 1 = true) :
    (takeException e s).cp0.epc = s.cp0.epc ∧ isSet (takeException e s).cp0.cause 31 = isSet s.cp0.cause 31 := by
  obtain ⟨hepc, -, -⟩ := takeException_epc e s
  obtain ⟨-, -, hbd⟩ := takeException_cause e s
  rw [State.noteReturn_of_exl h] at hepc hbd
  exact ⟨hepc, hbd⟩

/-- Status gains EXL. -/
theorem takeException_status (e : Exc) (s : State) : (takeException e s).cp0.status = s.cp0.status ||| 2 := by
  obtain ⟨-, -, hstatus⟩ := takeException_epc e s
  exact hstatus

/-- An exception is one of an instruction unless it is an interrupt. -/
theorem Exc.synchronous_iff (e : Exc) : e.synchronous = true ↔ e ≠ .int := bne_iff_ne

/-! ## The vector (R956) -/

theorem Exc.offset_refill (va : Word) (st iv : Bool) : (Exc.tlbRefill va st).offset false iv = 0 := rfl

theorem Exc.offset_interrupt : Exc.int.offset false true = 0x200 := rfl

/-- The general vector: from exception level, and for what is neither a refill nor an interrupt with a vector of its own. -/
theorem Exc.offset_general {e : Exc} {exl iv : Bool}
    (h : exl = true ∨ ((¬∃ va st, e = .tlbRefill va st) ∧ ¬(e = .int ∧ iv = true))) : e.offset exl iv = 0x180 := by
  cases e with
  | tlbRefill va st =>
    obtain rfl | ⟨hrefill, -⟩ := h
    · rfl
    · exact absurd ⟨va, st, rfl⟩ hrefill
  | int =>
    obtain rfl | ⟨-, hint⟩ := h
    · rfl
    · have hiv : iv = false := Bool.eq_false_iff.2 fun hiv => hint ⟨rfl, hiv⟩
      rw [hiv]
      cases exl <;> rfl
  | _ => rfl

/-! ## The address registers (R965 to R967, R972) -/

/-- Other exceptions than those of addresses note nothing besides the return. -/
theorem State.noteExc_eq_self (s : State) {e : Exc}
    (h : ¬∃ va st, e = .mod va ∨ e = .tlbRefill va st ∨ e = .tlbInvalid va st ∨ e = .addressError va st) :
    s.noteExc e = s := by
  cases e with
  | mod va => exact absurd ⟨va, false, .inl rfl⟩ h
  | tlbRefill va st => exact absurd ⟨va, st, .inr (.inl rfl)⟩ h
  | tlbInvalid va st => exact absurd ⟨va, st, .inr (.inr (.inl rfl))⟩ h
  | addressError va st => exact absurd ⟨va, st, .inr (.inr (.inr rfl))⟩ h
  | _ => rfl

/-- An entry leaves the address registers as the notes of the exception have them. -/
theorem takeException_addressRegisters (e : Exc) (s : State) :
    let c := (takeException e s).cp0
    let d := (s.noteReturn.noteExc e).cp0
    c.badVAddr = d.badVAddr ∧ c.context = d.context ∧ c.entryHi = d.entryHi ∧ c.entryLo0 = d.entryLo0 ∧
      c.entryLo1 = d.entryLo1 :=
  ⟨rfl, rfl, rfl, rfl, rfl⟩

/-- A field that was put is read back. -/
theorem extractLsb'_putField {w : Nat} (x : BitVec w) (lo : Nat) {len : Nat} (v : BitVec len) (h : lo + len ≤ w) :
    (putField x lo v).extractLsb' lo len = v := by
  refine BitVec.eq_of_getLsbD_eq fun k hk => ?_
  have hbit := isSet_putField x lo v (show lo + k < w by omega)
  rw [if_pos (by omega), Nat.add_sub_cancel_left] at hbit
  rw [BitVec.getLsbD_extractLsb', decide_eq_true hk, Bool.true_and]
  exact hbit

/-- Context with another page number keeps the bits around it. -/
theorem withBadVpn_and (context : Word) (vpn2 : BitVec 19) : withBadVpn context vpn2 &&& 0xFF80000F = context &&& 0xFF80000F :=
  putField_and (by decide)

/-- EntryHi with another page number keeps the bits below it. -/
theorem withVpn2_and (entryHi : Word) (vpn2 : BitVec 19) : withVpn2 entryHi vpn2 &&& 0x1FFF = entryHi &&& 0x1FFF :=
  putField_and (by decide)

/-- The address registers after a TLB exception. -/
theorem State.noteTlb_fields (s : State) (va : Word) :
    let c := (s.noteTlb va).cp0
    c.badVAddr = va ∧ c.context.extractLsb' 4 19 = va.extractLsb' 13 19 ∧ c.context &&& 0xFF80000F = s.cp0.context &&& 0xFF80000F ∧
      c.entryHi.extractLsb' 13 19 = va.extractLsb' 13 19 ∧ c.entryHi &&& 0x1FFF = s.cp0.entryHi &&& 0x1FFF :=
  ⟨rfl, extractLsb'_putField _ _ _ (by decide), withBadVpn_and .., extractLsb'_putField _ _ _ (by decide), withVpn2_and ..⟩

/-- The address registers after an address error: page numbers that nothing fixes. -/
theorem State.noteAddress_fields (s : State) (va : Word) :
    let c := (s.noteAddress va).cp0
    c.badVAddr = va ∧ c.context &&& 0xFF80000F = s.cp0.context &&& 0xFF80000F ∧ c.entryHi &&& 0x1FFF = s.cp0.entryHi &&& 0x1FFF :=
  ⟨rfl, withBadVpn_and .., withVpn2_and ..⟩

/-- Settles O46: the parts of an entry, one after the other. -/
theorem exceptionEntry : Obligations.ExceptionEntry := by
  intro e s t exl base refill addressed code
  obtain ⟨hcode, hrest, -⟩ := takeException_cause e s
  have hpc {offset : Word} (ho : e.offset exl (isSet s.cp0.cause 23) = offset) : t.pc = base + offset :=
    (takeException_pc e s).trans (congrArg (base + ·) ho)
  have hcodeOf : e.code = code := by cases e <;> rfl
  refine ⟨takeException_saves e, takeException_keeps_saved e, hcode.trans hcodeOf, hrest, takeException_status e s, ?refill,
    ?interrupt, fun h => hpc (Exc.offset_general h), rfl, rfl, e.synchronous_iff, takeException_frame e s,
    takeException_cp0 e s, ?addresses⟩
  case refill =>
    rintro hexl ⟨va, st, rfl⟩
    exact (hpc (hexl ▸ Exc.offset_refill va st _)).trans (BitVec.add_zero base)
  case interrupt =>
    rintro hexl rfl hiv
    exact hpc (hexl ▸ hiv ▸ Exc.offset_interrupt)
  case addresses =>
    intro h
    have hregs := takeException_addressRegisters e s
    rw [State.noteExc_eq_self _ h] at hregs
    simpa using hregs

/-- Settles O47: the registers as the notes of the exception leave them. -/
theorem exceptionAddresses : Obligations.ExceptionAddresses := by
  intro s va st
  refine ⟨fun e he => ?tlb, ?address⟩
  case tlb =>
    have hnote : s.noteReturn.noteExc e = s.noteReturn.noteTlb va := by rcases he with rfl | rfl | rfl <;> rfl
    have hfields := s.noteReturn.noteTlb_fields va
    rw [← hnote, State.noteReturn_context, State.noteReturn_entryHi] at hfields
    exact hfields
  case address =>
    have hfields := s.noteReturn.noteAddress_fields va
    rw [State.noteReturn_context, State.noteReturn_entryHi] at hfields
    exact hfields

/-! ## NMI and interrupts (R957, R990) -/

/-- Status after an NMI by masks. -/
theorem nmiStatus_eq (v : Word) : nmiStatus v = (v &&& 0xFFDFFFFF) ||| 0x00480004 := by
  calc nmiStatus v = (((v ||| 0x00400000) &&& 0xFFDFFFFF) ||| 0x00080000) ||| 0x00000004 := rfl
    _ = (v &&& 0xFFDFFFFF) ||| 0x00480004 := by
      rw [BitVec.and_or_distrib_right, BitVec.or_assoc, BitVec.or_assoc]
      rfl

/-- Settles O48: the NMI comes first in a step, and only the tracking follows its entry. -/
theorem nonMaskableInterrupt : Obligations.NonMaskableInterrupt := by
  intro s hnext hnmi
  refine ⟨((takeNmi s).trackNmi s).hazard, ?_⟩
  rw [step_nmi hnext hnmi, trackNmi_eq, ← nmiStatus_eq]
  rfl

/-- A request through the mask, with interrupts on. -/
theorem interruptRequest_of_enabled {s : State} (hip : s.ip &&& s.cp0.status.extractLsb' 8 8 ≠ 0)
    (hie : isSet s.cp0.status 0 = true) (hexl : isSet s.cp0.status 1 = false) (herl : isSet s.cp0.status 2 = false) :
    s.interruptRequest = true := by
  have hmasked : s.maskedRequest = true := bne_iff_ne.2 hip
  rw [State.interruptRequest, State.exl, State.erl, hmasked, hie, hexl, herl]
  rfl

/-- The dry run raises an exception: it is taken. -/
theorem runInterrupt_of_exception {s t : State} (h : runInstr s = .next t) (ht : t.excTaken = true) :
    runInterrupt s = .next t := by
  rw [runInterrupt, h]
  exact congrArg Host.Outcome.next (if_pos ht)

/-- The dry run completes: the interrupt is taken instead. -/
theorem runInterrupt_of_completion {s t : State} (h : runInstr s = .next t) (ht : t.excTaken = false) :
    runInterrupt s = .next (takeException .int s.enterHandler) := by
  rw [runInterrupt, h]
  exact congrArg Host.Outcome.next (if_neg (Bool.eq_false_iff.1 ht))

/-- The dry run stops: the interrupt is taken before it. -/
theorem runInterrupt_of_stop {s : State} (h : ∀ t, runInstr s ≠ .next t) :
    runInterrupt s = .next (takeException .int s.enterHandler) := by
  unfold runInterrupt
  split
  · next t ht => exact absurd ht (h t)
  · rfl

/-- Settles O49: the step is that of a request, and the three ends of the dry run. -/
theorem interruptTaken : Obligations.InterruptTaken := by
  intro s hnext hnmi hdelay hip hie hexl herl u interrupted
  have hstep : step s = afterCpu (runInterrupt u) :=
    step_interrupt hnext hnmi (interruptRequest_of_enabled hip hie hexl herl) hdelay
  refine ⟨fun t ht hexc => ?_, fun t ht hexc => ?_, fun hstop => ?_⟩
  · exact hstep.trans (congrArg afterCpu (runInterrupt_of_exception ht hexc))
  · exact hstep.trans (congrArg afterCpu (runInterrupt_of_completion ht hexc))
  · exact hstep.trans (congrArg afterCpu (runInterrupt_of_stop hstop))

end Sys2Proof.Machine
end

section
/-! SUPPORT. Time: how the interval timer counts down, and what a CLK tick with the core clock on moves (R1060, R1066). -/

namespace Sys2Proof.Machine

open Sys2Proof

/-! ## The interval timer (R1060) -/

/-- The ticks that the interval timer is away from its expiry: its two counters as one number. -/
def ItTimer.ticksLeft (t : ItTimer) : Nat := t.count.toNat * (t.scale.toNat + 1) + t.scount.toNat

/-- Before its expiry a tick moves the counters only, by one place of the number they form. -/
theorem ItTimer.tick_running {t : ItTimer} (hen : t.en = true) (hleft : 0 < t.ticksLeft) :
    t.tick = { t with count := t.tick.count, scount := t.tick.scount } ∧ t.tick.ticksLeft + 1 = t.ticksLeft := by
  unfold ItTimer.tick
  rw [if_pos hen]
  split
  · next hscount =>
    have hplace : (t.scount - 1).toNat + 1 = t.scount.toNat := by bv_omega
    exact ⟨rfl, congrArg (t.count.toNat * (t.scale.toNat + 1) + ·) hplace⟩
  · next hscount =>
    have hscount : t.scount = 0 := not_not.1 hscount
    have hcount : t.count ≠ 0 := by
      intro hcount
      simp [ItTimer.ticksLeft, hcount, hscount] at hleft
    have hplace : (t.count - 1).toNat + 1 = t.count.toNat := by bv_omega
    rw [if_pos hcount]
    refine ⟨rfl, ?_⟩
    calc (t.count - 1).toNat * (t.scale.toNat + 1) + (t.scale.toNat + 1)
      _ = ((t.count - 1).toNat + 1) * (t.scale.toNat + 1) := (Nat.succ_mul _ _).symm
      _ = t.ticksLeft := by rw [ItTimer.ticksLeft, hplace, hscount]; rfl

/-- At its expiry a tick sets INT and loads the counters. -/
theorem ItTimer.tick_expiry {t : ItTimer} (hen : t.en = true) (hleft : t.ticksLeft = 0) :
    t.tick = { t with int := true, scount := t.scale, count := t.period } := by
  obtain ⟨hprod, hscount⟩ := Nat.add_eq_zero_iff.1 hleft
  have hcount := (Nat.mul_eq_zero.1 hprod).resolve_right (Nat.succ_ne_zero _)
  unfold ItTimer.tick
  rw [if_pos hen, if_neg (not_not.2 (BitVec.eq_of_toNat_eq hscount)), if_neg (not_not.2 (BitVec.eq_of_toNat_eq hcount))]

/-- Any number of ticks up to the expiry move the counters only, by as many places. -/
theorem ItTimer.iterate_tick_running {t : ItTimer} (hen : t.en = true) (k : Nat) (hk : k ≤ t.ticksLeft) :
    ItTimer.tick^[k] t = { t with count := (ItTimer.tick^[k] t).count, scount := (ItTimer.tick^[k] t).scount } ∧
      (ItTimer.tick^[k] t).ticksLeft + k = t.ticksLeft := by
  induction k with
  | zero => exact ⟨rfl, rfl⟩
  | succ k ih =>
    obtain ⟨hsame, hleft⟩ := ih (by omega)
    rw [Function.iterate_succ_apply']
    obtain ⟨hsame', hleft'⟩ := ItTimer.tick_running (t := ItTimer.tick^[k] t) (by rw [hsame]; exact hen) (by omega)
    refine ⟨hsame'.trans ?_, by omega⟩
    rw [hsame]

/-- INT is set by the tick after `ticksLeft` ticks, which loads the counters. -/
theorem ItTimer.iterate_tick_expiry {t : ItTimer} (hen : t.en = true) :
    ItTimer.tick^[t.ticksLeft + 1] t = { t with int := true, scount := t.scale, count := t.period } := by
  obtain ⟨hsame, hleft⟩ := ItTimer.iterate_tick_running hen _ le_rfl
  rw [Function.iterate_succ_apply', ItTimer.tick_expiry (by rw [hsame]; exact hen) (by omega), hsame]

/-- A timer that was just loaded is one tick short of its period. -/
theorem ItTimer.ticksLeft_loaded {t : ItTimer} (hcount : t.count = t.period) (hscount : t.scount = t.scale) :
    t.ticksLeft + 1 = (t.period.toNat + 1) * (t.scale.toNat + 1) := by
  rw [ItTimer.ticksLeft, hcount, hscount, Nat.succ_mul, Nat.add_assoc]

/-! ## The CLK tick (R1051, R1066) -/

/-- An RTCXTI tick that is due moves the real-time timer and the gap only. -/
theorem rttTick_frame (s : State) :
    rttTick s = { s with rtimer := (rttTick s).rtimer, rttGap := (rttTick s).rttGap } := by
  unfold rttTick
  split <;> rfl

/-- The tick of the core clock moves Count, the timers and the UART, and may request an NMI. -/
theorem coreTick_frame {s : State} (hon : s.sys.coreClockOn = true) :
    coreTick s = { s with
      cp0 := s.cp0.tick, itimer := s.itimer.tick, uart := (coreTick s).uart, wdt := (coreTick s).wdt,
      nmiPending := (coreTick s).nmiPending } := by
  unfold coreTick
  rw [if_pos hon]
  rfl

/-- With the core clock on a CLK tick moves what these two do, the samplers of the ports and the time, and nothing else. -/
theorem clkTick_frame {s : State} (hon : s.sys.coreClockOn = true) :
    clkTick s = { s with
      cp0 := s.cp0.tick, itimer := s.itimer.tick, clk := s.clk + 1, uart := (clkTick s).uart, wdt := (clkTick s).wdt,
      nmiPending := (clkTick s).nmiPending, mfbsp := (clkTick s).mfbsp, rtimer := (clkTick s).rtimer,
      rttGap := (clkTick s).rttGap } := by
  have hcore := coreTick_frame (s := rttTick s) (by rw [rttTick_frame]; exact hon)
  unfold clkTick
  dsimp only
  rw [hcore, rttTick_frame]
  rfl

/-! ## The statement -/

/-- Settles O51: the counters run down as one number, and the rest is the frame of the CLK tick. -/
theorem timerPeriods : Obligations.TimerPeriods := by
  constructor
  case left =>
    intro t hen hint hcount hscount n
    have hn : t.ticksLeft + 1 = n := ItTimer.ticksLeft_loaded hcount hscount
    refine ⟨fun k hk => ?_, ?_⟩
    · obtain ⟨hsame, -⟩ := ItTimer.iterate_tick_running hen k (by omega)
      rw [hsame]
      exact hint
    · rw [← hn, ItTimer.iterate_tick_expiry hen, ← hcount, ← hscount]
  case right =>
    intro s hon u
    have hu : u = _ := clkTick_frame hon
    rw [hu]
    exact ⟨rfl, rfl, rfl, rfl, rfl, rfl, rfl, rfl, rfl, rfl, rfl, rfl, rfl, rfl, rfl⟩

end Sys2Proof.Machine
end

section
/-! SUPPORT. The state after reset: the registers that stand in vectors, and the register words that are put together on a read (R1201,
R1203). -/

namespace Sys2Proof.Machine

open Sys2Proof

/-! ## Registers that stand in vectors -/

theorem State.reset_tlb (i : Fin 16) : State.reset.tlb[i] = .reset := Vector.getElem_replicate i.isLt
theorem State.reset_channel (c : Fin 16) : State.reset.channel c = .reset := Vector.getElem_replicate c.isLt
theorem State.reset_maskr (n : Fin 4) : State.reset.sys.maskr[n] = 0 := Vector.getElem_replicate n.isLt
theorem State.reset_cscon (i : Fin 5) : State.reset.mport.cscon[i] = 0x000F0000 := Vector.getElem_replicate i.isLt

/-! ## Words put together on a read -/

/-- With no error waiting the control word of a Hamming controller reads as it is kept, with NEMPTY clear (R281). -/
theorem EccCtl.readCsr_of_fifo_nil {c : EccCtl} (h : c.fifo = []) : c.readCsr = c.csr &&& ~~~4 := by
  rw [EccCtl.readCsr, h]
  rfl

theorem EccCtl.reset_readCsr : EccCtl.reset.readCsr = 0x00FF0000 := EccCtl.readCsr_of_fifo_nil rfl
theorem Ecc.reset_ext_readCsr : Ecc.reset.ext.readCsr = 0x00FF0010 := EccCtl.readCsr_of_fifo_nil rfl

/-- The defined bits of Status after reset: ERL and BEV (R1201). -/
theorem Cp0.reset_status : Cp0.reset.status &&& 0x0FFF00EC = 0x00400004 := by decide

theorem State.reset_irqm : State.reset.sysRead 0x4030 = 0 := State.reset.sysRead_irqm

theorem ItTimer.reset_csr : ItTimer.reset.read 0x00 = 0 := rfl
theorem WdTimer.reset_csr : WdTimer.reset.read 0x10 = 0 := rfl
theorem RtTimer.reset_csr : RtTimer.reset.read 0x20 = 0 := rfl

/-- CSCON3 shows the pin BYTE in bit 24 (log 10). -/
theorem State.mportRead_cscon3 {s : State} (h : s.params.bytePin = false) : s.mportRead 0x100C = s.mport.cscon[3] := by
  rw [State.mportRead, h]
  exact BitVec.or_zero

/-- SDRCON shows the CL that was installed last (R246), which is 2 after reset. -/
theorem State.reset_sdrcon : State.reset.mportRead 0x1014 = 0x00000020 := rfl
/-- No mode command of SDRAM runs after reset. -/
theorem State.reset_sdrcsr : State.reset.mportRead 0x101C = 0 := rfl

/-- Settles O53: the values stand in `State.reset`, and the words put together on a read are the ones above. The conjuncts go unit by
unit: CPU and CP0, TLB, system block, Hamming controllers, timers, external memory port, DMA. -/
theorem resetValues : Obligations.ResetValues := by
  unfold Obligations.ResetValues
  intro s
  have hmaskr := State.reset_maskr
  have hcscon := State.reset_cscon
  have hcscon3 : s.mportRead 0x100C = 0x000F0000 := (State.mportRead_cscon3 rfl).trans (hcscon 3)
  exact ⟨rfl, rfl, rfl, rfl, rfl, rfl, Cp0.reset_status, s.readGpr_zero,
    fun i => congrArg TlbEntry.init (State.reset_tlb i),
    rfl, rfl, rfl, hmaskr 0, hmaskr 1, hmaskr 2, hmaskr 3, State.reset_irqm,
    EccCtl.reset_readCsr, EccCtl.reset_readCsr, EccCtl.reset_readCsr,
    ItTimer.reset_csr, rfl, rfl, rfl, WdTimer.reset_csr, rfl, rfl, rfl, RtTimer.reset_csr, rfl, rfl,
    hcscon 0, hcscon 1, hcscon 2, hcscon3, hcscon 4, State.reset_sdrcon, rfl, State.reset_sdrcsr, rfl, Ecc.reset_ext_readCsr,
    fun c => congrArg (fun ch => ch.csr &&& 0xFFFF) (State.reset_channel c)⟩

end Sys2Proof.Machine
end
